-- ==== Sys2Proof/Word.lean ====
section
/-! DEFINITION. The data sizes of R6, the register field codes of R100, the element formats of R36 and R51, and the
small closed sets of codes that instruction words carry (R104, R112, R114, R340). -/

namespace Sys2Proof

/-- A byte (R6). -/
abbrev Byte := BitVec 8
/-- A dword (R6): the width of general registers, addresses and control registers. -/
abbrev Word := BitVec 64
/-- A vector register: 128 bits (R247). -/
abbrev VWord := BitVec 128
/-- A predicate register: one bit for each byte lane (R148). -/
abbrev PWord := BitVec 16
/-- A policy image (R173). -/
abbrev Policy := BitVec 32
/-- One instruction or hint word (R98). -/
abbrev IWord := BitVec 32
/-- A 64-byte record: a task, launch or counter record (R41, R43, R45, R67), numbered as R4 states. -/
abbrev Rec512 := BitVec 512
/-- A 96-byte layout record (R50). -/
abbrev Rec768 := BitVec 768
/-- A 32-byte record: a map parameter block, a MAPGETN request or a scan record (R296, R321, R324). -/
abbrev Rec256 := BitVec 256

/-- A 6-bit general or vector register field (R100). -/
abbrev RField := BitVec 6
/-- A field that names an even general register by its upper five bits (R111, R116, R219). -/
abbrev EField := BitVec 5
/-- A predicate field (R100). -/
abbrev PField := BitVec 3
/-- A policy field: q0 to q7 (R100). -/
abbrev QField := BitVec 3

/-- Bits lo to hi of a record or register, as a number (R2, R4). -/
def bitsOf {n : Nat} (x : BitVec n) (hi lo : Nat) : Nat := x.toNat / 2 ^ lo % 2 ^ (hi + 1 - lo)

/-- One bit of a record or register. -/
def bitOf {n : Nat} (x : BitVec n) (i : Nat) : Bool := x.toNat / 2 ^ i % 2 == 1

/-- x with bits lo to hi replaced by the low bits of v. -/
def putBits {n : Nat} (x : BitVec n) (hi lo v : Nat) : BitVec n :=
  BitVec.ofNat n (x.toNat - bitsOf x hi lo * 2 ^ lo + v % 2 ^ (hi + 1 - lo) * 2 ^ lo)

/-- The element formats, in the order of their codes (R51). -/
inductive Fmt where
  | b8 | b16 | b32 | b64 | s8 | s16 | s32 | s64 | h | bf | f | d | e4 | e5 | q4
deriving DecidableEq, Repr

/-- The code of a format (R51). -/
def Fmt.code : Fmt → Nat
  | .b8 => 0 | .b16 => 1 | .b32 => 2 | .b64 => 3 | .s8 => 4 | .s16 => 5 | .s32 => 6 | .s64 => 7
  | .h => 8 | .bf => 9 | .f => 10 | .d => 11 | .e4 => 12 | .e5 => 13 | .q4 => 14

/-- The format a code names; code 15 is reserved (R51). -/
def Fmt.ofCode : Nat → Option Fmt
  | 0 => some .b8 | 1 => some .b16 | 2 => some .b32 | 3 => some .b64 | 4 => some .s8 | 5 => some .s16
  | 6 => some .s32 | 7 => some .s64 | 8 => some .h | 9 => some .bf | 10 => some .f | 11 => some .d
  | 12 => some .e4 | 13 => some .e5 | 14 => some .q4 | _ => none

/-- Integer formats are codes 0 to 7 (R248). -/
def Fmt.isInt (t : Fmt) : Bool := t.code < 8
/-- The four formats of vector floating-point arithmetic (R248). -/
def Fmt.isVFloat (t : Fmt) : Bool := 8 ≤ t.code && t.code < 12
/-- Every floating-point format of R227. -/
def Fmt.isFloat (t : Fmt) : Bool := 8 ≤ t.code && t.code < 14
/-- Signed integers (.s suffixes, R36). -/
def Fmt.isSigned (t : Fmt) : Bool := 4 ≤ t.code && t.code < 8
/-- Width of an element in bits (R36, R51). -/
def Fmt.bits : Fmt → Nat
  | .b8 | .s8 | .e4 | .e5 => 8
  | .b16 | .s16 | .h | .bf => 16
  | .b32 | .s32 | .f => 32
  | .b64 | .s64 | .d => 64
  | .q4 => 4

/-- The conditions of VCMP, in the order of their codes (R114). -/
inductive VCond where
  | eq | ne | lt | le | gt | ge | un
deriving DecidableEq, Repr

def VCond.code : VCond → Nat
  | .eq => 0 | .ne => 1 | .lt => 2 | .le => 3 | .gt => 4 | .ge => 5 | .un => 6

def VCond.ofCode : Nat → Option VCond
  | 0 => some .eq | 1 => some .ne | 2 => some .lt | 3 => some .le | 4 => some .gt | 5 => some .ge | 6 => some .un
  | _ => none

/-- Orders of a policy image and kinds of a fence (R340). -/
inductive Order where
  | relaxed | acquire | release | acqRel | sync
deriving DecidableEq, Repr

def Order.code : Order → Nat
  | .relaxed => 0 | .acquire => 1 | .release => 2 | .acqRel => 3 | .sync => 4

def Order.ofCode : Nat → Option Order
  | 0 => some .relaxed | 1 => some .acquire | 2 => some .release | 3 => some .acqRel | 4 => some .sync
  | _ => none

/-- Scopes (R104, R339). -/
inductive Scope where
  | strand | core | cluster | die | package | system
deriving DecidableEq, Repr

def Scope.code : Scope → Nat
  | .strand => 0 | .core => 1 | .cluster => 2 | .die => 3 | .package => 4 | .system => 5

def Scope.ofCode : Nat → Option Scope
  | 0 => some .strand | 1 => some .core | 2 => some .cluster | 3 => some .die | 4 => some .package
  | 5 => some .system | _ => none

/-- The partitions that REPART names, by their code in b (R89). -/
inductive Part where
  | p8 | p4 | p2
deriving DecidableEq, Repr

/-- PART.MODE of a partition (R78); the same numbers are REPART's codes (R89). -/
def Part.code : Part → Nat
  | .p8 => 1 | .p4 => 2 | .p2 => 3

def Part.ofCode : Nat → Option Part
  | 1 => some .p8 | 2 => some .p4 | 3 => some .p2 | _ => none

/-- Strands of a core, S (R77). -/
def Part.strands : Part → Nat
  | .p8 => 8 | .p4 => 4 | .p2 => 2
/-- General registers of a user strand (R77). -/
def Part.gregs : Part → Nat
  | .p8 => 32 | .p4 => 64 | .p2 => 128
/-- Vector registers of a user strand (R77). -/
def Part.vregs : Part → Nat
  | .p8 => 16 | .p4 => 32 | .p2 => 60

/-- A strand of the package: its core identifier (R16) and its number (R77). -/
structure SId where
  core : Nat
  strand : Nat
deriving DecidableEq, Repr

/-- The kinds of access that translation and permission distinguish (R401). -/
inductive Access where
  | read | write | fetch
deriving DecidableEq, Repr

/-- An engine that a quiesce marker passes through (R371). -/
inductive Engine where
  | copy (core : Nat) | array (core : Nat) | map (slice : Nat) | collective (die : Nat) | dispatcher
deriving DecidableEq, Repr

/-- The places that may hold a line (R166): a cluster's L1, a die's L2, the gateway of a die for one port, and the LLC. -/
inductive Place where
  | l1 (cluster : Nat) | l2 (die : Nat) | gateway (die port : Nat) | llc
deriving DecidableEq, Repr

/-- The operations of atomics (R351). -/
inductive AOp where
  | add | and | or | xor | min | max | minz | maxz | xchg | cas | fadd
deriving DecidableEq, Repr

/-- What a request from outside asks of the home (R405, R407, R408, R413): the line of its address, a write, or a peer's atomic of n
bytes (R351) with its operands, its rounding mode and, in bit 3, FTZ. -/
inductive Ingress where
  | read
  | write (bytes : List Byte)
  | atomic (op : AOp) (n : Nat) (y c : Word) (mode : Nat)
deriving DecidableEq, Repr

/-- An image of firmware or of the runtime (R428), with its signature's verdict and its security version. -/
structure Image where
  bytes : List Byte
  signed : Bool
  version : Nat
deriving DecidableEq, Repr

/-- What firmware does at boot (R428, R431): the value of SVEC, the runtime image and the physical address at which it is loaded, the
device registers that firmware sets, and the strands that it starts with their first addresses. -/
structure Boot where
  svec : Word
  runtime : Option Image
  place : Nat
  regs : List (Nat × Word)
  starts : List (SId × Word)
deriving DecidableEq, Repr

/-- Where a soft error strikes (R187): a sector of physical memory, of a core's scratch or of a cached copy. -/
inductive Struck where
  | mem (sector : Nat) | scratch (core sector : Nat) | copy (place : Place) (sector : Nat)
deriving DecidableEq, Repr

end Sys2Proof
end

