-- ==== Sys2Proof/Config.lean ====
section
/-! DEFINITION. What an implementation fixes and the free values: values the spec leaves open, as constants without a
body, so that nothing can be proved of them (notes/assumptions/7.md and 8.md), and the fixed figures of R13 and R160. -/

namespace Sys2Proof.Config

/-- A byte of a live map's allocator map, whose layout is not architectural (R300): a free value of the byte's physical
address and of the moment it was last written. notes/assumptions/8.md. -/
opaque allocatorByte : Nat → Nat → Byte

/-- The SHAKE256 measurement of an image (R428): named by the spec, computed outside it. notes/assumptions/7.md. -/
opaque shake256 : List Byte → Rec512

/-- The unique secret in the key fuses (R429, R430): a free value. notes/assumptions/7.md. -/
opaque fusedSecret : List Byte

/-- The Ed448 key that SHAKE256 derives from a secret (R430): a free value. notes/assumptions/7.md. -/
opaque shake256Key : List Byte → List Byte

/-- The Ed448 signature by a key over a report (R430): a free value. notes/assumptions/7.md. -/
opaque ed448Sign : List Byte → List Byte → List Byte

/-- The fused minimum security version (R428): a free value. notes/assumptions/7.md. -/
opaque minVersion : Nat

/-- The fused serial number of the device (R430). notes/assumptions/7.md. -/
opaque serialNumber : Nat

/-- The row of the Madder histogram for a slot in none of the states that R426 lists: a free value of its core cycle.
notes/assumptions/10.md. -/
opaque unlistedSlot : Nat → BitVec 4

/-- Base of the scratch window (R160). -/
def scratchBase : Nat := 0x01F0000000000000
/-- Size of a core's scratch (R163). -/
def scratchSize : Nat := 0x40000
/-- HBM ends here (R161). -/
def hbmEnd : Nat := 0xC000000000
/-- HBM homed by one die (R161). -/
def hbmPerDie : Nat := 0x1800000000
/-- First device register address (R161). -/
def devBase : Nat := 0x3000000000000
def devEnd : Nat := 0x4000000000000
/-- Peer windows (R161, R413). -/
def peerBase : Nat := 0x4000000000000
def peerEnd : Nat := 0x8000000000000
/-- Host memory (R161, R406). -/
def hostBase : Nat := 0x8000000000000
def hostEnd : Nat := 0x10000000000000
/-- Scratch bytes take their place in one numbering of bytes above every physical address: byte o of core c. -/
def scratchLoc (core off : Nat) : Nat := 0x10000000000000 + core * 0x40000 + off
/-- Reset image of a precision register (R270). -/
def precReset : Word := 0x00000A0091C091C0
/-- A scale word read from outside HBM, or of a line without a sidecar: a NaN block (R182, R214). -/
def nanBlock : BitVec 24 := 0x3FC000

end Sys2Proof.Config
end

