-- ==== Sys2Proof/Machine/Event.lean ====
section
/-! DEFINITION. The steps of the opcode table that have no word, as data: what the agenda of the state holds. Each names
the row of Instr of the same name and operands; Lean's runtime cannot build values of an inductive type beyond its 245th
constructor, so the agenda does not hold Instr itself (notes/assumptions/1.md). -/

namespace Sys2Proof.Machine

/-- A step of an agent other than a strand issuing a word. -/
inductive Event where
  | launchRecord (queue : Nat) (aligned : Bool) (record : Rec512)
  | counterRecord (queue : Nat) (aligned : Bool) (record : Rec512)
  | qcfgWrite (queue : Nat) (value : Word)
  | dispatcherTake (queue : Option Nat)
  | gangStart (job counter : Nat)
  | dealUnit (job counter : Nat)
  | unitRetire (job counter : Nat)
  | phaseAgentArrival (job die : Nat)
  | phaseBarrier (job : Nat)
  | cancelComplete (job counter : Nat)
  | pop (sid : SId)
  | stealRequest (sid : SId)
  | stealReply (sid : SId)
  | stealRoundRetry (sid : SId)
  | lateEventTest (sid : SId)
  | holdEnd (sid : SId) (rotations : Nat)
  | landing (sid : SId)
  | deferredEffect (sid : SId)
  | parkResume (sid : SId)
  | requestRetry (sid : SId) (seq : Nat)
  | storePerformed (sid : SId) (delay : BitVec 16)
  | fullEmptyHomeOperation (word : Nat)
  | rangeStep (sid : SId)
  | registration (sid : SId)
  | copyStart (core : Nat)
  | byteLanding (core op pick : Nat)
  | heldFlipApply (core : Nat)
  | messageArrival (core pick : Nat)
  | followOnStart (core : Nat)
  | linkWordArrival (core port : Nat)
  | streamWordArrival (core : Nat)
  | routeGrant (core : Nat)
  | routeAutoClose (sid : SId)
  | sfuAccept (cluster : Nat)
  | sfuResult (cluster : Nat)
  | arrayCommandStart (core : Nat)
  | kStepEnd (core : Nat)
  | mzeroApply (core : Nat)
  | bankRelease (core : Nat) (bank : BitVec 1)
  | sequencerAccept (sid : SId) (seq : Nat)
  | mapnewComplete (sid : SId)
  | mapgetnDispatch (core op : Nat)
  | mapgetnResult (core op pick : Nat)
  | mapscanSliceStep (sid : SId)
  | settleStep (sid : SId)
  | mapclrShardStep (sid : SId)
  | mapinfoAnswer (sid : SId)
  | woadArrival (sid : SId)
  | woadRelease (channel : Nat)
  | gangstallExpiry (gang : Nat)
  | quiesceSignalArrival (sid : SId)
  | domainStop (sid : SId)
  | quiesceMarkerPass (job : Nat) (engine : Engine)
  | migrationComplete (source dest : Nat)
  | dbgctlStop (sid : SId) (value : Word)
  | dbgctlGo (sid : SId) (value : Word)
  | debugStop (sid : SId)
  | stepStop (sid : SId)
  | pageWalk (cluster job : Nat) (va : Word) (access : Access)
  | tlbinvComplete (sid : SId)
  | ingressRequest (pa : Nat) (request : Ingress) (poison peer : Bool)
  | hostSnoop (line : Nat) (data : Option (List Byte))
  | coltailWrite (die : Nat) (value : Word)
  | colheadErrClear (die : Nat)
  | collectiveStepStart (die : Nat)
  | collectiveStepEnd (die : Nat) (incoming : List Byte) (poison : Bool)
  | watchdogExpiry (die : Nat)
  | madcfgClr (die : Nat) (value : Word)
  | madderSample (sid : SId)
  | ptpMessage (lock : Bool) (offset : BitVec 32) (slew : Int) (forward : Nat)
  | clampSample (watts celsius : Nat)
  | deviceReset (image : List Byte) (signed : Bool) (version : Nat) (boot : Boot)
  | recoveryImageWrite (image : List Byte) (signed : Bool) (version : Nat)
  | attestationRequest (nonce : Rec512)
  | registerWrite (address : Nat) (value : Word)
  | softError (struck : Struck) (correctable : Bool)
  | homeSliceRequest (sid : SId) (seq : Nat) (refuse : Option (BitVec 6))
  | memoryResponse (sid : SId) (seq : Nat) (delay : BitVec 16)
  | jobCreate (job : Nat) (cores : List Nat) (counters : Nat) (part : Part) (channels : List (Nat × Nat)) (phase : Option Nat)
  | jobDestroy (job : Nat)
deriving DecidableEq, Repr

end Sys2Proof.Machine
end

