-- ==== Sys2Proof/Machine/Tab.lean ====
section
/-! DEFINITION. Sparse tables: ascending lists of (key, value) pairs. `Tab.put` and `Tab.find?` are the plain table; the
`Cells` operations keep ONE canonical form for a table whose unlisted keys read as a default, so that equal contents are
equal lists. -/

namespace Sys2Proof.Machine

/-- Keys ascending, no repeats. -/
abbrev Tab (α : Type) := List (Nat × α)

/-- The value listed at a key. -/
def Tab.find? {α : Type} : Tab α → Nat → Option α
  | [], _ => none
  | (k, v) :: t, i => if i = k then some v else Tab.find? t i

/-- Lists v at key i, replacing what was there. -/
def Tab.put {α : Type} : Tab α → Nat → α → Tab α
  | [], i, v => [(i, v)]
  | (k, w) :: t, i, v => if i < k then (i, v) :: (k, w) :: t else if i = k then (i, v) :: t else (k, w) :: Tab.put t i v

/-- Lists nothing at key i. -/
def Tab.drop {α : Type} : Tab α → Nat → Tab α
  | [], _ => []
  | (k, w) :: t, i => if i = k then t else (k, w) :: Tab.drop t i

/-- The value at a key, or what an unlisted key reads as. -/
def Tab.get {α : Type} (d : α) (t : Tab α) (i : Nat) : α := (Tab.find? t i).getD d

/-- Canonical write: writing the default removes the entry. -/
def Tab.set {α : Type} [DecidableEq α] (d : α) (t : Tab α) (i : Nat) (v : α) : Tab α :=
  if v = d then Tab.drop t i else Tab.put t i v

/-- Keys strictly rising above a bound. -/
def Tab.risesFrom {α : Type} : Nat → Tab α → Bool
  | _, [] => true
  | n, (k, _) :: t => n ≤ k && Tab.risesFrom (k + 1) t

/-- The canonical form: keys strictly rising and no entry equal to the default. -/
def Tab.wf {α : Type} [DecidableEq α] (d : α) (t : Tab α) : Bool := Tab.risesFrom 0 t && t.all (fun e => e.2 ≠ d)

/-- A sorted set of numbers, as a table of nothing. -/
abbrev NSet := Tab Unit

def NSet.has (t : NSet) (i : Nat) : Bool := (Tab.find? t i).isSome
def NSet.put (t : NSet) (i : Nat) : NSet := Tab.put t i ()
def NSet.del (t : NSet) (i : Nat) : NSet := Tab.drop t i
/-- In or out of the set. -/
def NSet.setTo (t : NSet) (i : Nat) (b : Bool) : NSet := if b then NSet.put t i else NSet.del t i

end Sys2Proof.Machine
end

