-- ==== Sys2Proof/Machine/State.lean ====
section
/-! DEFINITION. The state of the device as plain data: strands, cores, memory, jobs, counters, dispatcher, gangs, Woad
channels and the other agents, with the reasons a step can stop and the state after reset (R8, R163, R188, R268, R431).
What the spec leaves to the order of arbiters is data too: `agenda`, `choices` (notes/assumptions/1.md). -/

namespace Sys2Proof.Machine

/-- Why a step stops. -/
inductive Fault where
  /-- Raised by every instruction word's meaning when `cur` names no strand that is running: no machine step of the spec
  issues a word there. Safe: the hardware does nothing in this case. -/
  | noStrand
deriving DecidableEq, Repr

/-- Why a step has no meaning. -/
inductive Refusal where
  /-- An arm of exec that has no meaning yet, by mnemonic. Safe: nothing is claimed of it. -/
  | notModelled (mnemonic : String)
deriving DecidableEq, Repr

/-! ## Strands -/

/-- STATUS (R354). -/
structure Status where
  ampx : Bool
  wdone : Bool
  nest : Bool
  inh : Bool
  ppriv : Bool
  priv : Bool
deriving DecidableEq, Repr

/-- The control registers of strand scope that hold values of their own (R387). `svecIn` is a write to SVEC that has landed and
could still be undone by an earlier instruction's fault (R132, R389). -/
structure Csrs where
  status : Status
  fpmode : Word
  srctr : BitVec 32
  jobId : BitVec 32
  launchId : BitVec 32
  vshift : Word
  svecIn : Option Word
  unitX : BitVec 24
  unitY : BitVec 24
  unitZ : BitVec 24
  taskArg : Word
  mpx : Word
  cause : BitVec 8
  eval : Word
  epc : Word
  empx : Word
  eother : Word
  tscr : Word
  sscr : Word
  linkcfg : BitVec 4
  wmem : BitVec 24
  q : Tab Policy
deriving DecidableEq, Repr

/-- What register landings write and R132 restores: general, vector, predicate and control registers. -/
structure Regs where
  g : Tab Word
  v : Tab VWord
  p : Tab PWord
  csr : Csrs
deriving DecidableEq, Repr

/-- A register and the value that lands in it (R128). A control register is named by its number (R387). -/
inductive Dest where
  | g (n : Nat) (x : Word)
  | v (n : Nat) (x : VWord)
  | p (n : Nat) (x : PWord)
  | csr (n : Nat) (x : Word)
deriving DecidableEq, Repr

/-- A write that has not landed: its vc and the issue number that orders writes of one vc (R128, R129). -/
structure Pending where
  vc : Nat
  seq : Nat
  dest : Dest
deriving DecidableEq, Repr

/-- Trap causes, in the order of R356. -/
inductive Cause where
  | illegal | illreg | priv | misalign | xlater | xlatew | xlatex | perm | rangelock | memrace | schedule | timing
  | operand | layoutrsv | launchrange | gangstall | integrity | mapdesc | trapi | brk | step | preempt
deriving DecidableEq, Repr

/-- The cause code (R356). -/
def Cause.code : Cause → Nat
  | .illegal => 0x01 | .illreg => 0x02 | .priv => 0x03 | .misalign => 0x04 | .xlater => 0x05 | .xlatew => 0x06
  | .xlatex => 0x07 | .perm => 0x08 | .rangelock => 0x09 | .memrace => 0x0A | .schedule => 0x0B | .timing => 0x0C
  | .operand => 0x0D | .layoutrsv => 0x0E | .launchrange => 0x0F | .gangstall => 0x10 | .integrity => 0x11
  | .mapdesc => 0x12 | .trapi => 0x13 | .brk => 0x14 | .step => 0x15 | .preempt => 0x16

/-- A fault that is known: its cause, EVAL and EOTHER (R119, R358). -/
structure TrapInfo where
  cause : Cause
  eval : Word
  other : Word
deriving DecidableEq, Repr



/-- Full/empty operations (R194, R195). -/
inductive FeOp where
  | ldf | ldfp | stf | markE | markF
deriving DecidableEq, Repr

/-- Map key operations (R319). -/
inductive MapOp where
  | prb | ins | ups | del | add | cas
deriving DecidableEq, Repr

/-- Kinds of a Woad arrival (R333). -/
inductive WKind where
  | plain | send | recv | add | min | max | or
deriving DecidableEq, Repr

/-- The range operations (R198). -/
inductive RangeOp where
  | flush | inval | fill
deriving DecidableEq, Repr

/-- The copy forms and MAPGETN, which share the mailbox (R202, R322). -/
inductive CopyKind where
  | cpy | cpym | cpyx | gath | scat | mapgetn
deriving DecidableEq, Repr

/-- Where a load's bytes go (R192, R193). -/
inductive LoadDest where
  | g (d : Nat) (signed : Bool)
  | pair (d : Nat)
  | v (d : Nat)
deriving DecidableEq, Repr

/-- An MMA, MMAS or MZERO as captured at issue (R278), with its next step and schedule (R281, R282). `step` is the next
k-step and `first` the one it began at; `start` is the vc at which it started, `prev` the core cycle at which the step before
ended, `ends` that at which the step in progress ends (0 at a step boundary, R286); `hstart` is the later of HSTART's vc and
ISSUE (R375); `skip` are the slots whose tags a follow-on does not check (R221), `locks` its read locks (R283), `waitCopy` the
copy that a follow-on still waits for and `handAt` the core cycle at which it is handed over once that has completed (0 before), `base`
the core cycle of vc 0 of its task once that has ended. -/
structure ArrayCmd where
  zero : Bool
  clear : Bool
  bank : Nat
  prec : Word
  dsc : Word
  pa : Word
  pb : Word
  step : Nat
  first : Nat
  owner : SId
  gpc : Word
  hstart : Option Nat
  hseq : Option (BitVec 16)
  skip : List Nat
  locks : List (Nat × Nat)
  id : Nat
  waitCopy : Option Nat
  handAt : Nat
  start : Option Nat
  prev : Nat
  ends : Nat
  base : Option Nat
deriving DecidableEq, Repr

/-- A copy form or MAPGETN as captured at issue: its record, object, third operand, hints and follow-on (R220 to R222,
R321). -/
structure CopyCmd where
  kind : CopyKind
  record : Rec768
  obj : Word
  third : Word
  q : Policy
  hstart : Option Nat
  hseq : Option (BitVec 16)
  follow : Option ArrayCmd
deriving DecidableEq, Repr

/-- A map key operation as captured at issue (R315). -/
structure MapCmd where
  op : MapOp
  handle : Word
  key : BitVec 128
  val : BitVec 128
  new : Word
  d : Nat
  b : Nat
  p : Nat
  q : Policy
deriving DecidableEq, Repr

/-- What an instruction before its fault point awaits (R124, R131). -/
inductive Request where
  | load (ea : Word) (loc n : Nat) (dest : LoadDest) (q : Policy)
  | atomic (op : AOp) (n : Nat) (ea : Word) (at_ : Option (Nat × Option Word)) (y c : Word) (d mode : Nat) (q : Policy)
  | mapKey (c : MapCmd)
  | fe (op : FeOp) (ea : Word) (loc : Nat) (x : Word) (d : Nat) (q : Policy)
  | counter (n d : Nat)
  | sfu (f : Nat) (t : Fmt) (x : Word) (d mode : Nat) (ftz : Bool)
deriving DecidableEq, Repr

/-- The forms that write a control register (R389). -/
inductive CsrForm where
  | write | set | clear
deriving DecidableEq, Repr

/-- Effects beyond the strand's own registers that R133 defers behind earlier fault points, as captured at issue. A store or an
atomic holds the location and leaf of its walk once it is sent (R403, R404). -/
inductive Effect where
  | store (ea : Word) (at_ : Option (Nat × Option Word)) (n : Nat) (x : VWord) (q : Policy)
  | stn (ea : Word) (at_ : Option (Nat × Option Word)) (hi : Bool) (x : BitVec 4) (q : Policy)
  | request (r : Request)
  | copy (c : CopyCmd)
  | barinit (o image : Word)
  | baradd (o change : Word)
  | msgsend (target payload : Word)
  | sopen (target : Word)
  | ssend (x : VWord)
  | sclose
  | mprec (bank : Nat) (short : Bool) (image : Word)
  | array (c : ArrayCmd)
  | mwracc (bank : Nat) (index value : Word)
  | release (bank land : Nat)
  | csr (form : CsrForm) (n : Nat) (x : Word)
  | cancel (kill : Bool) (counter : Nat)
  | tspawn (record : Rec512) (p : Nat)
  | tyield (entry : Word) (p : Nat)
  | launch (record : Rec512) (p : Nat)
  | repart (part : Part)
  | quiesce (job mode : Nat)
  | migrate (source dest : Nat)
  | tlbinv (base len : Word) (scope : Nat)
  | wwait (ch : Nat)
  | regionEnd
  | eret
  | tend
deriving DecidableEq, Repr

/-- Park reasons with their codes (R363), and the serialising wait that is no park (R435). -/
inductive ParkReason where
  | serial | fullEmpty | message | barrierPhase | woad | sfu | stream | writeBlocked
deriving DecidableEq, Repr

/-- A deferred effect: its issue number, issue vc and group address, and the park reason of one that was tried and must
wait (R432). -/
structure Deferred where
  seq : Nat
  issue : Nat
  gpc : Word
  eff : Effect
  stuck : Option ParkReason
deriving DecidableEq, Repr

/-- How far a request has come: still deferred (R133), sent (with its refusals, R179), held as a waiter of a full/empty word (R188), served with
the results that will land and its fault, served so after such a wait, or answered in a core cycle. -/
inductive Stage where
  | unsent
  | sent (refused : Nat)
  | waiting
  | served (results : List Dest) (trap : Option TrapInfo)
  | filled (results : List Dest) (trap : Option TrapInfo)
  | answered (cc : Nat)
deriving DecidableEq, Repr

/-- An instruction that has not passed its fault point (R131), with the registers and pending writes that R132 restores
if it faults; `bank` is the accumulator of its response, once its home has served it (R427). -/
structure Inflight where
  seq : Nat
  faultVc : Nat
  gpc : Word
  req : Option (Request × Stage)
  trap : Option TrapInfo
  bank : Option Nat
  saved : Regs
  savedPending : List Pending
deriving DecidableEq, Repr

def ParkReason.code : ParkReason → Nat
  | .serial => 0 | .fullEmpty => 1 | .message => 2 | .barrierPhase => 3 | .woad => 4 | .sfu => 5 | .stream => 6
  | .writeBlocked => 7

/-- An arrival on a Woad channel (R331). -/
structure Arrival where
  sid : SId
  kind : WKind
  value : BitVec 32
deriving DecidableEq, Repr

/-- What a parked strand waits for. `again`, `link`, `bank`, `order`: the strand stands at the instruction, which issues again when
its condition holds (R42, R250, R294, R348, R433); a bank's commands are those with an issue number before `before`, and `sync` says
whether the access of the instruction is ordered behind relaxed stores too. `effect`: the head of the deferred effects (R432). `ready`: the condition has held;
the writes land that many vc after the resumption slot (R127). The others name what ends the wait. -/
inductive ParkOn where
  | again
  | link (pops pushes : List Nat)
  | bank (bank before : Nat)
  | order (sync : Bool)
  | effect
  | ready (lat : Nat) (writes : List Dest) (trap : Option TrapInfo)
  | phase (loc : Nat) (n : Bool)
  | counter (n : Nat)
  | message (d : Option Nat)
  | stream (d : Nat)
  | woad (channel ch : Nat) (sent : Bool) (d : Option Nat)
  | arrival (channel ch : Nat) (a : Arrival) (waits : Bool) (d : Option Nat)
  | home (seq : Nat)
  | fence (acquire : Bool)
  | rangeMacro (op : RangeOp) (base len : Word) (q : Policy)
  | scan (handle record buffer : Word) (q : Policy)
  | settle (handle : Word) (shard : Nat) (q : Policy)
  | clear (handle : Word) (q : Policy)
  | info (handle : Word) (d : Nat) (q : Policy)
  | mapnew (handle : Word) (block : Rec256) (q : Policy)
  | tlbinv (range : Nat × Nat) (ops : List Nat) (reqs held : List (SId × Nat))
  | quiesce (job : Nat)
  | migrate (source dest : Nat)
deriving DecidableEq, Repr

/-- A parked strand: its reason, what ends the park, the parked instruction's number, issue vc and group address, and since
when it is parked. -/
structure Park where
  reason : ParkReason
  on : ParkOn
  gpc : Word
  seq : Nat
  issue : Nat
  since : Nat
deriving DecidableEq, Repr

/-- A fault that a strand takes at its next group boundary: one found at a start vc or by a command after its issue, with
the command's element (R141, R367), or PREEMPT (R376). -/
structure LateTrap where
  info : TrapInfo
  element : Option Word
deriving DecidableEq, Repr

/-- A store held back by an open region (R342): the bits of a byte that it writes, the virtual address of the byte, and the vc at which
the store issued. -/
structure Held where
  loc : Nat
  mask : Byte
  val : Byte
  va : Nat
  issue : Nat
deriving DecidableEq, Repr

/-- A write that waits for a write-blocked page (R403): its instruction's number and the addresses on which it waits. `walk` says that
a TLBINV that covers one of them has completed since, so that it walks again. `counted` lists the addresses of its accesses that have
been counted, once for all their walks (R419). -/
structure Blocked where
  seq : Nat
  va : Nat
  len : Nat
  walk : Bool
  counted : List Nat
deriving DecidableEq, Repr

/-- A range of nibbles that a region has read or written, through software management or not: nibble 2a is the low nibble of byte a
(R343, R346). -/
structure Span where
  lo : Nat
  len : Nat
  write : Bool
  swm : Bool
deriving DecidableEq, Repr

/-- What can make a vc late beside a request (R124): the walk of a page, a k-step of a command, a store that the buffer cannot
accept, a debug stop. -/
inductive LateItem where
  | walk (page : Nat)
  | step (cmd step : Nat)
  | store
  | stop
deriving DecidableEq, Repr

/-- A late event and the vc at which it is tested. One that became known after its test cycle is `owed`: its hold comes even where
the item is `here` by then, and until core cycle `known`, W after the one in which it became known, its vc is not fixed (R434). -/
structure LateEvent where
  item : LateItem
  vc : Nat
  known : Nat
  owed : Bool
  here : Bool
deriving DecidableEq, Repr

/-- A store in the store buffer: its location, whether it travels in class 0, and the core cycle before which its home does not
acknowledge it (R177, R179, R191). -/
structure BufStore where
  loc : Nat
  zero : Bool
  due : Nat
deriving DecidableEq, Repr

/-- The open region of a strand (R341, R342). -/
structure Region where
  spans : List Span
  held : List Held
  lines : NSet
deriving DecidableEq, Repr

/-- What a strand is doing (R81, R88, R360, R369, R384). `drained` is stopped by pre-emption; `waiting` is a gang member
that has retired. -/
inductive Run where
  | idle | running | waiting | debugStopped | halted | drained
deriving DecidableEq, Repr

/-- A steal round (R84): the next probe, whether a reply is awaited, whether no round runs (0), one runs (1) or the wait after one (2),
and the core cycle at which the reply comes or the wait ends. -/
structure Steal where
  probe : Nat
  awaiting : Bool
  round : Nat
  due : Nat
deriving DecidableEq, Repr

/-- A strand with everything the spec gives it. Times are in vc of its domain, but `base`, the core cycle of vc 0, `began`,
that of its task's start, `sampled`, that after its last Madder sample (R426), `brkAt` the number of the BRK that asks for a stop (R386), and `drainCc`, that from which a gang's stop
vc may begin (R368, 0 before the signal). `msgOut` says that its message has not reached its queue (R177, R225). `lates` are its late events beside its requests (R124, R434), `tookLate` the faults of commands
that it has taken since an instruction in flight issued, with its issue number then: an earlier instruction's fault undoes their
entry (R132, R141). `under` is the core cycle from which an earlier instruction's park stands beneath a wait that is no park, so that the
core cycles count as parked (R194, R395, R432). -/
structure Strand where
  run : Run
  regs : Regs
  pc : Word
  gpc : Word
  group : List IWord
  slot : Nat
  base : Nat
  phase : Nat
  lastV : Nat
  vpause : Nat
  seq : Nat
  pending : List Pending
  inflight : List Inflight
  deferred : List Deferred
  storeBuf : List BufStore
  msgOut : Bool
  park : Option Park
  under : Option Nat
  blocked : Option Blocked
  resumed : Bool
  region : Region
  gang : Option Nat
  route : Option Nat
  starts : List (Nat × Word × Nat)
  woadGot : List (Nat × BitVec 32 × Bool)
  steal : Steal
  issued : Nat
  hints : Nat
  parkedCc : Nat
  traps : Nat
  held : Nat
  lates : List LateEvent
  late : List LateTrap
  tookLate : List (Nat × LateTrap)
  drainT : Option Nat
  drainCc : Nat
  stopAsked : Bool
  brkAt : Option Nat
  dying : Bool
  stepping : Bool
  brken : Bool
  stepBit : Bool
  dbgCode : BitVec 8
  lineage : Nat
  began : Nat
  sampled : Nat
deriving DecidableEq, Repr

/-! ## Cores -/

/-- A landing still to come of a copy (R211, R212): the byte address written, if any, the bytes, the bits of a byte that is written
in part (all but a `.q4` code that lands alone, R55), the mark of a bad source sector, and the counted bytes. -/
structure Land where
  core : Nat
  loc : Option Nat
  bytes : List Byte
  mask : Byte
  bad : Bool
  count : Nat
deriving DecidableEq, Repr

/-- A probe of a MAPGETN (R322): element number, its answer once the sequencer has it, with the map's value bytes. -/
structure Probe where
  elem : Nat
  status : Nat
  value : BitVec 128
  vb : Nat
deriving DecidableEq, Repr

/-- A row of a GATH or SCAT that is registered and has not started (R203, R222): its landings, its locks, which the operation has among
its own, and the operations that held a conflicting range when it was registered. -/
structure Row where
  lands : List Land
  rlocks : List (Nat × Nat)
  wlocks : List (Nat × Nat)
  after : List Nat
deriving DecidableEq, Repr

/-- A copy or MAPGETN that is registered (R202): `inBox` while it has its mailbox place, `open_` while rows may still be
registered (R222), its landings to come, the scratch slots it has still to stamp (R213), its locks (R216) and the pages
whose translations it holds, with their locations; `base` is the core cycle of vc 0 of its task once that has ended. `sides` are the
scale words of the chunks that receive real codes (R214), `landed` the bytes of each destination sector that have landed, with
whether one came from a bad sector (R217), `rows` the rows that have not started (R203). `next` is
the first row of a GATH or SCAT; for a MAPGETN it is the next key to dispatch and `probes` are the probes in flight. -/
structure CopyOp where
  id : Nat
  cmd : CopyCmd
  owner : SId
  gpc : Word
  started : Bool
  inBox : Bool
  open_ : Bool
  todo : List Land
  slots : List (Nat × Nat)
  next : Nat
  probes : List Probe
  rlocks : List (Nat × Nat)
  wlocks : List (Nat × Nat)
  pages : List (Nat × Nat)
  sides : Tab (BitVec 24)
  landed : Tab (BitVec 32 × Bool)
  rows : List Row
  base : Option Nat
deriving DecidableEq, Repr

/-- An entry of the inbound message queue (R210), with the strand of the sending core whose class-0 request it was (R225). -/
structure Msg where
  payload : Word
  kind : Nat
  sender : Nat
  strand : Nat
deriving DecidableEq, Repr

/-- An entry of the inbound stream queue (R261): a data word, or the closing marker. -/
abbrev StreamEntry := Option VWord

/-- A core with everything the spec gives it. `claims` are the strands whose copy has taken a mailbox entry and is not yet
registered, with the lock-table entries that they have taken (R202). `held` are the messages that its copy engine holds, `heldTo` their targets, `flips`
the steps of R206 that wait, with the change that BARADD makes (R209). `linkTransit` holds, for each inbound link queue, the words pushed and not yet
present, with the core cycle at which each enters and the strand that pushed it (R250). -/
structure Core where
  part : Part
  job : Option Nat
  svec : Word
  strands : Tab Strand
  scratch : List Host.Cell
  scratchEmpty : NSet
  scratchBad : NSet
  sidecars : Tab (BitVec 24)
  tags : Tab (BitVec 16)
  acc : Tab Word
  prec0 : Word
  prec1 : Word
  array : List ArrayCmd
  releasing : List Nat
  ops : List CopyOp
  claims : List (SId × Nat)
  held : List Msg
  heldTo : List Nat
  flips : List (Nat × Nat × Int)
  inbox : List Msg
  transit : List Msg
  streamIn : List StreamEntry
  streamTransit : List StreamEntry
  routeHolder : Option SId
  routeWait : List SId
  links : Tab (List VWord)
  linkTransit : Tab (List (Nat × SId × VWord))
  high : List Rec512
  normal : List Rec512
  forward : Option Nat
  delays : Tab Word
deriving DecidableEq, Repr

/-! ## Memory -/

/-- Physical memory: bytes listed by address, in canonical form; an unlisted byte reads as 0 (notes/assumptions/2.md). -/
abbrev Memory := List Host.Cell

/-- The canonical form of memory. -/
def Memory.wf (m : Memory) : Bool := Tab.wf (0 : Byte) m

/-- Eviction classes (R175). -/
inductive EvictClass where
  | retain | normal | stream
deriving DecidableEq, Repr

/-- A cached copy of a line (R165 to R171, R175, R182, R185): its class, whether it may be later than the level beneath it (an
Owned copy of an L1 or a gateway, a dirty one of an L2 or the LLC), the core cycle at which it was filled, its bad sectors, its
scale sidecar and, for a software-managed copy, the bytes it holds apart from home and which of them are dirty. -/
structure CacheLine where
  place : Place
  line : Nat
  cls : EvictClass
  owned : Bool
  born : Nat
  untracked : Bool
  bytes : List Host.Cell
  dirty : NSet
  bad : NSet
  sidecar : Option (List (BitVec 24))
deriving DecidableEq, Repr

/-- A waiting full/empty operation, in acceptance order (R188). -/
structure Waiter where
  sid : SId
  seq : Nat
  op : FeOp
  loc : Nat
  x : Word
  d : Nat
deriving DecidableEq, Repr

/-- A leaf held by a translation cache (R402): the cluster whose TLB, or none for a die's shared cache, the job, the first
page and size of what it maps, and the entry. -/
structure TlbEntry where
  cluster : Option Nat
  die : Nat
  job : Nat
  va : Nat
  size : Nat
  entry : Word
deriving DecidableEq, Repr

/-- A live map (R301, R303): where its descriptor lies, its arena as (physical address, length) pieces in order with its
size, its job, the free blocks of its allocator as (first granule, log2 size) in ascending order (R299), and the moment of
their last change. -/
structure LiveMap where
  desc : Nat
  arena : List (Nat × Nat)
  size : Nat
  job : Nat
  free : List (Nat × Nat)
  stamp : Nat
deriving DecidableEq, Repr

/-- Memory and everything kept beside it. `bad` holds the bad sectors of memory itself; `cache` lists the copies of every place,
the most recently used first. -/
structure MemSys where
  cells : Memory
  empty : NSet
  bad : NSet
  waiters : List Waiter
  cache : List CacheLine
  shadow : Tab SId
  tlb : List TlbEntry
  maps : List LiveMap
  dev : Tab Word
  bins : Tab (BitVec 32)
deriving DecidableEq, Repr

/-! ## Jobs, counters, dispatcher -/

/-- The states of a counter (R66). -/
inductive CState where
  | idle | held | active | done
deriving DecidableEq, Repr

def CState.code : CState → Nat
  | .idle => 0 | .held => 1 | .active => 2 | .done => 3

/-- A completion counter (R66), with what its completion signals (R47, R67), a cancellation under way (R74), and the place of
the work it counts in the dispatch order (R65): its priority and the stamp of its acceptance. -/
structure Counter where
  canc : Bool
  state : CState
  level : Nat
  pred : Int
  pend : Nat
  succ : List Nat
  parent : Nat
  cancel : Option Bool
  prio : Nat
  stamp : Nat
deriving DecidableEq, Repr

/-- Whether a job runs, is being stopped or is stopped (R372). -/
inductive JobRun where
  | running | stopping | stopped
deriving DecidableEq, Repr

/-- A job (R58, R388). `freed` says that a kill of the stopped job lets its engines and deques go on (R373). `phaseOf` lists its phase counters whose barrier is in progress or waits, in order of completion, and
`phaseDies` the dies whose agents have arrived for the first (R70). -/
structure Job where
  cores : List Nat
  nctr : Nat
  tvec : Word
  tmask : Word
  jobcfg : Word
  jqdef : Word
  jwdef : Word
  channels : List (Nat × Nat)
  phase : Option Nat
  phaseOf : List Nat
  phaseDies : List Nat
  counters : Tab Counter
  run : JobRun
  markers : List Engine
  killed : Bool
  freed : Bool
  lastDealt : Option Nat
deriving DecidableEq, Repr

/-- A host work queue (R60, R61). -/
structure Queue where
  job : BitVec 32
  en : Bool
  prio : Nat
  accepted : BitVec 16
  refused : BitVec 16
  reason : BitVec 8
  field : BitVec 10
  waiting : List (Rec512 × Nat)
deriving DecidableEq, Repr

/-- A launch that the dispatcher has taken (R63, R65, R82): its priority and the next unit to deal. -/
structure Launch where
  job : Nat
  record : Rec512
  prio : Nat
  next : Nat
  released : Bool
deriving DecidableEq, Repr

/-- What a task's engine operations still hold back: the retirement of its unit (R73), nothing but a cancellation where it was
killed (R74), or the retirement of the unit that its continuation record goes on with (R73, R92). -/
inductive Ended where
  | unit | killed | yielded
deriving DecidableEq, Repr

/-- A task that has ended and whose engine operations have not all completed (R73, R74). `lineage` names the unit whose task
went on through TYIELD, 0 where none did. -/
structure Retiring where
  job : Nat
  counter : Nat
  ops : List Nat
  ended : Ended
  lineage : Nat
deriving DecidableEq, Repr

/-- The dispatcher (R63, R82), with the deque records that the choice of a gang's rectangle returned to it (R86). -/
structure Dispatcher where
  fromTasks : List (Nat × Rec512)
  launches : List Launch
  retiring : List Retiring
  returned : List (Nat × Rec512)
deriving DecidableEq, Repr

/-- A gang, from the choice of its rectangle (R86) to its end (R88). `quietFrom` is the last core cycle at which a member
parked, retired or went on after a pause or a stop: the stall count cannot have begun before it (R336). -/
structure Gang where
  job : Nat
  counter : Nat
  die : Nat
  x0 : Nat
  y0 : Nat
  w : Nat
  h : Nat
  record : Rec512
  channel : Option Nat
  members : List SId
  retired : List SId
  quietFrom : Nat
deriving DecidableEq, Repr

/-- A Woad channel: arrivals of the open generation, and generations that have closed with their release cycle (R331,
R332). Die channel n of die d is number 16 d + n; package channel n is number 128 + n. -/
structure Channel where
  open_ : List Arrival
  closed : List (Nat × List Arrival)
deriving DecidableEq, Repr

/-- A cluster's SFU (R265): requests waiting on the ring as (strand, issue number), requests accepted with the core cycle of
their acceptance, the L1 slice index last served, and the core cycle from which the next may be accepted. -/
structure Sfu where
  ring : List (SId × Nat)
  accepted : List (Nat × SId × Nat)
  last : Nat
  idleAt : Nat
deriving DecidableEq, Repr

/-- A collective engine (R414): the step in progress and its start time in ns. -/
structure Collective where
  running : Option (Rec512 × Nat)
deriving DecidableEq, Repr

/-- A host-access window (R429). -/
structure HostWindow where
  base : Nat
  limit : Nat
  enabled : Bool
deriving DecidableEq, Repr

/-- The image in flash, whether the device is in recovery, the measurement of the firmware that has booted and that of a runtime
image, the host-access windows, the power limit and the routes to peers that firmware sets (R413, R428 to R431). -/
structure Firmware where
  flash : Option Image
  recovery : Bool
  measured : Option Rec512
  runtime : Option Rec512
  windows : List HostWindow
  powerLimit : Nat
  routes : NSet
deriving DecidableEq, Repr

/-- What leaves the device: answers to the host and to peers, with a poison mark for each sector (R186, R405, R407, R429), the bytes
of a collective SEND (R414), a signed report (R430). -/
inductive Answer where
  | data (bytes : List Byte) (poison : List Bool)
  | error
  | done
  | refusedRecord
  | snoop (line : List Byte) (poison : List Bool)
  | step (peer seq : Nat) (bytes : List Byte)
  | report (bytes : List Byte)
deriving DecidableEq, Repr

/-- The clocks (R7, R121, R423, R424): core cycle, time unit in ns with the fraction of a ns counted in 1/(10^6 MHz), the
core clock in MHz, the rate by which 1588 slews the time unit in ppm, and TIMESTAT. -/
structure Clock where
  cc : Nat
  ns : Nat
  frac : Nat
  mhz : Nat
  ppm : Int
  lock : Bool
  offset : BitVec 32
deriving DecidableEq, Repr

/-- A step of another agent that is due at a core cycle. -/
structure Due where
  at_ : Nat
  what : Event
deriving DecidableEq, Repr

/-- The device. -/
structure State where
  clock : Clock
  cur : SId
  cores : Tab Core
  mem : MemSys
  jobs : Tab Job
  queues : Tab Queue
  disp : Dispatcher
  gangs : Tab Gang
  woad : Tab Channel
  sfu : Tab Sfu
  coll : Tab Collective
  fw : Firmware
  out : List Answer
  agenda : List Due
  choices : List Nat
  nextId : Nat
deriving DecidableEq, Repr

/-! ## Reset -/

def Status.reset : Status := ⟨false, false, false, false, false, false⟩

def Csrs.reset : Csrs :=
  { status := Status.reset, fpmode := 0, srctr := 0, jobId := 0, launchId := 0, vshift := 0, svecIn := none, unitX := 0, unitY := 0, unitZ := 0,
    taskArg := 0, mpx := 0, cause := 0, eval := 0, epc := 0, empx := 0, eother := 0, tscr := 0, sscr := 0, linkcfg := 0,
    wmem := 0, q := [] }

def Regs.reset : Regs := { g := [], v := [], p := [], csr := Csrs.reset }

def Region.empty : Region := ⟨[], [], []⟩

/-- A strand after reset: idle, every register at the value of INVENTORY.md (notes/assumptions/4.md). -/
def Strand.reset : Strand :=
  { run := .idle, regs := Regs.reset, pc := 0, gpc := 0, group := [], slot := 0, base := 0, phase := 0, lastV := 0,
    vpause := 0, seq := 0, pending := [], inflight := [], deferred := [], storeBuf := [], msgOut := false, park := none,
    under := none, blocked := none, resumed := false, region := Region.empty, gang := none, route := none, starts := [], woadGot := [],
    steal := ⟨0, false, 0, 0⟩, issued := 0, hints := 0, parkedCc := 0, traps := 0, held := 0, lates := [], late := [], tookLate := [], drainT := none, drainCc := 0,
    stopAsked := false, brkAt := none, dying := false, stepping := false, brken := false, stepBit := false, dbgCode := 0, lineage := 0,
    began := 0, sampled := 0 }

/-- A core after reset (R78, R138, R163, R268, R270, R275). -/
def Core.reset : Core :=
  { part := .p8, job := none, svec := 0, strands := [], scratch := [], scratchEmpty := [], scratchBad := [],
    sidecars := [], tags := [], acc := [], prec0 := Config.precReset, prec1 := Config.precReset, array := [],
    releasing := [], ops := [], claims := [], held := [], heldTo := [], flips := [], inbox := [], transit := [], streamIn := [],
    streamTransit := [], routeHolder := none, routeWait := [], links := [], linkTransit := [],
    high := [], normal := [], forward := none, delays := [] }

def MemSys.reset : MemSys :=
  { cells := [], empty := [], bad := [], waiters := [], cache := [], shadow := [], tlb := [], maps := [], dev := [],
    bins := [] }

/-- A counter when its job is created (R66). -/
def Counter.zero : Counter :=
  { canc := false, state := .idle, level := 0, pred := 0, pend := 0, succ := [], parent := 0, cancel := none, prio := 7,
    stamp := 0 }

/-- A queue after reset (R60, R61). -/
def Queue.reset : Queue :=
  { job := 0, en := false, prio := 7, accepted := 0, refused := 0, reason := 0, field := 0, waiting := [] }

def Channel.empty : Channel := ⟨[], []⟩
def Sfu.empty : Sfu := ⟨[], [], 7, 0⟩
def Collective.idle : Collective := ⟨none⟩

/-- Firmware side after reset: every host-access window disabled (R429), the power limit at the module's 2,400 W (R26). -/
def Firmware.reset : Firmware :=
  { flash := none, recovery := false, measured := none, runtime := none,
    windows := List.replicate 8 ⟨0, 0, false⟩, powerLimit := 2400, routes := [] }

/-- The device right after reset (R8, R163, R188, R268, R431): no job, no strand running, every register at its reset
value, memory with nothing listed. Registers without a reset value read as 0 (notes/assumptions/4.md). -/
def State.reset : State :=
  { clock := { cc := 0, ns := 0, frac := 0, mhz := 1200, ppm := 0, lock := false, offset := 0 }, cur := ⟨0, 0⟩, cores := [],
    mem := MemSys.reset, jobs := [], queues := [], disp := ⟨[], [], [], []⟩, gangs := [], woad := [], sfu := [], coll := [],
    fw := Firmware.reset, out := [], agenda := [], choices := [], nextId := 1 }

end Sys2Proof.Machine
end

