-- ==== Sys2Proof/Machine/Access.lean ====
section
/-! DEFINITION. Reading and updating the parts of the state: cores, strands, registers and control registers (R100,
R119, R387, R389), landings (R128, R129), the clocks (R7, R423) and the agenda of steps that are due. -/

namespace Sys2Proof.Machine

/-! ## Parts of the state -/

def State.core (s : State) (c : Nat) : Core := Tab.get Core.reset s.cores c
def State.setCore (s : State) (c : Nat) (k : Core) : State := { s with cores := Tab.put s.cores c k }
def State.modCore (s : State) (c : Nat) (f : Core → Core) : State := s.setCore c (f (s.core c))

def Core.strand (k : Core) (n : Nat) : Strand := Tab.get Strand.reset k.strands n
def State.strand (s : State) (x : SId) : Strand := (s.core x.core).strand x.strand
def State.setStrand (s : State) (x : SId) (st : Strand) : State :=
  s.modCore x.core fun k => { k with strands := Tab.put k.strands x.strand st }
def State.modStrand (s : State) (x : SId) (f : Strand → Strand) : State := s.setStrand x (f (s.strand x))

def State.setMem (s : State) (m : MemSys) : State := { s with mem := m }
def State.modMem (s : State) (f : MemSys → MemSys) : State := s.setMem (f s.mem)

def Job.empty : Job :=
  { cores := [], nctr := 0, tvec := 0, tmask := 0, jobcfg := 0, jqdef := 0, jwdef := 0, channels := [], phase := none,
    phaseOf := [], phaseDies := [], counters := [], run := .running, markers := [], killed := false, freed := false, lastDealt := none }

def State.job (s : State) (j : Nat) : Job := Tab.get Job.empty s.jobs j
def State.setJob (s : State) (j : Nat) (b : Job) : State := { s with jobs := Tab.put s.jobs j b }
def State.modJob (s : State) (j : Nat) (f : Job → Job) : State := s.setJob j (f (s.job j))
/-- The job whose number a strand's JOBID holds (R387). -/
def State.jobOf (s : State) (x : SId) : Nat := (s.strand x).regs.csr.jobId.toNat

def State.queue (s : State) (q : Nat) : Queue := Tab.get Queue.reset s.queues q
def State.setQueue (s : State) (q : Nat) (v : Queue) : State := { s with queues := Tab.put s.queues q v }
def State.channel (s : State) (c : Nat) : Channel := Tab.get Channel.empty s.woad c
def State.setChannel (s : State) (c : Nat) (v : Channel) : State := { s with woad := Tab.put s.woad c v }

def State.modDisp (s : State) (f : Dispatcher → Dispatcher) : State := { s with disp := f s.disp }

/-- Every strand that some core lists. -/
def State.allStrands (s : State) : List SId :=
  s.cores.flatMap fun (c, k) => k.strands.map fun (n, _) => ⟨c, n⟩

/-! ## Places (R14, R16, R17, R19) -/

def coreX (c : Nat) : Nat := c % 32
def coreY (c : Nat) : Nat := c / 32 % 32
def coreDie (c : Nat) : Nat := c / 1024 % 8
def coreIdOf (die y x : Nat) : Nat := die * 1024 + y * 32 + x
/-- Cluster identifier of a core (R17). -/
def clusterOf (c : Nat) : Nat := coreDie c * 128 + coreY c / 4 * 16 + coreX c / 2
def clusterDie (k : Nat) : Nat := k / 128
/-- L1 slice index of a core within its cluster (R14). -/
def l1Slice (c : Nat) : Nat := 2 * (coreY c % 4) + coreX c % 2

/-! ## Clocks and agenda -/

/-- Moves the core cycle count forward; the time unit follows at the core clock's rate, slewed by
1588 (R7, R23, R423). -/
def Clock.advance (c : Clock) (cc : Nat) : Clock :=
  if cc ≤ c.cc then c
  else
    let parts := c.frac + (cc - c.cc) * 1000 * (1000000 + c.ppm).toNat
    { c with cc := cc, ns := c.ns + parts / (c.mhz * 1000000), frac := parts % (c.mhz * 1000000) }

def State.tick (s : State) (cc : Nat) : State := { s with clock := s.clock.advance cc }

/-- Enters a step of another agent, due dt core cycles from now. -/
def State.post (s : State) (dt : Nat) (i : Event) : State :=
  { s with agenda := s.agenda ++ [⟨s.clock.cc + dt, i⟩] }

/-- Enters a step unless it is due no later already. -/
def State.postOnce (s : State) (dt : Nat) (i : Event) : State :=
  if s.agenda.any fun d => d.what = i && d.at_ ≤ s.clock.cc + dt then s else s.post dt i

def State.postAll (s : State) (is : List Event) : State := is.foldl (fun t i => t.post 0 i) s

def State.answer (s : State) (a : Answer) : State := { s with out := s.out ++ [a] }

/-! ## Registers -/

/-- g0 reads 0 (R100). -/
def Regs.readG (r : Regs) (n : Nat) : Word := if n = 0 then 0 else Tab.get 0 r.g n
def Regs.readV (r : Regs) (n : Nat) : VWord := Tab.get 0 r.v n
/-- p0 reads as all ones (R100, R119). -/
def Regs.readP (r : Regs) (n : Nat) : PWord := if n = 0 then 0xFFFF else Tab.get 0 r.p n
def Regs.readQ (r : Regs) (n : Nat) : Policy := Tab.get 0 r.csr.q n

/-- A write to g0 is discarded (R100, R129). -/
def Regs.writeG (r : Regs) (n : Nat) (x : Word) : Regs := if n = 0 then r else { r with g := Tab.set 0 r.g n x }
def Regs.writeV (r : Regs) (n : Nat) (x : VWord) : Regs := { r with v := Tab.set 0 r.v n x }
/-- A write to p0 is discarded (R100). -/
def Regs.writeP (r : Regs) (n : Nat) (x : PWord) : Regs := if n = 0 then r else { r with p := Tab.set 0 r.p n x }

def Status.word (t : Status) : Word :=
  BitVec.ofNat 64 (t.ampx.toNat * 32 + t.wdone.toNat * 16 + t.nest.toNat * 8 + t.inh.toNat * 4 + t.ppriv.toNat * 2 +
    t.priv.toNat)

/-- The RW bits of FPMODE (R238). -/
def fpmodeMask : Word := 0xFFFFFFFF0000000F
/-- The ADDR field of TVEC and SVEC (R388). -/
def vecMask : Word := 0x01FFFFFFFFFFFFFC
/-- The bits of TMASK (R388). -/
def tmaskMask : Word := 0x51C00

/-- Landing of a control-register write: RO and RSV fields keep their value, a policy register takes bits 31 to 0 (R389). The spec gives
JOBID, LAUNCHID and UNITX to UNITZ no field map: they keep the 32, 32 and 24 bits of the record fields that they are set from, and
drop what is written above (notes/assumptions/59.md). -/
def Csrs.write (c : Csrs) (n : Nat) (x : Word) : Csrs :=
  match n with
  | 0x000 => { c with status := { c.status with wdone := bitOf x 4 } }
  | 0x001 => { c with fpmode := x &&& fpmodeMask }
  | 0x002 => { c with srctr := x.setWidth 32 }
  | 0x006 => { c with jobId := x.setWidth 32 }
  | 0x007 => { c with launchId := x.setWidth 32 }
  | 0x008 => { c with unitX := x.setWidth 24 }
  | 0x009 => { c with unitY := x.setWidth 24 }
  | 0x00A => { c with unitZ := x.setWidth 24 }
  | 0x00B => { c with taskArg := x }
  | 0x00F => { c with vshift := x }
  | 0x032 => { c with svecIn := some (x &&& vecMask) }
  | 0x00C => { c with mpx := x }
  | 0x010 => { c with cause := x.setWidth 8 }
  | 0x011 => { c with eval := x }
  | 0x012 => { c with epc := x }
  | 0x013 => { c with empx := x }
  | 0x014 => { c with eother := x }
  | 0x015 => { c with tscr := x }
  | 0x016 => { c with sscr := x }
  | 0x018 => { c with linkcfg := x.setWidth 4 }
  | k => if 0x20 ≤ k ∧ k < 0x28 then { c with q := Tab.set 0 c.q (k - 0x20) (x.setWidth 32) } else c

/-- A register write takes its value (R128). -/
def Dest.land (d : Dest) (r : Regs) : Regs :=
  match d with
  | .g n x => r.writeG n x
  | .v n x => r.writeV n x
  | .p n x => r.writeP n x
  | .csr n x => { r with csr := r.csr.write n x }

/-- Lands, in their order, the writes due at vc t or before (R128, R129). -/
def landAll : List Pending → Nat → Regs → Regs × List Pending
  | [], _, r => (r, [])
  | p :: ps, t, r => if p.vc ≤ t then landAll ps t (p.dest.land r) else (r, p :: ps)

/-- Adds a write in landing order: by vc, and at one vc by issue order (R129). -/
def addPending : List Pending → Pending → List Pending
  | [], n => [n]
  | p :: ps, n => if p.vc < n.vc || (p.vc == n.vc && p.seq ≤ n.seq) then p :: addPending ps n else n :: p :: ps

/-- A held domain does not reach the vc at which it is held (R126). -/
def Strand.reaches (st : Strand) (v : Nat) : Bool := st.held = 0 || v < st.held

def Strand.landTo (st : Strand) (t : Nat) : Strand :=
  let (r, ps) := landAll st.pending t st.regs
  { st with regs := r, pending := ps }

/-- Makes the writes of the instruction numbered seq pending, all at vc t (R135). -/
def Strand.addWrites (st : Strand) (t seq : Nat) (ds : List Dest) : Strand :=
  { st with pending := ds.foldl (fun ps d => addPending ps ⟨t, seq, d⟩) st.pending }

/-- Changes control registers now, in the strand and in every snapshot that R132 would restore. -/
def Strand.modCsrNow (st : Strand) (f : Csrs → Csrs) : Strand :=
  { st with regs := { st.regs with csr := f st.regs.csr },
            inflight := st.inflight.map fun e => { e with saved := { e.saved with csr := f e.saved.csr } } }

/-- SVEC of a core: the last write that has landed (R388, R389). -/
def State.svecOf (s : State) (core : Nat) : Word :=
  let k := s.core core
  (k.strands.findSome? fun (_, st) => (landAll st.pending (s.clock.cc - st.base) st.regs).1.csr.svecIn).getD k.svec

/-- A write to SVEC that no fault can undo any more is the core's. -/
def State.commitSvec (s : State) (x : SId) : State :=
  let st := s.strand x
  match st.regs.csr.svecIn, st.inflight with
  | some v, [] =>
    (s.modCore x.core fun k => { k with svec := v }).modStrand x fun st =>
      { st with regs := { st.regs with csr := { st.regs.csr with svecIn := none } } }
  | _, _ => s

/-- The value that CSRR reads at vc t (R387, R389). -/
def State.csrRead (s : State) (x : SId) (t : Nat) (n : Nat) : Word :=
  let st := s.strand x
  let c := st.regs.csr
  let j := s.job c.jobId.toNat
  match n with
  | 0x000 => c.status.word
  | 0x001 => c.fpmode
  | 0x002 => c.srctr.setWidth 64
  | 0x003 => BitVec.ofNat 64 (s.core x.core).part.code
  | 0x004 => BitVec.ofNat 64 x.strand
  | 0x005 => BitVec.ofNat 64 x.core
  | 0x006 => c.jobId.setWidth 64
  | 0x007 => c.launchId.setWidth 64
  | 0x008 => c.unitX.setWidth 64
  | 0x009 => c.unitY.setWidth 64
  | 0x00A => c.unitZ.setWidth 64
  | 0x00B => c.taskArg
  | 0x00C => c.mpx
  | 0x00D => BitVec.ofNat 64 t
  | 0x00E => BitVec.ofNat 64 st.vpause
  | 0x00F => c.vshift
  | 0x010 => c.cause.setWidth 64
  | 0x011 => c.eval
  | 0x012 => c.epc
  | 0x013 => c.empx
  | 0x014 => c.eother
  | 0x015 => c.tscr
  | 0x016 => c.sscr
  | 0x018 => c.linkcfg.setWidth 64
  | 0x019 => c.wmem.setWidth 64
  | 0x030 => j.tvec
  | 0x031 => j.tmask
  | 0x032 => s.svecOf x.core
  | 0x034 => j.jobcfg
  | 0x035 => j.jqdef
  | 0x036 => j.jwdef
  | k => if 0x20 ≤ k ∧ k < 0x28 then (st.regs.readQ (k - 0x20)).setWidth 64 else 0

/-- Access of a control register at task privilege (R387): none RW or RO, some true where a write raises PRIV, some false
where every access does. -/
def csrGuard (n : Nat) : Option Bool :=
  match n with
  | 0x000 | 0x019 => some true
  | 0x016 | 0x030 | 0x031 | 0x032 | 0x034 | 0x035 | 0x036 => some false
  | _ => none

/-- The control registers that a task may read but not write, without a fault (R387). -/
def csrReadOnly (n : Nat) : Bool := (3 ≤ n && n ≤ 0x00B) || (0x00D ≤ n && n ≤ 0x00F)

/-- The control registers of job scope (R387). -/
def csrIsJob (n : Nat) : Bool := n == 0x030 || n == 0x031 || n == 0x034 || n == 0x035 || n == 0x036

end Sys2Proof.Machine
end

