-- ==== Sys2Proof/Machine/Mem.lean ====
section
/-! DEFINITION. Memory by location (a physical address, or a scratch byte above every physical address), little-endian
(R3); full/empty bits (R188); check codes and bad sectors (R184 to R187); cached lines and their classes (R162, R166 to
R171, R175); scale sidecars (R180 to R182); trace records (R420 to R422). -/

namespace Sys2Proof.Machine

open Config (scratchLoc)

/-! ## Bytes -/

def isScratchLoc (l : Nat) : Bool := Config.hostEnd ≤ l
def locCore (l : Nat) : Nat := (l - Config.hostEnd) / 0x40000
def locOff (l : Nat) : Nat := (l - Config.hostEnd) % 0x40000
def isHbm (l : Nat) : Bool := l < Config.hbmEnd
def isHost (l : Nat) : Bool := Config.hostBase ≤ l && l < Config.hostEnd
def isPeer (l : Nat) : Bool := Config.peerBase ≤ l && l < Config.peerEnd
def isDev (l : Nat) : Bool := Config.devBase ≤ l && l < Config.devEnd
/-- A granule holds physical memory of some kind (R161). -/
def isMemory (l : Nat) : Bool := isHbm l || isHost l || isPeer l

/-- Bytes of a live map's allocator map: one block at the top of the arena (R300). -/
def allocMapSize (size : Nat) : Nat := Nat.max 1 (size / 65536) * 128

/-- The location of an offset in pieces of memory laid end to end. -/
def pieceLoc : List (Nat × Nat) → Nat → Nat
  | [], o => o
  | (a, n) :: ps, o => if o < n then a + o else pieceLoc ps (o - n)

/-- The offset at which pieces laid end to end hold a location, the first piece at offset o. -/
def pieceOff : List (Nat × Nat) → Nat → Nat → Option Nat
  | [], _, _ => none
  | (a, n) :: ps, o, l => if a ≤ l && l < a + n then some (o + (l - a)) else pieceOff ps (o + n) l

def LiveMap.loc (v : LiveMap) (off : Nat) : Nat := pieceLoc v.arena off

/-- The live map whose allocator map holds a physical byte, if any. -/
def MemSys.allocatorOf (m : MemSys) (l : Nat) : Option LiveMap :=
  m.maps.find? fun v => match pieceOff v.arena 0 l with
    | some o => v.size - allocMapSize v.size ≤ o
    | none => false

/-- A byte of memory. -/
def State.byteAt (s : State) (l : Nat) : Byte :=
  if isScratchLoc l then Tab.get 0 (s.core (locCore l)).scratch (locOff l)
  else match s.mem.allocatorOf l with
    | some v => Config.allocatorByte l v.stamp
    | none => Tab.get 0 s.mem.cells l

def State.setByte (s : State) (l : Nat) (b : Byte) : State :=
  if isScratchLoc l then s.modCore (locCore l) fun k => { k with scratch := Tab.set 0 k.scratch (locOff l) b }
  else s.modMem fun m => { m with cells := Tab.set 0 m.cells l b }

def State.bytesAt (s : State) (l : Nat) : Nat → List Byte
  | 0 => []
  | n + 1 => s.byteAt l :: s.bytesAt (l + 1) n

def State.setBytes (s : State) (l : Nat) : List Byte → State
  | [] => s
  | b :: bs => (s.setByte l b).setBytes (l + 1) bs

/-- Little-endian value of bytes (R3). -/
def leNat : List Byte → Nat
  | [] => 0
  | b :: bs => b.toNat + 256 * leNat bs

def leBytes : Nat → Nat → List Byte
  | 0, _ => []
  | n + 1, v => BitVec.ofNat 8 v :: leBytes n (v / 256)

def State.natAt (s : State) (l n : Nat) : Nat := leNat (s.bytesAt l n)
def State.setNat (s : State) (l n v : Nat) : State := s.setBytes l (leBytes n v)

/-! ## Full/empty bits -/

def State.isEmpty (s : State) (l : Nat) : Bool :=
  if isScratchLoc l then NSet.has (s.core (locCore l)).scratchEmpty (locOff l / 8) else NSet.has s.mem.empty (l / 8)

def State.setEmpty (s : State) (l : Nat) (e : Bool) : State :=
  if isScratchLoc l then
    s.modCore (locCore l) fun k => { k with scratchEmpty := NSet.setTo k.scratchEmpty (locOff l / 8) e }
  else s.modMem fun m => { m with empty := NSet.setTo m.empty (l / 8) e }

/-! ## Places that serve a line (R18, R162, R166, R167) -/

/-- The port of a die whose m equals x (R20). -/
def portFor (x : Nat) : Option Nat := match x with | 1 => some 0 | 2 => some 1 | 4 => some 2 | 7 => some 3 | _ => none
/-- The links, as (die, port), that a request from die d to die e takes, and a response from e to d as the route from its own
end: the port whose m is d XOR e, or else port 0 and from its neighbour the port onward (R167). -/
def dieRoute (d e : Nat) : List (Nat × Nat) :=
  if d = e then []
  else match portFor (d ^^^ e) with
    | some p => [(d, p)]
    | none => (d, 0) :: ((portFor (d ^^^ e ^^^ 1)).map fun p => (d ^^^ 1, p)).toList
/-- Home die of a physical address; host lines are homed on die 0 (R161, R162), and lines of peer windows, for which R161, R162 and R166
name no home though R408 lets the device cache them, as host lines are (notes/assumptions/59.md). -/
def homeDie (pa : Nat) : Nat := if isHbm pa then pa / Config.hbmPerDie else 0
def l1SliceOf (pa : Nat) : Nat := (pa / 2 ^ 7 % 8) ^^^ (pa / 2 ^ 12 % 8)
def l2SliceOf (pa : Nat) : Nat := (pa / 2 ^ 7 % 32) ^^^ (pa / 2 ^ 12 % 32)
def llcSliceOf (pa : Nat) : Nat := (pa / 2 ^ 7 % 32) ^^^ (pa / 2 ^ 17 % 32)
def controllerOf (pa : Nat) : Nat := 4 * homeDie pa + llcSliceOf pa / 8
/-- The HBM stack of the home base die that holds a line (R162). -/
def hbmStackOf (pa : Nat) : Nat := llcSliceOf pa / 8 / 2
/-- The base die of an LLC slice of the package, and its number there (R18). -/
def sliceDie (slice : Nat) : Nat := slice / 32
def sliceLocal (slice : Nat) : Nat := slice % 32
/-- The LLC slice of the package that holds a line of HBM (R18, R162). -/
def packageSlice (pa : Nat) : Nat := 32 * homeDie pa + llcSliceOf pa
/-- Where a request of a die's cluster goes from its L1 (R166): the home L2, or the gateway of the first port of its route. -/
def homePlace (die pa : Nat) : Place :=
  match dieRoute die (homeDie pa) with | [] => .l2 die | (_, p) :: _ => .gateway die p
/-- The home's places for a line, in the order in which a request reaches them (R166, R170). -/
def homePath (pa : Nat) : List Place := .l2 (homeDie pa) :: if isHbm pa then [.llc] else []
/-- The places that a request of a die's cluster reaches beyond its L1 (R166). -/
def nearPath (die pa : Nat) : List Place :=
  if homeDie pa = die then homePath pa else homePlace die pa :: homePath pa
/-- The places beneath one that holds a line (R166). -/
def beneath (p : Place) (pa : Nat) : List Place :=
  match p with
  | .l1 k => nearPath (clusterDie k) pa
  | .gateway _ _ => homePath pa
  | .l2 _ => (homePath pa).drop 1
  | .llc => []
/-- 0 for an L1, 1 for a gateway, 2 for an L2, 3 for the LLC. -/
def placeLevel : Place → Nat
  | .l1 _ => 0 | .gateway _ _ => 1 | .l2 _ => 2 | .llc => 3
/-- Lines of one slice of a place, a gateway being one slice: 1 MiB of L1 in 8 slices, 64 MiB of L2 in 32, 8 MiB of gateway and
256 MiB of LLC a die in 32 (R13). -/
def sliceLines : Place → Nat
  | .l1 _ => 1024 | .gateway _ _ => 65536 | .l2 _ => 16384 | .llc => 65536
/-- The slice of a place that holds a line (R162). -/
def sliceAt (p : Place) (pa : Nat) : Nat :=
  match p with
  | .l1 _ => l1SliceOf pa | .gateway _ _ => 0 | .l2 _ => l2SliceOf pa | .llc => packageSlice pa

/-! ## Policy images (R173) and eviction classes (R175) -/

def polUpper (q : Policy) : Nat := bitsOf q 31 24
def polLower (q : Policy) : Nat := bitsOf q 23 16
def polScope (q : Policy) : Nat := bitsOf q 15 12
def polOrder (q : Policy) : Nat := bitsOf q 11 8
/-- An access whose ORDER is not 0 is a synchronising access (R340). -/
def isSync (q : Policy) : Bool := polOrder q ≠ 0
def polSpace (q : Policy) : Nat := bitsOf q 7 6
def polTc (q : Policy) : Nat := bitsOf q 5 4
def polSwm (q : Policy) : Bool := bitOf q 3
/-- No reserved code and no reserved bit (R173). -/
def polOk (q : Policy) : Bool := polScope q < 6 && polOrder q < 5 && polSpace q ≠ 3 && bitsOf q 2 0 = 0

def h8 (ea : Nat) : Nat := (ea / 2 ^ 40 % 256) ^^^ (ea / 2 ^ 32 % 256) ^^^ (ea / 2 ^ 8 % 256)
def evictClass (q : Policy) (ea : Nat) : EvictClass :=
  if h8 ea < polLower q then .retain else if h8 ea < polUpper q then .normal else .stream

/-! ## Copies of a line (R166 to R171) -/

def CacheLine.pa (e : CacheLine) : Nat := 128 * e.line
def CacheLine.is (e : CacheLine) (p : Place) (line : Nat) : Bool := e.place = p && e.line = line
def MemSys.cached (m : MemSys) (p : Place) (line : Nat) : Option CacheLine := m.cache.find? (·.is p line)
/-- The copy of the first of some places that holds the line. -/
def MemSys.holder (m : MemSys) (ps : List Place) (line : Nat) : Option CacheLine := ps.findSome? fun p => m.cached p line
/-- An owner of the line above its home: an L1 before its gateway (R168, R169). -/
def MemSys.owner (m : MemSys) (line : Nat) : Option CacheLine :=
  let held (r : Nat) := m.cache.find? fun e => e.line = line && e.owned && !e.untracked && placeLevel e.place = r
  (held 0).or (held 1)
/-- The untracked copy of a line in a cluster's L1 (R171). -/
def MemSys.untracked (m : MemSys) (cluster line : Nat) : Option CacheLine := (m.cached (.l1 cluster) line).filter (·.untracked)
/-- The copy that serves a request at the home (R168, R169); none where memory does. -/
def MemSys.atHome (m : MemSys) (line : Nat) : Option CacheLine := (m.owner line).or (m.holder (homePath (128 * line)) line)
/-- The copy that serves a cluster (R166, R171). -/
def MemSys.forCluster (m : MemSys) (cluster line : Nat) : Option CacheLine :=
  (m.cached (.l1 cluster) line).or ((m.owner line).or (m.holder (nearPath (clusterDie cluster) (128 * line)) line))

/-! ## Check codes -/

/-- One bit of the CRC of R184. -/
def crcBit (crc : Nat) (bit : Bool) : Nat :=
  let top := (crc / 2 ^ 15 % 2 == 1) != bit
  let c := crc * 2 % 2 ^ 16
  if top then c ^^^ 0x1021 else c

/-- One byte, most significant bit first. -/
def crcByte (crc : Nat) (b : Byte) : Nat :=
  [7, 6, 5, 4, 3, 2, 1, 0].foldl (fun c i => crcBit c (bitOf b i)) crc

/-- The check code of a sector: polynomial 0x1021, initial value 0xFFFF, no reflection, no final inversion (R184). -/
def checkCode (bs : List Byte) : Nat := bs.foldl crcByte 0xFFFF

/-- A sector whose code does not verify is kept as a mark (R185 to R187). -/
def MemSys.badIn (m : MemSys) (e : Option CacheLine) (l : Nat) : Bool :=
  match e with | some e => NSet.has e.bad (l / 32) | none => NSet.has m.bad (l / 32)

/-- A sector is bad as its home, or its core's scratch, has it. -/
def State.isBad (s : State) (l : Nat) : Bool :=
  if isScratchLoc l then NSet.has (s.core (locCore l)).scratchBad (locOff l / 32) else s.mem.badIn (s.mem.atHome (l / 128)) l

/-- A sector is bad as a cluster's access finds it (R171, R186). -/
def State.badFor (s : State) (cluster l : Nat) : Bool :=
  if isScratchLoc l then s.isBad l else s.mem.badIn (s.mem.forCluster cluster (l / 128)) l

def CacheLine.setBad (e : CacheLine) (l : Nat) (b : Bool) : CacheLine := { e with bad := NSet.setTo e.bad (l / 32) b }

/-- A sector of coherent memory, its tracked copies among it, or of scratch takes a mark or a good code. -/
def State.setBad (s : State) (l : Nat) (b : Bool) : State :=
  if isScratchLoc l then s.modCore (locCore l) fun k => { k with scratchBad := NSet.setTo k.scratchBad (locOff l / 32) b }
  else s.modMem fun m =>
    { m with bad := NSet.setTo m.bad (l / 32) b,
             cache := m.cache.map fun e => if e.line = l / 128 && !e.untracked then e.setBad l b else e }

/-- First sector that a range of n bytes touches and that is bad. -/
def firstBadOf (bad : Nat → Bool) (l n : Nat) : Option Nat :=
  (List.range ((l + n - 1) / 32 + 1 - l / 32)).findSome? fun i =>
    let a := (l / 32 + i) * 32
    if n ≠ 0 && bad a then some a else none

def State.firstBad (s : State) (l n : Nat) : Option Nat := firstBadOf s.isBad l n

/-- The poison marks of the sectors that n bytes lie in (R186). -/
def State.sectorMarks (s : State) (l n : Nat) : List Bool :=
  (List.range ((l + n - 1) / 32 + 1 - l / 32)).map fun i => s.isBad ((l / 32 + i) * 32)

/-- The lines (128-byte units) that n bytes touch. -/
def linesOf (l n : Nat) : List Nat := (List.range ((l + n - 1) / 128 + 1 - l / 128)).map (l / 128 + ·)

/-- Sectors wholly written get a new, good code; sectors partly written keep their mark (R185). -/
def State.recode (s : State) (l n : Nat) : State :=
  (List.range ((l + n - 1) / 32 + 1 - l / 32)).foldl (fun t i =>
    let a := (l / 32 + i) * 32
    if l ≤ a && a + 32 ≤ l + n then t.setBad a false else t) s

/-- A write by a core or engine: bytes and codes; full/empty bits stay (R185, R188). -/
def State.write (s : State) (l : Nat) (bs : List Byte) : State := (s.setBytes l bs).recode l bs.length

/-! ## Device registers (R161, R180, R398, R410, R414, R420, R424, R425) -/

def frBase : Nat := 0x3000000100000
def trootBase : Nat := 0x3000008000000
def hcBase : Nat := 0x3000009000000
def colBase : Nat := 0x300000A000000
def tringBase : Nat := 0x300000B000000
def madBase : Nat := 0x300000C000000
def timestat : Nat := 0x300000D000000
def dbgBase : Nat := 0x3000200000000

/-- The writable bits of a device register that is kept as a word, or none where the address names no such register. -/
def devMask (a : Nat) : Option Word :=
  if a % 8 ≠ 0 then none
  else if frBase ≤ a && a < frBase + 0x4000 then
    match (a - frBase) % 0x20 with
    | 0x00 => some 0x80FFFFFFFFFFF000 | 0x08 => some 0x000FFFFFFFFFF000 | 0x10 => some 0x000FFFFFFFFFFFFF | _ => none
  else if trootBase ≤ a && a < trootBase + 0x80000 then some 0x000FFFFFFFFFF000
  else if a = hcBase then some 0x000FFFFFFFFFFFFF
  else if a = hcBase + 0x08 then some 0x800FFFFFFFFFF000
  else if a = hcBase + 0x10 then some 0xFFFFFFFF
  else if a = hcBase + 0x18 then some 0xFFFFFFFF
  else if a = hcBase + 0x20 then some 0x1F0FFFFFFFFFFFFF
  else if a = hcBase + 0x28 then some 0xFFFFFFFF
  else if colBase ≤ a && a < colBase + 0x800 then
    match (a - colBase) % 0x100 with
    | 0x00 => some 0x1F0FFFFFFFFFFFFF | 0x08 => some 0xFFFFFFFF | 0x10 => some 0 | _ => none
  else if tringBase ≤ a && a < tringBase + 0x80000 then some 0x1F0FFFFFFFFFFFFF
  else if madBase ≤ a && a < madBase + 0x800000 then
    match (a - madBase) % 0x100000 with
    | 0x00 => some 0xBFFFFFFFFFFFFFFF | 0x08 => some 0x01FFFFFFFFFFFFFF | _ => none
  else none

/-- Reset value of a device register: HCTHR 256, MADCFG.SPER 1, the rest 0 (R410, R425). -/
def devReset (a : Nat) : Word :=
  if a = hcBase + 0x18 then 256
  else if madBase ≤ a && a < madBase + 0x800000 && (a - madBase) % 0x100000 = 0 then 0x100000000
  else 0

def MemSys.devReg (m : MemSys) (a : Nat) : Word := Tab.get (devReset a) m.dev a
/-- Sets a register outright. -/
def MemSys.setDev (m : MemSys) (a : Nat) (x : Word) : MemSys := { m with dev := Tab.put m.dev a x }
/-- A write through the register's mask (R9). An address that names no register ignores writes (R161). -/
def MemSys.writeDev (m : MemSys) (a : Nat) (x : Word) : MemSys :=
  match devMask a with
  | some k => m.setDev a ((m.devReg a &&& ~~~k) ||| (x &&& k))
  | none => m

/-! ## Scale sidecars (R180 to R182) -/

/-- The .q4 range entry of a line: the lowest-numbered covering entry of its controller, if its format is .q4 (R181). -/
def MemSys.q4Range (m : MemSys) (pa : Nat) : Option (Nat × Nat) :=
  if !isHbm pa then none
  else
    let c := controllerOf pa
    (List.range 16).findSome? (fun n =>
      let a := frBase + c * 0x200 + n * 0x20
      let b := m.devReg a
      let l := m.devReg (a + 8)
      let first := bitsOf b 51 12
      let last := bitsOf l 51 12
      if bitOf b 63 && bitsOf b 55 52 ≠ 15 && first ≤ last && first ≤ pa / 4096 && pa / 4096 ≤ last then
        some (bitsOf b 55 52, first * 4096, bitsOf (m.devReg (a + 16)) 51 0)
      else none) |>.bind fun (f, base, scale) => if f = 14 then some (base, scale) else none

/-- The sidecar of a line as its controller attaches it at a fill: eight scale words (R182). -/
def State.lineSidecar (s : State) (line : Nat) : Option (List (BitVec 24)) :=
  (s.mem.q4Range (line * 128)).map fun (base, scale) =>
    (List.range 8).map fun i =>
      let a := scale + 3 * ((line * 128 - base) / 16 + i)
      if isHbm a && isHbm (a + 2) then BitVec.ofNat 24 (s.natAt a 3) else Config.nanBlock

/-! ## Movement of copies (R165 to R171, R175, R182) -/

def MemSys.uncache (m : MemSys) (f : CacheLine → Bool) : MemSys := { m with cache := m.cache.filter fun e => !f e }

/-- A copy is changed in its place. -/
def MemSys.modCopy (m : MemSys) (p : Place) (line : Nat) (f : CacheLine → CacheLine) : MemSys :=
  { m with cache := m.cache.map fun e => if e.is p line then f e else e }

/-- A copy that is later than the level beneath is written back there, a whole line with its sectors' marks (R165, R168, R185). It
stays, clean. -/
def MemSys.writeDown (m : MemSys) (e : CacheLine) : MemSys :=
  if !e.owned then m
  else
    let m := m.modCopy e.place e.line fun f => { f with owned := false }
    match m.holder (beneath e.place e.pa) e.line with
    | some d => m.modCopy d.place d.line fun f => { f with bad := e.bad, owned := true }
    | none => { m with bad := e.bad.foldl (fun t b => NSet.put t b.1) (m.bad.filter fun b => b.1 / 4 ≠ e.line) }

/-- The tracked copies of a line at some places are written back, an upper level first. -/
def MemSys.flushLine (m : MemSys) (line : Nat) (f : Place → Bool) : MemSys :=
  [0, 1, 2, 3].foldl (fun m r =>
    (m.cache.filter fun e => e.line = line && !e.untracked && placeLevel e.place = r && f e.place).foldl MemSys.writeDown m) m

/-- The tracked copies of a line at some places are recalled, dirty data written back (R168). -/
def MemSys.recallLine (m : MemSys) (line : Nat) (f : Place → Bool) : MemSys :=
  (m.flushLine line f).uncache fun e => e.line = line && !e.untracked && f e.place

/-- The tracked copies above the home are recalled (R168, R216, R407). -/
def State.recall (s : State) (line : Nat) : State := s.modMem fun m => m.recallLine line fun p => placeLevel p < 2

/-- A write is performed at a line's home: the copies above are recalled, and the home's own copy, where it has one, is later than
what lies beneath it (R168). -/
def State.homeWrite (s : State) (line : Nat) : State :=
  (s.recall line).modMem fun m => match m.holder (homePath (128 * line)) line with
    | some e => m.modCopy e.place line fun f => { f with owned := true }
    | none => m

/-- Bytes that a unit of the device writes at their home (R168). -/
def State.homeBytes (s : State) (l : Nat) (bs : List Byte) : State := ((linesOf l bs.length).foldl State.homeWrite s).write l bs

/-- A number that a unit of the device writes at its home (R168). -/
def State.homeSet (s : State) (l n v : Nat) : State := ((linesOf l n).foldl State.homeWrite s).setNat l n v

/-- Stores that regions of a cluster's strands hold back to some bytes take no effect any more. -/
def State.dropHeld (s : State) (cluster : Nat) (f : Nat → Bool) : State :=
  s.allStrands.foldl (fun t y =>
    if clusterOf y.core = cluster && (t.strand y).region.held.any (f ·.loc) then
      t.modStrand y fun st => { st with region := { st.region with held := st.region.held.filter fun h => !f h.loc } }
    else t) s

/-- The copies that go with one that is evicted: those that its directory entry, or a gateway's record, holds (R168). -/
def covers (p q : Place) : Bool :=
  match p, q with
  | .l2 _, q => placeLevel q < 3
  | .gateway d _, .l1 k => clusterDie k = d
  | p, q => p = q

/-- An untracked copy's dirty bytes are written back; it stays, clean (R171, R200), and no store that came before them in its L1 takes
effect after them. A sector of it that is bad leaves the home's bad,
and one that is written whole takes a new code (R185). Only the dirty bytes go home, not the line: the home may hold later
stores to the others (notes/assumptions/56.md). The line has then been written back, and its shadow writer goes (R172). -/
def State.writeBack (s : State) (e : CacheLine) : State :=
  if e.dirty = [] then s
  else
    let s := s.homeWrite e.line
    let s := match e.place with | .l1 k => s.dropHeld k (NSet.has e.dirty) | _ => s
    let s := e.bytes.foldl (fun t (l, b) => if NSet.has e.dirty l then t.setByte l b else t) s
    let s := [0, 32, 64, 96].foldl (fun t o =>
      let n := (e.dirty.filter fun d => d.1 / 32 = (e.pa + o) / 32).length
      if n = 0 then t
      else if NSet.has e.bad ((e.pa + o) / 32) then t.setBad (e.pa + o) true
      else if n = 32 then t.setBad (e.pa + o) false
      else t) s
    s.modMem fun m =>
      { m.modCopy e.place e.line (fun f => { f with dirty := [] }) with shadow := Tab.drop m.shadow e.line }

/-- The victim of a slice that is full (R175): its oldest stream line, else its least recently used normal line, else its least
recently used retain line. A slice is one set (notes/assumptions/55.md). -/
def MemSys.victim (m : MemSys) (p : Place) (line : Nat) : Option CacheLine :=
  if m.cache.length < sliceLines p then none
  else
    let set := m.cache.filter fun e => e.place = p && sliceAt p e.pa = sliceAt p (128 * line)
    if set.length < sliceLines p then none
    else
      let oldest : Option CacheLine := (set.filter (·.cls = .stream)).foldl (fun (o : Option CacheLine) e =>
        match o with | some f => if e.born ≤ f.born then some e else some f | none => some e) none
      oldest.or ((set.filter (·.cls = .normal)).getLast?.or set.getLast?)

def State.evict (s : State) (e : CacheLine) : State :=
  if e.untracked then (s.writeBack e).modMem fun m => m.uncache (·.is e.place e.line)
  else s.modMem fun m => m.recallLine e.line (covers e.place)

/-- A place takes a line: a hit replaces the class; a fill takes data, marks and sidecar from beneath, where memory attaches
the sidecar (R175, R182, R185). -/
def State.install (s : State) (p : Place) (line : Nat) (c : EvictClass) : State :=
  match s.mem.cached p line with
  | some e => s.modMem fun m => { (m.uncache (·.is p line)) with cache := { e with cls := c } :: (m.uncache (·.is p line)).cache }
  | none =>
    let s := match s.mem.victim p line with | some v => s.evict v | none => s
    let lower := s.mem.holder (beneath p (128 * line)) line
    let e : CacheLine :=
      { place := p, line := line, cls := c, owned := false, born := s.clock.cc, untracked := false, bytes := [], dirty := [],
        bad := match lower with | some d => d.bad | none => s.mem.bad.filter fun b => b.1 / 4 = line
        sidecar := match lower with | some d => d.sidecar | none => s.lineSidecar line }
    s.modMem fun m => { m with cache := e :: m.cache }

/-- A request that goes from place to place as far as one that holds the line, which every place on the way then takes (R166). -/
def State.fillPath (s : State) (line : Nat) (c : EvictClass) : List Place → State
  | [] => s
  | p :: ps => match s.mem.cached p line with
    | some _ => s.install p line c
    | none => (s.fillPath line c ps).install p line c

/-- A request at the home (R168, R169): owners write back; a write first takes every copy above. -/
def State.homeAccess (s : State) (line : Nat) (c : EvictClass) (write : Bool) : State :=
  let up (p : Place) : Bool := placeLevel p < 2
  let s := (s.modMem fun m => if write then m.recallLine line up else m.flushLine line up).fillPath line c (homePath (128 * line))
  if write then s.modMem fun m => m.modCopy (.l2 (homeDie (128 * line))) line fun e => { e with owned := true } else s

/-- A request that a cluster's L1 sends on: its die's gateway serves it as the home would (R166, R169), else the home. -/
def State.nearAccess (s : State) (die line : Nat) (c : EvictClass) : State :=
  let gate := homePlace die (128 * line)
  let local_ : Bool := placeLevel gate = 1 && (s.mem.cached gate line).isSome
  let up (p : Place) : Bool := if local_ then covers gate p && placeLevel p = 0 else placeLevel p < 2
  (s.modMem fun m => m.flushLine line up).fillPath line c (nearPath die (128 * line))

/-- An access of a cluster through the caches: its L1, then beyond (R166). -/
def State.touchPath (s : State) (cluster line : Nat) (c : EvictClass) : State :=
  match s.mem.cached (.l1 cluster) line with
  | some _ => s.install (.l1 cluster) line c
  | none => (s.nearAccess (clusterDie cluster) line c).install (.l1 cluster) line c

/-- A write needs the Owned state, which invalidates every other copy first (R168); its gateway then owns the line too (R169). An
untracked copy is used as it is (R171). -/
def State.own (s : State) (cluster line : Nat) : State :=
  match s.mem.cached (.l1 cluster) line with
  | some e =>
    if e.untracked || e.owned then s
    else
      let gate := homePlace (clusterDie cluster) (128 * line)
      s.modMem fun m =>
        let m := m.recallLine line fun p => placeLevel p < 2 && p ≠ .l1 cluster && p ≠ gate
        let m := m.modCopy (.l1 cluster) line fun e => { e with owned := true }
        if placeLevel gate = 1 then m.modCopy gate line fun e => { e with owned := true } else m
  | none => s

/-- The scale words that a line carries at its home; none where it carries no sidecar (R182, R214). -/
def State.sidecarOf (s : State) (line : Nat) : Option (List (BitVec 24)) :=
  match s.mem.atHome line with
  | some e => e.sidecar
  | none => s.lineSidecar line

/-! ## Trace rings (R420 to R422) -/

/-- Writes one 32-byte record into a job's ring, as one step of the header's arbiter (R422). -/
def State.trace (s : State) (job : Nat) (record : Nat) : State :=
  let r := s.mem.devReg (tringBase + 8 * (job % 65536))
  let lg := bitsOf r 60 56
  let a := bitsOf r 51 0
  if lg = 0 then s
  else
    let wr := s.natAt a 8
    let s := if 2 ^ lg ≤ wr then s.homeSet (a + 8) 8 (s.natAt (a + 8) 8 + 1) else s
    let b := a + 64 + 32 * (wr % 2 ^ lg)
    let s := ((linesOf b 32).foldl State.homeWrite s).write b (leBytes 32 record)
    s.homeSet a 8 (wr + 1)

/-- A trace record's fields (R415). -/
def traceRecord (ns seq job kind status peer die : Nat) : Nat :=
  ns % 2 ^ 64 * 2 ^ 192 + seq % 2 ^ 32 * 2 ^ 160 + job % 2 ^ 32 * 2 ^ 128 + kind * 2 ^ 120 + status * 2 ^ 112 +
    peer % 256 * 2 ^ 104 + die * 2 ^ 96

/-! ## Full/empty operations as one step (R188, R194, R195) -/

/-- The state of the bit that an operation needs: empty for STF, full for LDF and LDFP. -/
def FeOp.fits (op : FeOp) (empty : Bool) : Bool :=
  match op with | .stf => empty | .ldf | .ldfp => !empty | .markE | .markF => true

/-- One full/empty operation as one step on a word that fits it: its register results. -/
def State.feStep (s : State) (op : FeOp) (l : Nat) (v : Word) (d : Nat) : State × List Dest :=
  match op with
  | .ldf => (s.setEmpty l true, [.g d (BitVec.ofNat 64 (s.natAt l 8))])
  | .ldfp => (s, [.g d (BitVec.ofNat 64 (s.natAt l 8))])
  | .stf => ((s.write l (leBytes 8 v.toNat)).setEmpty l false, [])
  | .markE => (s.setEmpty l true, [])
  | .markF => (s.setEmpty l false, [])

/-- A strand's request moves on to a stage. -/
def Strand.setStage (st : Strand) (seq : Nat) (g : Stage) : Strand :=
  { st with inflight := st.inflight.map fun e => if e.seq = seq then { e with req := e.req.map fun r => (r.1, g) } else e }

/-- A waiter of a full/empty word is served: its value or its fault is on its way (R188, R194). -/
def State.fill (s : State) (x : SId) (seq : Nat) (ds : List Dest) (t : Option TrapInfo) : State :=
  (s.modStrand x fun st => st.setStage seq (.filled ds t)).post 0 (.memoryResponse x seq 0)

/-- An operation that reads the word. -/
def FeOp.reads (op : FeOp) : Bool := op = .ldf || op = .ldfp

/-- The address of a full/empty operation in flight. -/
def Strand.feAddress (st : Strand) (seq : Nat) : Word :=
  (st.inflight.findSome? fun e => if e.seq ≠ seq then none else match e.req with
    | some (.fe _ ea _ _ _ _, _) => some ea
    | _ => none).getD 0

/-- A waiter that reads a word in a sector that has become bad takes INTEGRITY, and leaves the word as it is (R186). -/
def State.waiterTrap (s : State) (w : Waiter) : Option TrapInfo :=
  if w.op.reads && s.isBad w.loc then some ⟨.integrity, (s.strand w.sid).feAddress w.seq &&& ~~~31, 0⟩ else none

/-- Serves the waiters of a word in acceptance order, as far as its state satisfies one (R188). -/
def State.serveWaiters : Nat → State → Nat → State
  | 0, s, _ => s
  | f + 1, s, l =>
    match s.mem.waiters.find? fun w => w.loc = l && w.op.fits (s.isEmpty l) with
    | none => s
    | some w =>
      let s := s.modMem fun m => { m with waiters := m.waiters.filter fun v => !(v.sid = w.sid && v.seq = w.seq) }
      match s.waiterTrap w with
      | some t => (s.fill w.sid w.seq [] (some t)).serveWaiters f l
      | none =>
        let (s, ds) := s.feStep w.op l w.x w.d
        (s.fill w.sid w.seq ds none).serveWaiters f l

def State.serveWord (s : State) (l : Nat) : State := s.serveWaiters (s.mem.waiters.length + 1) l

end Sys2Proof.Machine
end

