-- ==== Sys2Proof/Machine/Region.lean ====
section
/-! DEFINITION. Regions and race detection (R341 to R346): what a strand's open region has read and written, in nibbles;
the stores it holds back until it commits; and the first conflict of an access with another strand's open region. -/

namespace Sys2Proof.Machine

def Span.meets (a : Span) (lo len : Nat) (write : Bool) : Bool :=
  (a.write || write) && a.lo < lo + len && lo < a.lo + a.len

/-- The first nibble of an access that a region's spans meet in conflict; across clusters, software-managed spans are not
seen, nor anything by a software-managed access (R346). -/
def Region.hit (r : Region) (lo len : Nat) (write across swm : Bool) : Option Nat :=
  (r.spans.filter fun a => a.meets lo len write && !(across && (swm || a.swm))).foldl (fun (m : Option Nat) a =>
    let n := Nat.max a.lo lo
    match m with | some k => some (Nat.min k n) | none => some n) none

/-- The strand whose open region an access of x completes a conflict with, and the first conflicting nibble of all (R343,
R345). -/
def State.conflict (s : State) (x : SId) (lo len : Nat) (write : Bool) (swm : Bool := false) : Option (SId × Nat) :=
  s.allStrands.foldl (fun (m : Option (SId × Nat)) y =>
    if y = x then m
    else match (s.strand y).region.hit lo len write (clusterOf y.core ≠ clusterOf x.core) swm, m with
      | none, _ => m
      | some n, none => some (y, n)
      | some n, some (z, k) => if n < k then some (y, n) else some (z, k)) none

/-- EOTHER for MEMRACE (R345). -/
def otherWord (y : SId) : Word := BitVec.ofNat 64 (y.core % 8192 * 8 + y.strand)

/-- Applies one held store to memory; a sector's mark stays (R185). -/
def State.applyHeld (s : State) (h : Held) : State :=
  s.setByte h.loc ((s.byteAt h.loc &&& ~~~h.mask) ||| (h.val &&& h.mask))

/-- A line is written by a cluster: its L1 copy takes the Owned state; where the copy has left the L1 since the store, or is
software-managed, no other copy is left (R168, R171). -/
def State.ownHeld (s : State) (cluster line : Nat) : State :=
  match s.mem.cached (.l1 cluster) line with
  | some e => if e.untracked then s.homeWrite line else s.own cluster line
  | none => s.homeWrite line

/-- Held stores of a strand take effect. -/
def State.commitHeld (s : State) (x : SId) (hs : List Held) : State :=
  hs.foldl State.applyHeld ((hs.map (·.loc / 128)).dedup.foldl (fun t i => t.ownHeld (clusterOf x.core) i) s)

/-- Every TLBINV that waits looks again (R417). -/
def State.tlbLook (s : State) : State :=
  s.allStrands.foldl (fun t y => match (s.strand y).park with
    | some p => (match p.on with | .tlbinv _ _ _ _ => t.postOnce 0 (.tlbinvComplete y) | _ => t)
    | none => t) s

/-- Ends the open region of a strand: its stores take effect together (R341, R342). Until then another strand's read sees the old
bytes, of the mixes that R189 allows (notes/assumptions/46.md). A TLBINV may wait for the stores (R417). -/
def State.endRegion (s : State) (x : SId) : State :=
  let hs := (s.strand x).region.held
  let t := (s.commitHeld x hs).modStrand x fun st => { st with region := Region.empty }
  if hs = [] then t else t.tlbLook

/-- The strand's held stores to n bytes take effect before an effect of its own that writes them outside the region
(program order, R133). -/
def State.settleOwn (s : State) (x : SId) (l n : Nat) : State :=
  let mine (h : Held) : Bool := l ≤ h.loc && h.loc < l + n
  let hs := (s.strand x).region.held
  (s.commitHeld x (hs.filter mine)).modStrand x fun st =>
    { st with region := { st.region with held := hs.filter fun h => !mine h } }

/-- A region's lines with those of an access. -/
def Region.linesWith (r : Region) (l n : Nat) : NSet := (linesOf l n).foldl NSet.put r.lines

/-- An access that would bring a 513th line first ends the region (R342). -/
def State.makeRoom (s : State) (x : SId) (l n : Nat) : State :=
  if 512 < ((s.strand x).region.linesWith l n).length then s.endRegion x else s

/-- Enters an access in the strand's region. -/
def State.track (s : State) (x : SId) (l n : Nat) (span : Span) : State :=
  s.modStrand x fun st =>
    { st with region := { st.region with spans := span :: st.region.spans, lines := st.region.linesWith l n } }

/-- Holds a store's bytes back (R342). -/
def State.hold (s : State) (x : SId) (va l issue : Nat) (bs : List Byte) : State :=
  s.modStrand x fun st =>
    { st with region := { st.region with
        held := st.region.held ++ (bs.zipIdx.map fun (b, i) => ⟨l + i, 0xFF, b, va + i, issue⟩) } }

/-- A byte over which a region's stores are held. -/
def Region.over (r : Region) (l : Nat) (b : Byte) : Byte :=
  r.held.foldl (fun b h => if h.loc = l then (b &&& ~~~h.mask) ||| (h.val &&& h.mask) else b) b

/-- A byte as the strand's own region leaves it (R191, R342). -/
def State.regionByte (s : State) (x : SId) (l : Nat) : Byte := (s.strand x).region.over l (s.byteAt l)

/-- A byte as a cluster's L1 has it, with the stores that the regions of its strands hold back (R168, R342). -/
def State.l1Byte (s : State) (cluster l : Nat) : Byte :=
  s.allStrands.foldl (fun b y => if clusterOf y.core = cluster then (s.strand y).region.over l b else b) (s.byteAt l)

end Sys2Proof.Machine
end

