-- ==== Sys2Proof/Machine/Channels.lean ====
section
/-! DEFINITION. Woad channels (R330 to R333): which physical channel a strand's logical channel names, who is a member,
arrivals, the closing of a generation and its result. -/

namespace Sys2Proof.Machine

/-- The physical channel that logical channel ch names for a strand (R113, R330): a gang's channel 0 is the one the
dispatcher allocated; every other channel is the job's. -/
def State.physChannel (s : State) (x : SId) (ch : Nat) : Option Nat :=
  let st := s.strand x
  let ofJob := ((s.job (s.jobOf x)).channels.find? (·.1 = ch)).map fun (_, n) =>
    if ch < 16 then 16 * coreDie x.core + n else 128 + n
  match ch, st.gang with
  | 0, some g => match Tab.find? s.gangs g with | some v => v.channel | none => none
  | _, _ => ofJob

def isMemberBit (st : Strand) (ch : Nat) : Bool := bitOf st.regs.csr.wmem ch

/-- Only strands that run a task are members (R330). -/
def Run.isTask : Run → Bool
  | .idle | .waiting => false
  | _ => true

def State.isMember (s : State) (x : SId) (phys : Nat) : Bool :=
  (s.strand x).run.isTask &&
    (List.range 24).any fun ch => isMemberBit (s.strand x) ch && s.physChannel x ch = some phys

def State.members (s : State) (phys : Nat) : List SId := s.allStrands.filter fun x => s.isMember x phys

def WKind.isRed : WKind → Bool
  | .add | .min | .max | .or => true
  | _ => false

/-- Cycles from closing to release (R332). -/
def woadLatency (phys : Nat) (as : List Arrival) : Nat :=
  let red := as.any (·.kind.isRed)
  if phys < 128 then (if red then 32 else 24) else if red then 72 else 64

/-- Closes the open generation when every current member has arrived in it (R331). -/
def State.closeCheck (s : State) (phys : Nat) : State :=
  let c := s.channel phys
  if c.open_ ≠ [] ∧ (s.members phys).all (fun x => c.open_.any (·.sid = x)) then
    let l := woadLatency phys c.open_
    (s.setChannel phys { open_ := [], closed := c.closed ++ [(s.clock.cc + l, c.open_)] }).post l (.woadRelease phys)
  else s

/-- Sends an arrival (R331). -/
def State.arrive (s : State) (phys : Nat) (a : Arrival) : State :=
  (s.setChannel phys { s.channel phys with open_ := (s.channel phys).open_ ++ [a] }).closeCheck phys

/-- The result of a generation: its value, and whether it is a mismatch (R333). -/
def woadResult (as : List Arrival) : BitVec 32 × Bool :=
  let vs := as.map (·.value)
  let allOf (k : WKind) : Bool := as.all (·.kind = k)
  if allOf .add then (vs.foldl (· + ·) 0, false)
  else if allOf .min then (vs.tail.foldl (fun m v => if v.slt m then v else m) (vs.headD 0), false)
  else if allOf .max then (vs.tail.foldl (fun m v => if m.slt v then v else m) (vs.headD 0), false)
  else if as.any (fun a => a.kind = .add || a.kind = .min || a.kind = .max) then (0, true)
  else (vs.foldl (· ||| ·) 0, false)

/-- A change of WMEM: the strand leaves the channels whose bits it clears, which may close generations (R331, R389). -/
def State.setWmem (s : State) (x : SId) (w : BitVec 24) : State :=
  let old := (List.range 24).filterMap fun ch => if isMemberBit (s.strand x) ch then s.physChannel x ch else none
  let s := s.modStrand x fun st => st.modCsrNow fun c => { c with wmem := w }
  old.foldl (fun t p => t.closeCheck p) s

end Sys2Proof.Machine
end

