-- ==== Sys2Proof/Machine/Counters.lean ====
section
/-! DEFINITION. Completion counters (R66, R69 to R71), what a launch record says (R45 to R48), the end of a task (R73,
R158, R263, R269, R330), gangs' ends (R88) and cancellation (R74 to R76). -/

namespace Sys2Proof.Machine

/-! ## Fields of task and launch records (R43, R45) -/

def recEntry (r : Rec512) : Nat := bitsOf r 56 0
def recArg (r : Rec512) : Nat := bitsOf r 127 64
def recCount (r : Rec512) : Nat := bitsOf r 152 128
def recSx (r : Rec512) : Nat := bitsOf r 184 160
def recSy (r : Rec512) : Nat := bitsOf r 216 192
def recSz (r : Rec512) : Nat := bitsOf r 248 224
def recGang (r : Rec512) : Bool := bitOf r 256
def recLaunchHi (r : Rec512) : Bool := bitOf r 257
def recPrio (r : Rec512) : Nat := bitsOf r 260 258
def recGw (r : Rec512) : Nat := bitsOf r 265 261
def recGh (r : Rec512) : Nat := bitsOf r 270 266
def recCnt (r : Rec512) : Nat := bitsOf r 303 272
def recNpred (r : Rec512) : Nat := bitsOf r 335 320
def recGraphc (r : Rec512) : Nat := bitsOf r 383 352
def recSuccs (r : Rec512) : List Nat := [bitsOf r 415 384, bitsOf r 447 416, bitsOf r 479 448, bitsOf r 511 480]
def taskLaunchId (r : Rec512) : Nat := bitsOf r 255 224
def taskHi (r : Rec512) : Bool := bitOf r 256

/-- The task record of given fields (R43). -/
def taskRecord (entry arg ux uy uz launch : Nat) (hi : Bool) : Rec512 :=
  BitVec.ofNat 512 (entry % 2 ^ 57 + arg % 2 ^ 64 * 2 ^ 64 + ux % 2 ^ 24 * 2 ^ 128 + uy % 2 ^ 24 * 2 ^ 160 +
    uz % 2 ^ 24 * 2 ^ 192 + launch % 2 ^ 32 * 2 ^ 224 + hi.toNat * 2 ^ 256)

/-- The record of unit n of a launch (R46). -/
def unitRecord (r : Rec512) (n : Nat) : Rec512 :=
  let sx := recSx r
  taskRecord (recEntry r) (recArg r) (n % sx) (n / sx % recSy r) (n / (sx * recSy r)) (recCnt r) (recLaunchHi r)

/-! ## Counters (R66, R69) -/

def Job.counter (j : Job) (n : Nat) : Counter := Tab.get Counter.zero j.counters n
def State.counter (s : State) (j n : Nat) : Counter := (s.job j).counter n
def State.setCounter (s : State) (j n : Nat) (c : Counter) : State :=
  s.modJob j fun b => { b with counters := Tab.put b.counters n c }

/-- The value of a counter that CNTRD returns (R66). -/
def Counter.word (c : Counter) : Word :=
  BitVec.ofNat 64 (c.canc.toNat * 2 ^ 63 + c.state.code * 2 ^ 60 + c.level * 2 ^ 58 +
    (c.pred % 2 ^ 24).toNat * 2 ^ 32 + c.pend % 2 ^ 32)

/-- What happens to counters, in the order of R69. -/
inductive CEvent where
  | complete (n : Nat) | finish (n : Nat) | signal (n : Nat) | member (n : Nat) | release (n : Nat)
deriving DecidableEq, Repr

/-- Marks a launch's units as free to be dealt or its gang to be placed (R69 release). -/
def State.releaseLaunch (s : State) (j n : Nat) : State :=
  let s := s.modDisp fun d =>
    { d with launches := d.launches.map fun l => if l.job = j && recCnt l.record = n then { l with released := true } else l }
  match s.disp.launches.find? fun l => l.job = j && recCnt l.record = n with
  | some l => s.post 0 (if recGang l.record then .gangStart j n else .dealUnit j n)
  | none => s

/-- Resumes the CNTWAITs of a counter that has reached DONE, whatever it becomes in the same core cycle (R95, R127). -/
def State.wakeCounter (s : State) (j n : Nat) : State :=
  s.allStrands.foldl (fun t x => match (s.strand x).park with
    | some p =>
      if p.on = .counter n && s.jobOf x = j then
        (t.modStrand x fun st => { st with park := some { p with on := .ready 0 [] none } }).post 0 (.parkResume x)
      else t
    | none => t) s

/-- The job's forwarding entries go, and with them the vacated cores' places in the partition (R70, R379). -/
def State.dropForwards (s : State) (j : Nat) : State :=
  let gone := (s.job j).cores.filter fun c => (s.core c).forward.isSome
  let s := gone.foldl (fun t c => t.modCore c fun k => { k with forward := none, job := none }) s
  s.modJob j fun b => { b with cores := b.cores.filter fun c => !gone.contains c }

/-- The dispatcher agents of a job's dies are asked to arrive for a phase barrier (R70). Every operation and store counted into
the phase has been performed by the time its counter completes, on every die (R71, R73). -/
def State.phaseCall (s : State) (j : Nat) : State :=
  (s.modJob j fun b => { b with phaseDies := [] }).postAll (((s.job j).cores.map coreDie).dedup.map (.phaseAgentArrival j ·))

/-- One transition of R69, with the transitions it causes, in order. A phase counter whose barrier is in progress has completed: it
completes no second time. A release in a stopped job is owed until the job resumes: its counter stays HELD with PRED = 0 (R372). -/
def State.counterStep (s : State) (j : Nat) (e : CEvent) : State × List CEvent :=
  match e with
  | .complete n =>
    let c := s.counter j n
    match c.level, (s.job j).phase with
    | 2, some _ =>
      let b := s.job j
      if b.phaseOf.contains n then (s, [])
      else
        let t := s.modJob j fun b => { b with phaseOf := b.phaseOf ++ [n] }
        (if b.phaseOf = [] then t.phaseCall j else t, [])
    | _, _ => (s, [.finish n])
  | .finish n =>
    let c := s.counter j n
    let s := s.setCounter j n { c with state := .done, cancel := none, canc := c.canc || c.cancel.isSome }
    let s := if c.level ≠ 0 then
        s.trace j (traceRecord s.clock.ns n j 3 (c.canc || c.cancel.isSome).toNat c.level 0) else s
    let s := s.wakeCounter j n
    let s := if c.level = 3 then s.dropForwards j else s
    (s, (c.succ.filter (· ≠ 0)).map .signal ++ (if c.parent ≠ 0 then [.member c.parent] else []))
  | .signal n =>
    let c := s.counter j n
    match c.state with
    | .idle | .done => (s.setCounter j n { c with canc := false, state := .idle, pred := c.pred - 1 }, [])
    | .held =>
      if c.pred - 1 ≤ 0 then (s.setCounter j n { c with pred := 0 }, [.release n])
      else (s.setCounter j n { c with pred := c.pred - 1 }, [])
    | .active => (s, [])
  | .member n =>
    let c := s.counter j n
    match c.state with
    | .active => (s.setCounter j n { c with pend := (c.pend + (2 ^ 32 - 1)) % 2 ^ 32 }, if c.pend = 1 then [.complete n] else [])
    | _ => (s, [])
  | .release n =>
    let c := s.counter j n
    if (s.job j).run = .stopped then (s, [])
    else
      let s := s.setCounter j n { c with state := .active }
      if c.pend = 0 then (s, [.complete n]) else (s.releaseLaunch j n, [])

/-- The counters whose release is owed (R372). -/
def Job.owed (b : Job) : List Nat := (b.counters.filter fun (_, c) => c.state = .held && c.pred = 0).map (·.1)

/-- Runs transitions in order until none is left; fuel bounds them (each counter completes at most once here). What a transition
causes comes before what an earlier one has still to signal (notes/assumptions/59.md). -/
def State.runCounters : Nat → State → Nat → List CEvent → State
  | 0, s, _, _ => s
  | _ + 1, s, _, [] => s
  | f + 1, s, j, e :: es =>
    let (t, more) := s.counterStep j e
    State.runCounters f t j (more ++ es)

def State.counters (s : State) (j : Nat) (es : List CEvent) : State :=
  State.runCounters (16 * ((s.job j).counters.length + es.length + 4)) s j es

/-- A unit or spawned task retires, or a member completes (R69). -/
def State.countDown (s : State) (j n : Nat) : State := s.counters j [.member n]

/-! ## The end of a task -/

/-- Engine operations that a strand's task has issued and that have not completed (R73). -/
def State.opsOf (s : State) (x : SId) : List Nat :=
  s.cores.flatMap fun (_, k) =>
    (k.ops.filter fun o => o.owner = x && o.base.isNone).map (·.id) ++
      (k.array.filter fun a => a.owner = x && a.base.isNone).map (·.id)

def precOwn (p : Word) : Bool := bitOf p 47
def precOstr (p : Word) : Nat := bitsOf p 46 44
def Core.prec (k : Core) (bank : Nat) : Word := if bank = 0 then k.prec0 else k.prec1
def Core.setPrec (k : Core) (bank : Nat) (p : Word) : Core :=
  if bank = 0 then { k with prec0 := p } else { k with prec1 := p }

def Core.ownsBank (k : Core) (strand bank : Nat) : Bool :=
  precOwn (k.prec bank) && precOstr (k.prec bank) = strand

/-- The cores of a gang's rectangle in the order of their index k (R87). -/
def Gang.cores (v : Gang) : List Nat :=
  (List.range (v.w * v.h)).map fun k => coreIdOf v.die (v.y0 + k / v.w) (v.x0 + k % v.w)

/-- User strands of a core (R77). -/
def State.userStrands (s : State) (c : Nat) : List SId := (List.range ((s.core c).part.strands - 1)).map fun n => ⟨c, n⟩

/-- What the dispatcher has still to place or deal is looked at again (R65, R82, R86). -/
def State.redeal (s : State) : State :=
  let t := s.disp.launches.foldl (fun t l =>
    if l.released then t.postOnce 0 (if recGang l.record then .gangStart l.job (recCnt l.record) else .dealUnit l.job (recCnt l.record))
    else t) s
  s.disp.returned.foldl (fun t r => t.postOnce 0 (.dealUnit r.1 (taskLaunchId r.2))) t

/-- Gangs that hold a rectangle and wait to start look again (R87). -/
def State.gangsLook (s : State) : State :=
  s.gangs.foldl (fun t (_, v) => if v.channel = none then t.post 0 (.gangStart v.job v.counter) else t) s

/-- The gang ends when every member strand has retired: its cores and channel return to the dispatcher (R88). -/
def State.gangEndCheck (s : State) (g : Nat) : State :=
  match Tab.find? s.gangs g with
  | none => s
  | some v =>
    if v.members.all (v.retired.contains ·) then
      let s := { s with gangs := Tab.drop s.gangs g }
      let s := v.members.foldl (fun t x => t.modStrand x fun st => { st with run := .idle, gang := none }) s
      ((v.cores.flatMap s.userStrands).foldl (fun t x => t.post 0 (.pop x)) s).redeal
    else s

/-- Engine operations that outlive their task keep its virtual time (R73, R137). -/
def State.leaveEngines (s : State) (x : SId) (base : Nat) : State :=
  s.modCore x.core fun k =>
    { k with array := k.array.map (fun a => if a.owner = x then { a with base := some (a.base.getD base) } else a),
             ops := k.ops.map (fun o => if o.owner = x then { o with base := some (o.base.getD base) } else o) }

/-- A member of a gang has parked, retired or gone on: the gang's stall count begins no earlier (R335, R336). -/
def State.gangMark (s : State) (x : SId) : State :=
  match (s.strand x).gang with
  | none => s
  | some g => match Tab.find? s.gangs g with
    | some v => { s with gangs := Tab.put s.gangs g { v with quietFrom := s.clock.cc } }.post 256 (.gangstallExpiry g)
    | none => s

/-- A member of a gang will wait at a word from a vc on: the gang's stall count may begin there (R194, R335, R336). -/
def State.stallFrom (s : State) (x : SId) (v : Nat) : State :=
  match (s.strand x).gang with
  | none => s
  | some g => s.post ((s.strand x).base + v + 256 - s.clock.cc) (.gangstallExpiry g)

/-- A strand stops waiting at homes and stream targets, and leaves its place in the mailbox. -/
def State.dropPlaces (s : State) (x : SId) : State :=
  { s with
    mem := { s.mem with waiters := s.mem.waiters.filter fun w => w.sid ≠ x },
    cores := s.cores.map fun (c, k) => (c, { k with
      routeWait := k.routeWait.filter fun y => y ≠ x, claims := k.claims.filter fun e => e.1 ≠ x }) }

/-- The end of a task: TEND, TYIELD or kill. The strand leaves its channels (R330), releases its banks when their commands
complete (R269), closes an open route (R263) and seeks a record (R81), or waits for its gang (R88, R158). -/
def State.endTask (s : State) (x : SId) : State :=
  let s := (s.endRegion x).commitSvec x
  let s := (s.setWmem x 0).dropPlaces x
  let st := s.strand x
  let k := s.core x.core
  let banks := [0, 1].filter fun b => k.ownsBank x.strand b
  let s := s.modCore x.core fun k => { k with releasing := (k.releasing ++ banks).dedup }
  let s := s.leaveEngines x st.base
  let s := banks.foldl (fun t b => t.post 0 (.bankRelease x.core (BitVec.ofNat 1 b))) s
  let s := if st.route.isSome then s.post 0 (.routeAutoClose x) else s
  let s := s.modStrand x fun st =>
    { st with pending := [], inflight := [], deferred := [], storeBuf := [], park := none, blocked := none, resumed := false, group := [],
              starts := [], woadGot := [], drainT := none, drainCc := 0, held := 0, lates := [], late := [], tookLate := [],
              dying := false, run := if st.gang.isSome then .waiting else .idle }
  let s := if (s.job (s.jobOf x)).run = JobRun.stopping then s.post 0 (.domainStop x) else s
  match st.gang with
  | none => s.gangsLook.post 0 (.pop x)
  | some g =>
    let s := match Tab.find? s.gangs g with
      | some v => { s with gangs := Tab.put s.gangs g { v with retired := (x :: v.retired).dedup } }
      | none => s
    (s.gangMark x).gangEndCheck g

/-- An ended task waits for its engine operations (R73, R74). -/
def State.retire (s : State) (x : SId) (ended : Ended) (lineage : Nat) : State :=
  let j := s.jobOf x
  let n := (s.strand x).regs.csr.launchId.toNat
  let r : Retiring := { job := j, counter := n, ops := s.opsOf x, ended := ended, lineage := lineage }
  (s.modDisp fun d => { d with retiring := d.retiring ++ [r] }).post 0 (.unitRetire j n)

/-- Operations that a unit's task issued before a TYIELD are outstanding (R73). -/
def Dispatcher.yieldedOps (d : Dispatcher) (lineage : Nat) : Bool :=
  d.retiring.any fun r => r.ended = .yielded && r.lineage = lineage && r.ops ≠ []

/-- Array commands and copies that have not started look at the locks again (R203, R279). -/
def State.waitersLook (s : State) : State :=
  s.cores.foldl (fun t (c, k) =>
    let t := if k.array.any fun a => a.start.isNone then t.postOnce 0 (.arrayCommandStart c) else t
    if k.ops.any fun o => !o.started then t.postOnce 0 (.copyStart c) else t) s

/-- An engine operation has completed: its locks are released (R216), and units that waited for it may retire (R73). -/
def State.opDone (s : State) (id : Nat) : State :=
  let hit := s.disp.retiring.filter (·.ops.contains id)
  let s := s.modDisp fun d =>
    { d with retiring := d.retiring.map fun r => { r with ops := r.ops.filter (fun k => k ≠ id) } }
  hit.foldl (fun t r => t.post 0 (.unitRetire r.job r.counter)) s.waitersLook

/-! ## Cancellation (R74 to R76) -/

/-- Strands that run a task counted by a counter. -/
def State.counted (s : State) (j n : Nat) : List SId :=
  s.allStrands.filter fun x =>
    (s.strand x).run.isTask && (s.strand x).run ≠ .halted && s.jobOf x = j && (s.strand x).regs.csr.launchId.toNat = n

/-- A kill reaches strands: they issue no further group and stop once they meet R134 (R74, R103, R134). -/
def State.doom (s : State) (xs : List SId) : State :=
  xs.foldl (fun t x => (t.modStrand x fun st => { st with dying := true }).post 0 (.domainStop x)) s

/-- A continuation record carries the lineage of its unit in bits 503:440, which are 0 in every accepted record (R43, R73). -/
def withLineage (r : Rec512) (n : Nat) : Rec512 := putBits r 503 440 n
def recLineage (r : Rec512) : Nat := bitsOf r 503 440

/-- A record that is cancelled where it stands carries bit 511, which no accepted record has (R43, R76). -/
def cancelMark (r : Rec512) : Rec512 := putBits r 511 511 1
def isCancelled (r : Rec512) : Bool := bitOf r 511

/-- Records of a cancelled launch that have not started: those that wait at the dispatcher go, those in deques and queues
are marked (R74, R76). The strands of a rectangle that its gang held seek records again (R81). -/
def State.discardLaunch (s : State) (j n : Nat) : State :=
  let mark (r : Rec512) : Rec512 := if taskLaunchId r = n then cancelMark r else r
  let core (k : Core) : Core := if k.job = some j then { k with high := k.high.map mark, normal := k.normal.map mark } else k
  let queue (q : Queue) : Queue :=
    if q.job.toNat = j then
      { q with waiting := q.waiting.map fun (r, p) => (r, if recCnt r = n then 8 else p) }
    else q
  let held (v : Gang) : Bool := v.job = j && v.counter = n && v.channel = none
  let free := (s.gangs.filter fun (_, v) => held v).flatMap fun (_, v) => v.cores.flatMap s.userStrands
  let t : State := { s with
    disp := { s.disp with
      launches := s.disp.launches.filter fun l => !(l.job = j && recCnt l.record = n),
      fromTasks := s.disp.fromTasks.filter fun e => !(e.1 = j && recCnt e.2 = n),
      returned := s.disp.returned.filter fun e => !(e.1 = j && taskLaunchId e.2 = n) },
    gangs := s.gangs.filter fun (_, v) => !held v,
    cores := s.cores.map fun (c, k) => (c, core k), queues := s.queues.map fun (q, v) => (q, queue v) }
  free.foldl (fun t x => if (t.strand x).run = .idle then t.post 0 (.pop x) else t) t

/-- Cancels one counter that is HELD or ACTIVE (R74). -/
def State.cancelOne (s : State) (j n : Nat) (kill : Bool) : State :=
  let c := s.counter j n
  match c.state with
  | .held | .active =>
    let s := s.setCounter j n { c with cancel := some (kill || c.cancel = some true) }
    let s := (s.discardLaunch j n).redeal
    let s := if kill then s.doom (s.counted j n) else s
    s.post 0 (.cancelComplete j n)
  | _ => s

/-- Every counter of the level below: those whose GRAPHC or PARENT names one of the given counters, in whatever state those are
(R75; notes/assumptions/59.md). -/
def Job.below (j : Job) (ns : List Nat) : List Nat :=
  (j.counters.filter fun (_, c) => ns.contains c.parent).map (·.1)

def Job.closure : Nat → Job → List Nat → List Nat → List Nat
  | 0, _, seen, _ => seen
  | f + 1, j, seen, front =>
    match (j.below front).filter (fun n => !seen.contains n) with
    | [] => seen
    | more => Job.closure f j (seen ++ more) more

/-- CANCEL of a counter and every level below it (R75, R96). Cancelling a counter that is IDLE or DONE has no effect. -/
def State.cancel (s : State) (j n : Nat) (kill : Bool) : State :=
  match (s.counter j n).state with
  | .held | .active =>
    let b := s.job j
    (Job.closure (b.counters.length + 1) b [n] [n]).foldl (fun t m => t.cancelOne j m kill) s
  | _ => s

/-- Cancels the whole job in kill mode (R360). -/
def State.killJob (s : State) (j : Nat) : State :=
  let s := s.modJob j fun b => { b with killed := true }
  let ns := (s.job j).counters.map (·.1)
  let s := ns.foldl (fun t n => t.cancelOne j n true) s
  s.doom (s.allStrands.filter fun x => (s.strand x).run.isTask && (s.strand x).run ≠ .halted && s.jobOf x = j)

end Sys2Proof.Machine
end

