-- ==== Sys2Proof/Machine/Translate.lean ====
section
/-! DEFINITION. Translation (R160, R161, R174, R398 to R403, R408, R413): the walk of a job's page table, the cached
entries, permissions, and the counting of accesses through counted leaves with its notifications (R411, R412). -/

namespace Sys2Proof.Machine

/-! ## Page-table entries (R399, R400) -/

def eV (e : Word) : Bool := bitOf e 63
def eLeaf (e : Word) : Bool := bitOf e 62
def eSz (e : Word) : Nat := bitsOf e 61 58
def ePst (e : Word) : Nat := bitsOf e 57 56
def eWb (e : Word) : Bool := bitOf e 55
def eCnt (e : Word) : Bool := bitOf e 54
def ePa (e : Word) : Nat := bitsOf e 51 12 * 4096
def eX (e : Word) : Bool := bitOf e 7
def eW (e : Word) : Bool := bitOf e 6
def eR (e : Word) : Bool := bitOf e 5
def eU (e : Word) : Bool := bitOf e 4

/-- Bytes of a page of a size code (R400). -/
def pageSize (z : Nat) : Nat :=
  match z with
  | 0 => 2 ^ 12 | 1 => 2 ^ 14 | 2 => 2 ^ 16 | 3 => 2 ^ 18 | 4 => 2 ^ 20 | 5 => 2 ^ 21 | 6 => 2 ^ 22 | 7 => 2 ^ 24
  | 8 => 2 ^ 26 | 9 => 2 ^ 28 | 10 => 2 ^ 30 | _ => 2 ^ 32

/-- Bytes that one entry of a level spans (R398). -/
def levelSpan (l : Nat) : Nat := match l with | 0 => 2 ^ 48 | 1 => 2 ^ 36 | 2 => 2 ^ 24 | _ => 2 ^ 12
def levelEntries (l : Nat) : Nat := if l = 0 then 512 else 4096

/-- Checks 2 to 8 of R401 on one entry read at a level. -/
def entryOk (e : Word) (level : Nat) : Bool :=
  eV e && bitsOf e 53 52 = 0 && bitsOf e 11 8 = 0 && bitsOf e 3 0 = 0 && eSz e < 12 && ePst e ≠ 3 &&
    (if eLeaf e then
      level = (if eSz e < 7 then 3 else 2) && ePa e % pageSize (eSz e) = 0 &&
        (ePst e = 0 || !(isHbm (ePa e) || isDev (ePa e)))
    else eSz e = 0 && ePst e = 0 && level < 3)

/-- The entries that a walk from a table at a level reads, the last one first: each with the first address and the size
of what it maps; none where a check of R401 fails. -/
def State.walkFrom (s : State) (va : Nat) : Nat → Nat → Nat → Option (List (Word × Nat × Nat))
  | 0, _, _ => none
  | f + 1, level, table =>
    let a := table + 8 * (va / levelSpan level % levelEntries level)
    if !isHbm a then none
    else
      let e := BitVec.ofNat 64 (s.natAt a 8)
      if !entryOk e level then none
      else if eLeaf e then some [(e, va / pageSize (eSz e) * pageSize (eSz e), pageSize (eSz e))]
      else (s.walkFrom va f (level + 1) (ePa e)).map fun es =>
        es ++ [(e, va / levelSpan level * levelSpan level, levelSpan level)]

/-- The whole walk of a job's table (R398, R401). -/
def State.walk (s : State) (job va : Nat) : Option (List (Word × Nat × Nat)) :=
  let r := s.mem.devReg (trootBase + 8 * (job % 65536))
  if r = 0 then none else s.walkFrom va 4 0 (bitsOf r 51 12 * 4096)

/-- A cached entry that a cluster may use for an address: its TLB's or its die's (R402). -/
def TlbEntry.serves (e : TlbEntry) (cluster job va : Nat) : Bool :=
  e.job = job && e.va ≤ va && va < e.va + e.size && (e.cluster = some cluster || (e.cluster = none && e.die = clusterDie cluster))

/-- The leaf that a cluster holds for an address. -/
def State.heldLeaf (s : State) (cluster job va : Nat) : Option TlbEntry :=
  s.mem.tlb.find? fun e => eLeaf e.entry && e.serves cluster job va

/-- A walk for a cluster, from the narrowest held table entry or from the root (R401, R402). -/
def State.walkHeld (s : State) (cluster job va : Nat) : Option (List (Word × Nat × Nat)) :=
  let held (span : Nat) := s.mem.tlb.find? fun e => !eLeaf e.entry && e.size = span && e.serves cluster job va
  match held (2 ^ 24), held (2 ^ 36), held (2 ^ 48) with
  | some e, _, _ => s.walkFrom va 4 3 (ePa e.entry)
  | none, some e, _ => s.walkFrom va 4 2 (ePa e.entry)
  | none, none, some e => s.walkFrom va 4 1 (ePa e.entry)
  | none, none, none => s.walk job va

/-- The leaf an access uses: a held one, else what a walk yields (R400, R402). -/
def State.leaf (s : State) (cluster job va : Nat) : Option Word :=
  match s.heldLeaf cluster job va with
  | some e => some e.entry
  | none => (s.walkHeld cluster job va).bind fun es => es.head?.map (·.1)

/-! ## One access -/

/-- What an access needs of its leaf: its kind (R401), whether a write also needs read permission (R352), whether one that needs
write permission writes (R198, R408), whether it is a write of R403, whether it may reach device registers (R161) and whether
full/empty bits must exist (R188). -/
structure Need where
  kind : Access
  alsoRead : Bool := false
  writes : Bool := true
  blocks : Bool := false
  dev : Bool := false
  fe : Bool := false
deriving DecidableEq, Repr

def Need.read : Need := { kind := .read }
def Need.write : Need := { kind := .write, blocks := true }
def Need.both : Need := { kind := .write, alsoRead := true, blocks := true }
def Need.fetch : Need := { kind := .fetch }
/-- A map operation on its descriptor: readable by R317, and a write by R403. -/
def Need.map : Need := { kind := .write, alsoRead := true, blocks := true }
/-- LDF, LDFP, STF and FEMARK (R195, R401, R403). -/
def Need.fullEmpty (read : Bool) : Need := { kind := .write, alsoRead := read, blocks := true, fe := true }

def accessCause : Access → Cause
  | .read => .xlater | .write => .xlatew | .fetch => .xlatex

/-- What comes of taking an address: a location with the leaf used (none in scratch), a write-blocked page, or a fault. -/
inductive Place1 where
  | at_ (loc : Nat) (leaf : Option Word)
  | blocked
  | bad (t : TrapInfo)
deriving DecidableEq, Repr

def trapOf (c : Cause) (v : Word) : TrapInfo := ⟨c, v, 0⟩

/-- Permission of a leaf (R401, R408). -/
def leafAllows (e : Word) (n : Need) (priv : Bool) : Bool :=
  (match n.kind with
    | .read => eR e | .write => eW e && (!n.alsoRead || eR e) && (!n.writes || ePst e ≠ 1) | .fetch => eX e) && (eU e || priv)

/-- What R161 and R413 say of a physical address. -/
def State.physAllows (s : State) (pa : Nat) (n : Need) (priv : Bool) : Bool :=
  if isHbm pa then true
  else if isDev pa then n.dev && priv
  else if isPeer pa then
    (pa - Config.peerBase) % 2 ^ 42 < Config.hbmEnd && NSet.has s.fw.routes ((pa - Config.peerBase) / 2 ^ 42)
  else isHost pa && !n.fe

/-- Translates a virtual address for a job on a cluster (R401, R403). -/
def State.translate (s : State) (cluster job : Nat) (priv : Bool) (va : Word) (n : Need) (hostOnly : Bool) : Place1 :=
  if 2 ^ 57 ≤ va.toNat then .bad (trapOf (accessCause n.kind) va)
  else match s.leaf cluster job va.toNat with
    | none => .bad (trapOf (accessCause n.kind) va)
    | some e =>
      let pa := ePa e + va.toNat % pageSize (eSz e)
      if !leafAllows e n priv || !s.physAllows pa n priv || (hostOnly && !isHost pa) then .bad (trapOf .perm va)
      else if n.blocks && eWb e then .blocked
      else .at_ pa (some e)

/-- An address in the scratch window (R160). -/
def inWindow (va : Word) : Bool := Config.scratchBase ≤ va.toNat && va.toNat < Config.scratchBase + 0x40000

/-- Takes an address of a strand under a policy image (R160, R174). -/
def State.resolve (s : State) (x : SId) (va : Word) (q : Policy) (n : Need) : Place1 :=
  let priv := (s.strand x).regs.csr.status.priv
  match polSpace q with
  | 1 => .at_ (Config.scratchLoc x.core (va.toNat % 0x40000)) none
  | 2 => s.translate (clusterOf x.core) (s.jobOf x) priv va n true
  | _ => if inWindow va then .at_ (Config.scratchLoc x.core (va.toNat % 0x40000)) none
    else s.translate (clusterOf x.core) (s.jobOf x) priv va n false

/-- An access addresses the scratch window (R174). -/
def toScratch (va : Word) (q : Policy) : Bool := polSpace q = 1 || (polSpace q = 0 && inWindow va)

/-! ## Access counters (R410 to R412) -/

/-- Posts or drops a notification (R412); the poster's fill satisfies a waiter as an STF does (R188). -/
def State.notify (s : State) (job index va : Nat) : State :=
  let r := s.mem.devReg (hcBase + 0x20)
  let lg := bitsOf r 60 56
  let a := bitsOf r 51 0
  let drop (s : State) : State :=
    s.modMem fun m => m.setDev (hcBase + 0x28) (BitVec.ofNat 64 (((m.devReg (hcBase + 0x28)).toNat + 1) % 2 ^ 32))
  if lg = 0 then drop s
  else
    let tail := s.natAt a 8
    if (tail + 2 ^ 64 - s.natAt (a + 8) 8) % 2 ^ 64 < 2 ^ lg then
      let b := a + 64 + 16 * (tail % 2 ^ lg)
      let s := ((linesOf b 16).foldl State.homeWrite s).write b
        (leBytes 16 (job % 2 ^ 32 * 2 ^ 96 + index % 2 ^ 32 * 2 ^ 64 + va / 4096 % 2 ^ 45 * 4096))
      ((s.homeSet a 8 ((tail + 1) % 2 ^ 64)).setEmpty a false).serveWord a
    else drop s

/-- Counts n accesses, one atomic add each (R411). -/
def State.countAccess (s : State) (job : Nat) (va pa : Nat) : Nat → State
  | 0 => s
  | n + 1 =>
    let w := s.mem.devReg (hcBase + 8)
    let i := pa / 4096 - bitsOf w 51 12
    if bitOf w 63 && isHost pa && bitsOf w 51 12 ≤ pa / 4096 && i < bitsOf (s.mem.devReg (hcBase + 0x10)) 31 0 then
      let a := bitsOf (s.mem.devReg hcBase) 51 0 + 4 * i
      let old := s.natAt a 4
      let new := Nat.min (old + 1) (2 ^ 32 - 1)
      let s := s.homeSet a 4 new
      let s := if new ≠ old && new = bitsOf (s.mem.devReg (hcBase + 0x18)) 31 0 then s.notify job i va else s
      s.countAccess job va pa n
    else s

/-- Counts an access through a leaf where the leaf asks for it (R411). -/
def State.countLeaf (s : State) (job : Nat) (leaf : Option Word) (va pa n : Nat) : State :=
  match leaf with
  | some e => if eCnt e then s.countAccess job va pa n else s
  | none => s

/-- The leaf that a strand's access uses, and the physical address that it leads to, permitted or not. -/
def State.leafAt (s : State) (x : SId) (va : Nat) : Option (Word × Nat) :=
  (s.leaf (clusterOf x.core) (s.jobOf x) va).map fun e => (e, ePa e + va % pageSize (eSz e))

/-- Counts an access of a strand as it translates, whether or not it faults or waits then (R411, R419). -/
def State.countWalk (s : State) (x : SId) (va : Word) (q : Policy) : State :=
  if toScratch va q || 2 ^ 57 ≤ va.toNat then s
  else match s.leafAt x va.toNat with
    | some (e, pa) => s.countLeaf (s.jobOf x) (some e) va.toNat pa 1
    | none => s

/-! ## Write-blocked pages (R403, R419) -/

/-- A write waits for a TLBINV that covers its address (R403). -/
def Strand.blockedBy (st : Strand) (seq : Nat) : Bool := st.blocked.any fun b => b.seq = seq && !b.walk

/-- The accesses of an instruction that have been counted before it parked (R419). -/
def Strand.countedBy (st : Strand) (seq : Nat) : List Nat := (st.blocked.filter (·.seq = seq)).toList.flatMap (·.counted)

/-- An instruction's access counts as it translates, once for all its walks where it waits for its page (R411, R419). -/
def State.countOnce (s : State) (x : SId) (seq : Nat) (ea : Word) (q : Policy) : State :=
  if ((s.strand x).countedBy seq).contains ea.toNat then s else s.countWalk x ea q

/-- The instruction parks, or parks again, on a write-blocked page. -/
def State.blockOn (s : State) (x : SId) (seq va len : Nat) (counted : List Nat := []) : State :=
  s.modStrand x fun st => { st with blocked := some ⟨seq, va, len, false, counted ++ st.countedBy seq⟩ }

/-- A TLBINV that covers a range has completed: the writes of a strand that wait there walk again (R403). -/
def Strand.walkAgain (st : Strand) (base len : Nat) : Strand :=
  { st with blocked := st.blocked.map fun b => { b with walk := b.walk || (b.va < base + len && base < b.va + b.len) } }

end Sys2Proof.Machine
end

