-- ==== Sys2Proof/Machine/Ops.lean ====
section
/-! DEFINITION. The named operations of a strand: its place in the rotation and its domain (R121 to R126), fault points
(R131, R132), taking a trap and returning from one (R357 to R360, R392), parks (R127, R370), the group with its hints and
the decode checks (R101 to R107), and the issue of one instruction. -/

namespace Sys2Proof.Machine

/-! ## Slots and domains -/

/-- The first vc of a slot phase at or after v, in a rotation of n (R122). -/
def nextSlot (n phase v : Nat) : Nat := v + (phase + (n - v % n)) % n

def State.rotation (s : State) (x : SId) : Nat := (s.core x.core).part.strands

/-- The strands that share a virtual cycle counter with x (R122 to R124). -/
def State.domain (s : State) (x : SId) : List SId :=
  match (s.strand x).gang with
  | none => [x]
  | some g => match Tab.find? s.gangs g with
    | some v => v.members.filter fun y => (s.strand y).gang = some g
    | none => [x]

/-- The core cycle of a vc of a strand. -/
def Strand.ccOf (st : Strand) (v : Nat) : Nat := st.base + v
/-- The vc that a strand has reached at a core cycle; a held domain stays before the vc it is held at (R126), a stopped one at
its own (R369). -/
def Strand.vcAt (st : Strand) (cc : Nat) : Nat :=
  if st.run = .drained then st.drainT.getD 0
  else if st.held ≠ 0 && st.held ≤ cc - st.base then st.held - 1 else cc - st.base

/-- A full/empty operation that was found to wait and whose value has not arrived (R194). It is no late event (R124). -/
def Inflight.waits (e : Inflight) : Bool := match e.req with | some (_, .waiting) | some (_, .filled _ _) => true | _ => false

/-- A full/empty operation that is still held at its word (R188). -/
def Inflight.atWord (e : Inflight) : Bool := match e.req with | some (_, .waiting) => true | _ => false

/-- A strand that is parked until an answer comes, which is no late event; a wait on the SFU is one (R127). -/
def Strand.parkedFor (st : Strand) (seq : Nat) : Bool := st.park.any fun p => p.on = .home seq && p.reason ≠ .sfu

/-- A strand's region may be full by the time its accesses in flight are performed: its loads are then performed in their order, so
that a region which a 513th line ends holds every earlier access and no later one (R342). -/
def Strand.nearFull (st : Strand) : Bool := 512 < st.region.lines.length + st.inflight.length + 4

/-- An effect that later loads of the strand are not performed before (R340, R341, R348 to R350): any that ends a region or reads
memory at its registration; not a relaxed store, nor what leaves memory alone. -/
def Effect.orders : Effect → Bool
  | .store _ _ _ _ q | .stn _ _ _ _ q => isSync q
  | .mprec _ _ _ | .mwracc _ _ _ | .release _ _ | .csr _ _ _ | .ssend _ => false
  | _ => true

/-- A request that is performed only after every earlier access of its strand, and before every later one: all but relaxed loads
(R340, R341). A load of a device register waits for the strand's earlier stores as well (R133, R161). -/
def Inflight.ordered (e : Inflight) : Bool :=
  match e.req with
  | some (.load _ l _ _ q, _) => isSync q || isDev l
  | some (.sfu _ _ _ _ _ _, _) | none => false
  | some _ => true

/-- A request to a home that has still to be performed. -/
def Inflight.isSent (e : Inflight) : Bool :=
  match e.req with | some (.sfu _ _ _ _ _ _, _) => false | some (_, .sent _) => true | _ => false

/-- The strand's own store or message is outstanding in class 0 (R177, R225). -/
def Strand.zeroOut (st : Strand) : Bool := st.msgOut || st.storeBuf.any (·.zero)

/-- A request of the strand that is performed in order with every other access of it. -/
def Strand.ordered (st : Strand) (e : Inflight) : Bool :=
  e.ordered || (st.nearFull && (match e.req with | some (.load _ _ _ _ _, _) => true | _ => false))

/-- A deferred effect that must be performed before an instruction's access; `sync` says whether the access is ordered behind relaxed
stores too (R340, R348). -/
def Deferred.holds (d : Deferred) (seq : Nat) (sync : Bool) : Bool := d.seq < seq && (sync || d.eff.orders)

/-- Operations of the strand before instruction seq that order its access have still to be performed (R340, R348): deferred effects,
full/empty operations that wait at their word, and requests at homes. -/
def Strand.orderWaits (st : Strand) (seq : Nat) (sync : Bool) : Bool :=
  (st.deferred.any fun d => d.holds seq sync) ||
    st.inflight.any fun f => f.seq < seq && (f.atWord || (f.isSent && (sync || st.ordered f)))

/-- Operations that order a request have still to be performed. -/
def Strand.heldBack (st : Strand) (e : Inflight) : Bool := st.orderWaits e.seq (st.ordered e)

/-- The strand's next access, ordered behind relaxed stores or not, is not performed yet (R42, R348; notes/assumptions/12.md). -/
def Strand.nextWaits (st : Strand) (sync : Bool) : Bool := st.orderWaits st.seq (sync || st.nearFull)

/-- The latest fault point that a request waits for (R131, R133): an atomic or a map operation for that of every earlier instruction,
a load for those before the last deferred effect that it, or an earlier request of the strand, is performed after. -/
def Strand.orderVc (st : Strand) (e : Inflight) : Nat :=
  let last : Nat := match e.req with
    | some (_, .unsent) => e.seq
    | _ => ((st.deferred.filter fun d =>
        d.holds e.seq (st.ordered e) || st.inflight.any fun g => g.isSent && d.holds g.seq (st.ordered g)).map (·.seq)).foldl Nat.max 0
  ((st.inflight.filter fun f => f.seq < last).map (·.faultVc)).foldl Nat.max 0

/-- An answer that the instruction still waits for (R124). -/
def Inflight.awaited (e : Inflight) : Bool := match e.req with | some (_, .sent _) | some (_, .unsent) | some (_, .served _ _) => true | _ => false

/-- The vcs of a strand's requests whose answers are awaited (R124). -/
def Strand.requestsAt (st : Strand) : List Nat := (st.inflight.filter fun e => e.awaited && !st.parkedFor e.seq).map (·.faultVc)

/-- The vcs of a strand that wait for an item (R124, R190, R282, R434). -/
def Strand.absentAt (st : Strand) : List Nat :=
  st.requestsAt ++ (st.lates.filter fun l => l.known = 0 && !l.here).map (·.vc)

/-- The vcs at which a strand's late events hold its domain: those that wait for an item, and those whose hold is owed (R124, R434). -/
def Strand.awaitedAt (st : Strand) : List Nat :=
  st.requestsAt ++ (st.lates.filter fun l => l.known = 0 && (!l.here || l.owed)).map (·.vc)

def listMin : List Nat → Option Nat
  | [] => none
  | a :: as => match listMin as with | some m => some (Nat.min a m) | none => some a

/-- The earliest vc of the domain at which a late event holds it. -/
def State.lateAt (s : State) (x : SId) : Option Nat := listMin ((s.domain x).flatMap fun y => (s.strand y).awaitedAt)

/-- The earliest vc of the domain whose awaited item is not present. -/
def State.absentAt (s : State) (x : SId) : Option Nat := listMin ((s.domain x).flatMap fun y => (s.strand y).absentAt)

/-- W of R125. -/
def State.notice (s : State) (x : SId) : Nat := if (s.strand x).gang.isSome then 24 else 0

/-- A vc that the domain may not enter yet. -/
def State.barred (s : State) (x : SId) (v : Nat) : Bool :=
  (match s.lateAt x with | some t => t ≤ v | none => false) || ((s.strand x).held ≠ 0 && (s.strand x).held ≤ v)

/-- The first multiple of n at or after v. -/
def roundUp (n v : Nat) : Nat := (v + n - 1) / n * n

/-- The stop vc of a gang after a hold at vc h has ended (R368): a vc may now begin at or after the core cycle that the signal
named. -/
def Strand.restop (st : Strand) (n h : Nat) : Option Nat :=
  st.drainT.map fun t => if st.gang.isNone || st.drainCc = 0 then t else Nat.min t (roundUp n (Nat.max h (st.drainCc - st.base)))

/-- Words that some strands have pushed, and that enter their queues at core cycle e or later, enter p core cycles later (R250). -/
def State.delayWords (s : State) (ys : List SId) (e p : Nat) : State :=
  let move (w : Nat × SId × VWord) : Nat × SId × VWord := if ys.contains w.2.1 && e ≤ w.1 then (w.1 + p, w.2) else w
  { s with cores := s.cores.map fun (c, k) => (c, { k with linkTransit := k.linkTransit.map fun (i, es) => (i, es.map move) }) }

/-- Holds a domain for p core cycles (R126): the core cycles of the vcs still to come move by p. -/
def State.pauseDomain (s : State) (x : SId) (p : Nat) : State :=
  let ys := s.domain x
  let s := s.delayWords ys ((s.strand x).ccOf (s.strand x).held) p
  let n := s.rotation x
  (ys.foldl (fun t y => t.modStrand y fun st =>
    let h := st.held
    let st := { st with base := st.base + p, vpause := st.vpause + p, held := 0,
                        lates := st.lates.filter fun l => !(l.known = 0 && l.here && l.vc ≤ h) }
    { st with drainT := st.restop n h }) s).gangMark x

/-! ## Late events beside requests (R124, R434) -/

/-- A late event becomes known: the domain does not enter vc t before its item is present. One that is known only after its test
cycle falls no earlier than the vc after the one that the domain is in W core cycles on (R434). -/
def State.noteLate (s : State) (x : SId) (item : LateItem) (t : Nat) : State :=
  let st := s.strand x
  let cc := s.clock.cc
  let w := s.notice x
  let l : LateEvent :=
    if cc + w ≤ st.ccOf t then ⟨item, t, 0, false, false⟩
    else if w = 0 then ⟨item, Nat.max t (st.vcAt cc + 1), 0, true, false⟩
    else ⟨item, t, cc + w, true, false⟩
  s.modStrand x fun st => { st with lates := st.lates ++ [l] }

/-- Items of late events have come: what was not owed a hold is no late event any more. -/
def Strand.itemsHere (st : Strand) (f : LateItem → Bool) : Strand :=
  { st with lates := (st.lates.filter fun l => !(f l.item && !l.owed)).map fun l => if f l.item then { l with here := true } else l }

/-- The oldest store that the buffer could not accept has its place. -/
def Strand.storeHere (st : Strand) : Strand :=
  match st.lates.find? fun l => l.item = .store && !l.here with
  | some l => { st with lates := if l.owed then (st.lates.erase l) ++ [{ l with here := true }] else st.lates.erase l }
  | none => st

/-- The core cycle from which the vc of a late event is fixed has come (R434). -/
def Strand.fixLates (st : Strand) (cc : Nat) : Strand :=
  let v := st.vcAt cc + 1
  { st with lates := st.lates.map fun l =>
      if l.known ≠ 0 && l.known ≤ cc then { l with vc := Nat.max l.vc v, known := 0 } else l }

/-! ## Changes that no fault undoes -/

/-- Sets MPX as a step of a macro or the effect of a command does (R364, R367). -/
def State.setMpx (s : State) (x : SId) (v : Word) : State :=
  s.modStrand x fun st => st.modCsrNow fun c => { c with mpx := v }

/-- Makes writes of instruction seq pending, in the strand and in the snapshots of later instructions. -/
def Strand.land (st : Strand) (t seq : Nat) (ds : List Dest) : Strand :=
  let st := st.addWrites t seq ds
  { st with inflight := st.inflight.map fun e =>
      if seq < e.seq then { e with savedPending := ds.foldl (fun ps d => addPending ps ⟨t, seq, d⟩) e.savedPending } else e }

/-! ## Traps -/

/-- Causes marked "task" (R356). -/
def Cause.isTask : Cause → Bool
  | .memrace | .schedule | .timing | .gangstall | .mapdesc => true
  | _ => false

/-- Delivery to the task-level handler (R357). -/
def taskLevel (c : Csrs) (j : Job) (cause : Cause) : Bool :=
  cause.isTask && !c.status.priv && !c.status.inh && bitOf j.tmask cause.code && j.tvec ≠ 0

/-- A trap taken in this state halts the strand (R360). -/
def Status.nested (t : Status) : Bool := t.inh && t.priv

/-- The trap registers and STATUS after entry (R358). -/
def Csrs.enter (c : Csrs) (t : TrapInfo) (resume : Word) (element : Option Word) (super : Bool) : Csrs :=
  { c with
    status := { c.status with ampx := element.isSome, nest := c.status.inh, ppriv := c.status.priv, priv := super, inh := true },
    cause := BitVec.ofNat 8 t.cause.code, eval := t.eval, eother := t.other, epc := resume, empx := element.getD c.mpx }

/-- Every earlier instruction has passed its fault point and every earlier effect has been performed (R133). -/
def State.clear (s : State) (x : SId) : Bool := (s.strand x).inflight.isEmpty && (s.strand x).deferred.isEmpty

/-- The region ends behind the strand's earlier accesses (R341): now, or as the effect of instruction seq once they have been
performed. -/
def State.breakAt (s : State) (x : SId) (seq : Nat) : State :=
  if s.clear x then s.endRegion x
  else s.modStrand x fun st => { st with deferred := st.deferred ++ [⟨seq, st.vcAt s.clock.cc, st.gpc, .regionEnd, none⟩] }

/-- The region ends between two instructions (R341). -/
def State.breakRegion (s : State) (x : SId) : State :=
  if s.clear x then s.endRegion x
  else (s.breakAt x (s.strand x).seq).modStrand x fun st => { st with seq := st.seq + 1 }

/-- Core cycles in a serialising wait are no cycles of a park (R395, R435). -/
def Park.counted (p : Park) (cc : Nat) : Nat := if p.reason = .serial then 0 else cc - p.since

/-- Core cycles that have been spent parked up to now and are not counted yet: those of the park, and those of a park beneath a wait
that is none (R194, R395, R432). -/
def Strand.parkCount (st : Strand) (cc : Nat) : Nat := (st.park.map (·.counted cc)).getD 0 + (st.under.map (cc - ·)).getD 0

/-- The park beneath a wait ends: its core cycles are counted. -/
def Strand.surface (st : Strand) (cc : Nat) : Strand :=
  { st with parkedCc := st.parkedCc + (st.under.map (cc - ·)).getD 0, under := none }

/-- A nested supervisor trap halts the strand and kills its job (R360). Writes of earlier instructions still land (R130). -/
def State.halt (s : State) (x : SId) (cause : Cause) : State :=
  let s := s.endRegion x
  let cc := s.clock.cc
  let s := s.modStrand x fun st =>
    { st with run := .halted, dbgCode := BitVec.ofNat 8 cause.code, group := [], inflight := [], deferred := [],
              parkedCc := st.parkedCc + st.parkCount cc, park := none, under := none, late := [], tookLate := [], held := 0, lates := [],
              stopAsked := false, brkAt := none, dying := false, stepping := false }
  (s.killJob (s.jobOf x)).post 0 (.domainStop x)

/-- A supervisor handler that begins before its domain's stop vc is not stopped: the stop vc falls after its ERET (R373). -/
def State.handlerFirst (s : State) (x : SId) : State :=
  let st := s.strand x
  match st.drainT with
  | some t =>
    if st.run = .running && st.vcAt s.clock.cc < t then
      (s.domain x).foldl (fun u y => u.modStrand y fun st =>
        if st.run = .running then { st with drainT := none, drainCc := s.clock.cc } else st) s
    else s
  | none => s

/-- Taking a trap at a group boundary (R358): the region ends, the trap registers are set and the strand goes on at the
handler. Earlier instructions stay in flight, and their effects are still to be performed. -/
def State.enter (s : State) (x : SId) (t : TrapInfo) (resume : Word) (element : Option Word) : State :=
  let s := s.breakRegion x
  let sv := s.svecOf x.core
  let cc := s.clock.cc
  let c := (s.strand x).regs.csr
  if c.status.nested then s.halt x t.cause
  else
    let j := s.job (s.jobOf x)
    let task := taskLevel c j t.cause
    let s := s.modStrand x fun st =>
      { st with
        regs := { st.regs with csr := c.enter t resume element (!task) }, pc := if task then j.tvec else sv,
        group := [], parkedCc := st.parkedCc + st.parkCount cc, park := none, under := none, traps := st.traps + 1,
        stopAsked := st.stopAsked || st.stepping }
    if task then s else s.handlerFirst x

/-- The return from a handler (R392). -/
def Csrs.leave (c : Csrs) : Csrs :=
  { c with mpx := if c.status.ampx then c.mpx else c.empx,
           status := { c.status with ampx := false, priv := c.status.ppriv, inh := c.status.nest, nest := false } }

/-- ERET performed; a pre-emption of the strand's job that waited for it goes on (R373). -/
def State.leave (s : State) (x : SId) : State :=
  let t := s.modStrand x fun st => { st.modCsrNow Csrs.leave with pc := st.regs.csr.epc, group := [] }
  if (s.job (s.jobOf x)).run = JobRun.stopping then t.post 0 (.quiesceSignalArrival x) else t

/-- Drops what a strand has waiting at homes or in stages, when its instructions from seq on are undone. -/
def State.dropWaits (s : State) (x : SId) (seq : Nat) : State :=
  s.modMem fun m => { m with waiters := m.waiters.filter fun w => !(w.sid = x && seq ≤ w.seq) }

/-- The strand as it was before the group of an instruction (R132): later writes undone, later instructions dropped, faults that came
to be taken later to be taken again, and a stop that a later BRK asked for no longer asked. V of HDLY still counts from the last
instruction that issued, undone or not: R104 says only 'the issue vc of the strand's previous instruction' (notes/assumptions/59.md). -/
def Strand.restore (st : Strand) (e : Inflight) (v : Nat) : Strand :=
  let (r, ps) := landAll e.savedPending v e.saved
  let brk : Bool := st.brkAt.any (e.seq ≤ ·)
  { st with regs := r, pending := ps, inflight := st.inflight.filter (·.seq < e.seq),
            deferred := st.deferred.filter (·.seq < e.seq), starts := st.starts.filter (·.2.2 < e.seq), group := [], pc := e.gpc,
            late := (st.tookLate.filter (e.seq < ·.1)).map (·.2) ++ st.late, tookLate := st.tookLate.filter (·.1 ≤ e.seq),
            stopAsked := st.stopAsked && !brk, brkAt := if brk then none else st.brkAt, dbgCode := if brk then 0 else st.dbgCode }

/-- Raises the fault of an instruction at its fault point (R131, R132). -/
def State.raise (s : State) (x : SId) (e : Inflight) (t : TrapInfo) (v : Nat) : State :=
  let s := (s.dropWaits x e.seq).modStrand x fun st => { st.restore e v with slot := Nat.max st.slot v }
  s.enter x t e.gpc none

/-! ## Parks -/

/-- The park of an effect that was tried and must wait (R432). -/
def Deferred.park (e : Deferred) (cc : Nat) : Option Park := e.stuck.map fun r => ⟨r, .effect, e.gpc, e.seq, e.issue, cc⟩

/-- The park ends, and its core cycles are counted (R395). Where an effect of another instruction must wait, the strand is parked
for that one (R432). -/
def Strand.unpark (st : Strand) (cc : Nat) : Strand :=
  match st.park with
  | some p =>
    { st with park := (st.deferred.filter (·.seq ≠ p.seq)).findSome? (·.park cc), under := none, parkedCc := st.parkedCc + st.parkCount cc }
  | none => st

/-- The strand waits on for another reason: core cycles of a park are counted up to now (R395). -/
def Strand.turnPark (st : Strand) (reason : ParkReason) (on : ParkOn) (cc : Nat) : Strand :=
  match st.park with
  | some p =>
    { st with park := some { p with reason := reason, on := on, since := if p.reason = reason then p.since else cc },
              under := if p.reason = reason then st.under else none, parkedCc := st.parkedCc + (if p.reason = reason then 0 else st.parkCount cc) }
  | none => st

/-- The earliest landing vc of a later request whose answer the domain waits for. -/
def Strand.awaitedAfter (st : Strand) (seq : Nat) : Option Nat :=
  listMin ((st.inflight.filter fun e => seq < e.seq && e.awaited).map (·.faultVc))

/-- The fault point of an instruction that has waited is the vc at which it resumes (R131); one that a later instruction's result
waits for lies before that result's landing vc, which does not move (R432; notes/assumptions/52.md). -/
def Strand.faultBefore (st : Strand) (seq v : Nat) : Nat := match st.awaitedAfter seq with | some t => Nat.min v (t - 1) | none => v

/-- Sets the fault point of an instruction that goes on from its wait. -/
def Strand.faultFrom (st : Strand) (seq v : Nat) : Strand :=
  let u := st.faultBefore seq v
  { st with inflight := st.inflight.map fun e => if e.seq = seq then { e with faultVc := Nat.max e.faultVc u } else e }

/-- The first slot after the present core cycle (R127). -/
def State.resumeSlot (s : State) (x : SId) : Nat :=
  let st := s.strand x
  nextSlot (s.rotation x) st.phase (Nat.max st.slot (st.vcAt s.clock.cc + (if st.base ≤ s.clock.cc then 1 else 0)))

/-- The slot at which a park's result lands: for a Woad wait the first at or after now (R332), for others the first after
it (R127). -/
def State.parkSlot (s : State) (x : SId) (reason : ParkReason) : Nat :=
  let st := s.strand x
  if reason = .woad then nextSlot (s.rotation x) st.phase (Nat.max st.slot (st.vcAt s.clock.cc)) else s.resumeSlot x

/-- A park that stands at its instruction, which will issue again. -/
def ParkOn.reissues : ParkOn → Bool
  | .again | .link _ _ | .bank _ _ | .order _ => true
  | _ => false

/-- The strand's pending bit for a channel (R331). -/
def State.woadPending (s : State) (x : SId) (phys : Nat) : Bool :=
  let c := s.channel phys
  (c.open_ ++ c.closed.flatMap (·.2)).any (·.sid = x)

/-- A park that a trap at the parked instruction abandons (R141, R336) and, with `stop`, that a pre-emption abandons
(R370, R435); a group that has begun is carried through first (R103). -/
def State.abandons (s : State) (x : SId) (p : Park) (stop : Bool) : Bool :=
  match p.on with
  | .ready _ _ _ | .fence _ | .mapnew _ _ _ | .tlbinv _ _ _ _ => false
  | .quiesce _ | .migrate _ _ => !stop
  | .arrival phys _ _ _ _ => p.reason = .woad && (stop || s.woadPending x phys)
  | .effect => p.reason ≠ .serial && (s.strand x).group = []
  | .home seq => match (s.strand x).inflight.find? (·.seq = seq) with
    | some e => match e.req with
      | some (.fe .stf _ loc _ _ _, .waiting) => !stop || isScratchLoc loc
      | some (_, .waiting) | some (.sfu _ _ _ _ _ _, _) => true
      | _ => false
    | none => true
  | _ => true

/-- A full/empty operation that has come due and waits, as the park that it is, whatever else its strand waits for (R194). -/
def State.waitDue (s : State) (x : SId) : Option Park :=
  let st := s.strand x
  (st.inflight.find? fun e => e.atWord && e.faultVc ≤ st.vcAt s.clock.cc).map fun e =>
    ⟨.fullEmpty, .home e.seq, e.gpc, e.seq, e.faultVc, s.clock.cc⟩

/-- The strand parks at a word that is found to wait once that has come due: it is not parked, or stands at a later instruction that
waits for the word (R194). -/
def Strand.waitParks (st : Strand) : Bool := st.park.all fun p => match p.on with | .order _ => true | _ => false

/-- Marks a park's condition as having held: its writes land at the resumption slot (R127). -/
def State.makeReady (s : State) (x : SId) (lat : Nat) (ws : List Dest) (t : Option TrapInfo) : State :=
  (s.modStrand x fun st => { st with park := st.park.map fun p => { p with on := .ready lat ws t } }).post 0 (.parkResume x)

/-- What a strand waits for: its park, and the effect at the head of its deferred effects that must wait (R432). -/
def Strand.parks (st : Strand) : List Park :=
  st.park.toList ++ (st.deferred.take 1).filterMap (·.park 0)

/-- Asks every waiting strand one of whose parks satisfies f to look at its condition again. -/
def State.wake (s : State) (f : SId → Park → Bool) : State :=
  s.allStrands.foldl (fun t x => if (s.strand x).parks.any (f x) then t.post 0 (.parkResume x) else t) s

/-- Wakes the strands of a core that wait to issue again or to perform an effect. -/
def State.wakeCore (s : State) (core : Nat) : State :=
  s.wake fun x p => x.core = core && (p.on.reissues || p.on = .effect)

/-- A strand gives up its places in the orders of stream targets and in its core's mailbox (R202, R263). -/
def State.dropClaims (s : State) (x : SId) : State :=
  let s : State :=
    { s with cores := s.cores.map fun (c, k) => (c, { k with routeWait := k.routeWait.filter fun y => y ≠ x }) }
  if (s.core x.core).claims.any (·.1 = x) then
    (s.modCore x.core fun k => { k with claims := k.claims.filter fun e => e.1 ≠ x }).wakeCore x.core
  else s

/-- A GATH or SCAT that is given up registers no more rows; those that it has registered run on (R222). -/
def State.endRows (s : State) (x : SId) : State :=
  let mine (o : CopyOp) : Bool := o.owner = x && o.open_
  let ids := ((s.core x.core).ops.filter mine).map (·.id)
  if ids = [] then s
  else
    let s := s.modCore x.core fun k => { k with ops := k.ops.map fun o => if mine o then { o with open_ := false } else o }
    (ids.foldl (fun t i => t.post 0 (.byteLanding x.core i 0)) s).post 0 (.copyStart x.core)

/-- Abandons the park: the strand stands before the parked group, which will execute again (R141, R359, R370). A wait on
an arrival already sent leaves WDONE set. -/
def State.abandon (s : State) (x : SId) (p : Park) : State :=
  let cc := s.clock.cc
  let sent := match p.on with | .woad _ _ sent _ => sent | _ => false
  (((s.dropWaits x p.seq).dropClaims x).endRows x).modStrand x fun st =>
    let st := st.unpark cc
    let st := match st.inflight.find? (·.seq = p.seq) with
      | some e => st.restore e (st.vcAt cc)
      | none => { st with group := [], pc := p.gpc }
    let st := { st with resumed := false }
    if sent then st.modCsrNow fun c => { c with status := { c.status with wdone := true } } else st

/-! ## Landing and fault points -/

/-- An instruction that passes its fault point at vc v (R131). -/
def Strand.passes (st : Strand) (v : Nat) (e : Inflight) : Bool :=
  e.faultVc ≤ v && e.trap.isNone && !(st.deferred.any (·.seq = e.seq)) && !(st.park.any (fun p => p.seq = e.seq && !p.on.reissues)) &&
    (match e.req with | none | some (_, .answered _) => true | _ => false)

/-- Writes land and fault points pass, up to vc v (R128, R131). -/
def Strand.settle (st : Strand) (v : Nat) : Strand :=
  let left := st.inflight.filter fun e => !st.passes v e
  { (st.landTo v) with inflight := left, tookLate := st.tookLate.filter fun l => left.any (·.seq < l.1) }

/-- The fault that the strand raises at vc v: that of its oldest instruction in flight, once known and due. -/
def Strand.dueTrap (st : Strand) (v : Nat) : Option (Inflight × TrapInfo) :=
  match st.inflight with
  | e :: _ => match e.trap with
    | some t => if e.faultVc ≤ v && !(match e.req with | some (_, .sent _) | some (_, .served _ _) => true | _ => false)
        then some (e, t) else none
    | none => none
  | [] => none

/-- The late traps that are not put off: PREEMPT is taken at task privilege only (R376). -/
def Strand.lateNow (st : Strand) : List LateTrap :=
  st.late.filter fun l => !(l.info.cause = .preempt && st.regs.csr.status.priv)



/-- A late trap that the strand can take now: at a group boundary (R141), PREEMPT at a stop point (R134, R376;
notes/assumptions/16.md). One that halts the strand is taken once the earlier instructions have passed their fault points and their
effects have been performed (R130, R133, R360). -/
def State.dueLate (s : State) (x : SId) : Option LateTrap :=
  let st := s.strand x
  match st.lateNow with
  | [] => none
  | l :: _ =>
    let stop := l.info.cause ≠ .preempt && !st.regs.csr.status.nested
    match st.park with
    | none => if st.group = [] && (stop || s.clear x) then some l else none
    | some p =>
      if s.abandons x p false && (stop || st.inflight.all (fun e => p.seq ≤ e.seq)) then some l else none

/-- Takes a late trap (R141, R359, R376): a parked strand abandons its park first. The fault of an earlier instruction in flight
would undo its entry (R132). -/
def State.takeLate (s : State) (x : SId) (l : LateTrap) : State :=
  let s := match (s.strand x).park with | some p => s.abandon x p | none => s
  let cc := s.clock.cc
  let s := s.modStrand x fun st =>
    { st with late := st.late.erase l, slot := Nat.max st.slot (st.vcAt cc),
              tookLate := if st.inflight = [] then st.tookLate else st.tookLate ++ [(st.seq, l)] }
  s.enter x l.info (s.strand x).pc l.element

/-! ## Hints (R101 to R106) -/

/-- What the instruction of a group accepts by R104: how many HIMM, and which kinds. `rnd` is some true where SR is
accepted. -/
structure Attach where
  imm : Nat := 0
  start : Bool := false
  seq : Bool := false
  pol : Bool := false
  scope : Bool := false
  rnd : Option Bool := none
deriving DecidableEq, Repr

/-- The hints of a group: the last of each kind applies (R102). -/
structure Hints where
  imms : List Nat := []
  dly : Nat := 0
  xd : Bool := false
  xa : Bool := false
  xb : Bool := false
  start : Option Nat := none
  seq : Option (BitVec 16) := none
  pol : Option Nat := none
  scope : Option Nat := none
  rnd : Option Nat := none
deriving DecidableEq, Repr

def hintKind (w : IWord) : Nat := bitsOf w 25 22
def hintPayload (w : IWord) : Nat := bitsOf w 21 0

def Hints.add (h : Hints) (w : IWord) : Hints :=
  let p := hintPayload w
  match hintKind w with
  | 0 => { h with imms := h.imms ++ [p] }
  | 1 => { h with dly := p % 2 ^ 16 }
  | 2 => { h with xd := bitOf w 2, xa := bitOf w 1, xb := bitOf w 0 }
  | 3 => { h with start := some p }
  | 4 => { h with seq := some (BitVec.ofNat 16 p) }
  | 5 => { h with pol := some p }
  | 6 => { h with scope := some p }
  | 7 => { h with rnd := some p }
  | _ => h

def readHints (ws : List IWord) : Hints := ws.foldl Hints.add {}

/-- A register field of an instruction: its place (0 d, 1 a, 2 b), whether it names a vector register, and its number. -/
structure Use where
  slot : Nat
  vec : Bool
  num : Nat
deriving DecidableEq, Repr

def gD {n : Nat} (f : BitVec n) : Use := ⟨0, false, f.toNat⟩
def gA {n : Nat} (f : BitVec n) : Use := ⟨1, false, f.toNat⟩
def gB {n : Nat} (f : BitVec n) : Use := ⟨2, false, f.toNat⟩
/-- A field that names an even register and the next (R111, R116). -/
def gPair (f : EField) : Use := ⟨0, false, 2 * f.toNat⟩
def vD (f : RField) : Use := ⟨0, true, f.toNat⟩
def vA (f : RField) : Use := ⟨1, true, f.toNat⟩
def vB (f : RField) : Use := ⟨2, true, f.toNat⟩

/-- A hint that breaks R106 for its instruction; k counts the HIMM before it. -/
def hintBad (att : Attach) (us : List Use) (k : Nat) (w : IWord) : Bool :=
  let p := hintPayload w
  let gen (i : Nat) : Bool := us.any fun u => u.slot = i && !u.vec
  match hintKind w with
  | 0 => att.imm ≤ k
  | 1 => 2 ^ 16 ≤ p
  | 2 => 8 ≤ p || !(gen 0 || gen 1 || gen 2) || (bitOf w 2 && !gen 0) || (bitOf w 1 && !gen 1) || (bitOf w 0 && !gen 2)
  | 3 => !att.start
  | 4 => !att.seq || 2 ^ 16 ≤ p
  | 5 => !att.pol || 2 ^ 13 ≤ p
  | 6 => !att.scope || 6 ≤ p
  | 7 => match att.rnd with | none => true | some sr => 4 < p || (p = 4 && !sr)
  | _ => true

/-- The first hint that does not attach, with the count of HIMM so far: of too many HIMM it is the first one beyond the limit,
not the first of the group (R106 says neither; notes/assumptions/58.md). -/
def firstBadHint (att : Attach) (us : List Use) : Nat → List IWord → Option IWord
  | _, [] => none
  | k, w :: ws => if hintBad att us k w then some w else firstBadHint att us (if hintKind w = 0 then k + 1 else k) ws

/-- Check 5 of R107: reserved kinds first, then the hints in order. -/
def badHint (att : Attach) (us : List Use) (ws : List IWord) : Option IWord :=
  match ws.find? fun w => 8 ≤ hintKind w with
  | some w => some w
  | none => firstBadHint att us 0 ws

/-- A general field's number after HXREG (R104). -/
def Hints.x (h : Hints) (u : Use) : Nat :=
  if u.vec then u.num
  else u.num + (if (u.slot = 0 && h.xd) || (u.slot = 1 && h.xa) || (u.slot = 2 && h.xb) then 64 else 0)

/-- Check 6 of R107: the first field, in the order d, a, b, that names a register beyond the partition (R77, R100). -/
def beyondPartition (part : Part) (h : Hints) (us : List Use) : Option Word :=
  us.findSome? fun u =>
    let n := h.x u
    if u.vec then (if part.vregs ≤ n && n < 60 then some (BitVec.ofNat 64 (256 + n)) else none)
    else if part.gregs ≤ n then some (BitVec.ofNat 64 n) else none

/-- An immediate field of w bits extended by the HIMM of its group (R105). -/
def Hints.extend (h : Hints) (w : Nat) (field : Nat) : Word :=
  let v := h.imms.foldl (fun a p => a * 2 ^ 22 + p) 0 * 2 ^ w + field
  let n := w + 22 * h.imms.length
  BitVec.ofInt 64 (if v < 2 ^ (n - 1) then (v : Int) else (v : Int) - (2 ^ n : Nat))

/-- The policy image after HPOL and HSCOPE (R104): where a group holds both, bits 15:12 are those of HSCOPE, whatever their order
(notes/assumptions/58.md). -/
def Hints.policy (h : Hints) (q : Policy) : Policy :=
  let q := match h.pol with | some p => putBits q 15 3 p | none => q
  match h.scope with | some c => putBits q 15 12 c | none => q

/-! ## Issue -/

/-- A group that issued its instruction at or after the stop vc is carried through: its strand's stop vc falls after it (R368). The
other strands of a gang issue no new group from theirs on. -/
def State.carryDrain (s : State) (x : SId) (v : Nat) : State :=
  let st := s.strand x
  match st.drainT with
  | some t =>
    if v < t || st.run ≠ .running then s
    else
      let n := s.rotation x
      let u := if st.gang.isSome then roundUp n (v + 1) else nextSlot n st.phase (v + 1)
      s.modStrand x fun st => { st with drainT := some u }
  | none => s

/-- A domain that drains, or that a kill has reached, may have come to its stop (R134). -/
def State.lookDrain (s : State) (x : SId) : State :=
  if (s.strand x).drainT.isSome || (s.strand x).dying then s.postOnce 0 (.domainStop x) else s

/-- What an instruction's entry is given: its strand, its issue number and vc, its address and its group's, its hints, and
the registers and pending writes as they stand at issue. -/
structure Ctx where
  sid : SId
  seq : Nat
  vc : Nat
  pc : Word
  gpc : Word
  h : Hints
  regs : Regs
  pending : List Pending
deriving DecidableEq, Repr

def Ctx.g (c : Ctx) (u : Use) : Word := c.regs.readG (c.h.x u)
def Ctx.v (c : Ctx) (f : RField) : VWord := c.regs.readV f.toNat
def Ctx.p (c : Ctx) (f : PField) : PWord := c.regs.readP f.toNat
def Ctx.q (c : Ctx) (f : QField) : Policy := c.h.policy (c.regs.readQ f.toNat)
def Ctx.next (c : Ctx) : Word := c.pc + 4

/-- How an instruction's entry ends at issue: it goes on at an address; it faults, with or without progress that stays
(R120), or traps with EPC behind itself (R391); it ends the task or the strand's run; it goes on no earlier than a vc; it issues in
a later slot, no earlier than a vc; it stays at the instruction until it can
issue again, with what it has done so far or without; or it has issued and parks. -/
inductive Act where
  | go (s : State) (next : Word)
  | fault (t : TrapInfo)
  | faultIn (s : State) (t : TrapInfo)
  | trapNext (t : TrapInfo)
  | over (s : State)
  | skip (s : State) (next : Word) (vc : Nat)
  | later (vc : Nat)
  | again (reason : ParkReason) (on : ParkOn)
  | stay (s : State) (reason : ParkReason) (on : ParkOn)
  | wait (s : State) (reason : ParkReason) (on : ParkOn)

/-- An instruction in flight with its fault point (R131). -/
def Ctx.flight (c : Ctx) (faultVc : Nat) (req : Option (Request × Stage)) (trap : Option TrapInfo) : Inflight :=
  { seq := c.seq, faultVc := faultVc, gpc := c.gpc, req := req, trap := trap, bank := none, saved := c.regs, savedPending := c.pending }

def State.addFlight (s : State) (c : Ctx) (e : Inflight) : State :=
  s.modStrand c.sid fun st => { st with inflight := st.inflight ++ [e] }

/-- Register results of latency lat (R128, R135). -/
def State.results (s : State) (c : Ctx) (lat : Nat) (ds : List Dest) : State :=
  s.modStrand c.sid fun st => st.addWrites (c.vc + lat) c.seq ds

/-- After an instruction: the group is done, the strand goes on at `next` in its next slot. -/
def State.advance (s : State) (c : Ctx) (next : Word) : State :=
  s.modStrand c.sid fun st =>
    { st with pc := next, group := [], lastV := c.vc, slot := c.vc + 1, issued := st.issued + 1, seq := c.seq + 1, resumed := false,
              stopAsked := st.stopAsked || st.stepping }

/-- Parks the strand. -/
def State.park (s : State) (c : Ctx) (reason : ParkReason) (on : ParkOn) : State :=
  (s.modStrand c.sid fun st => { st with park := some ⟨reason, on, c.gpc, c.seq, c.vc, s.clock.cc⟩ }).gangMark c.sid

/-- A fault known at issue is taken at once where every earlier fault point has passed, else once they have (R131). V of HDLY counts
from it, also where it is that of a word which checks 1 to 5 of R107 end (R104; notes/assumptions/62.md). -/
def State.faultAt (s : State) (c : Ctx) (t : TrapInfo) : State :=
  let n := s.rotation c.sid
  let s := s.modStrand c.sid fun st =>
    { st with slot := c.vc + n, lastV := c.vc, seq := c.seq + 1, issued := st.issued + 1,
              starts := st.starts.filter (·.2.2 ≠ c.seq) }
  if (s.strand c.sid).inflight = [] then
    (s.modStrand c.sid fun st => { st with group := [], pc := c.gpc }).enter c.sid t c.gpc none
  else s.addFlight c (c.flight c.vc none (some t))

/-- The strand stays at its instruction, parked. -/
def State.stay (s : State) (c : Ctx) (reason : ParkReason) (on : ParkOn) : State :=
  let t := s.modStrand c.sid fun st => { st with slot := c.vc + s.rotation c.sid }
  if (s.strand c.sid).park.isSome then t else t.park c reason on

/-- Applies the end of an entry. -/
def State.settleAct (s : State) (c : Ctx) (a : Act) : State :=
  match a with
  | .go t next => t.advance c next
  | .fault t => s.faultAt c t
  | .faultIn s t => s.faultAt c t
  | .trapNext t => s.faultAt { c with gpc := c.next } t
  | .over s => s
  | .skip t next vc => (t.advance c next).modStrand c.sid fun st => { st with slot := Nat.max st.slot vc }
  | .later vc => s.modStrand c.sid fun st => { st with slot := Nat.max st.slot vc }
  | .again reason on => s.stay c reason on
  | .stay t reason on => t.stay c reason on
  | .wait t reason on =>
    let t := t.advance c c.next
    let t := if (t.strand c.sid).inflight.any (·.seq = c.seq) then t else t.addFlight c (c.flight c.vc none none)
    t.park c reason on

/-- The vc at which the strand's next hint can issue: its next slot. HDLY holds back only the instruction (R104, R121). -/
def State.hintVc (s : State) (x : SId) : Nat := nextSlot (s.rotation x) (s.strand x).phase (s.strand x).slot

/-- The vc at which the strand's next instruction can issue: its next slot, no earlier than HDLY allows (R104, R121). -/
def State.issueVc (s : State) (x : SId) : Nat :=
  let st := s.strand x
  let dly := (readHints st.group).dly
  nextSlot (s.rotation x) st.phase (Nat.max st.slot (if dly = 0 then 0 else st.lastV + dly))

/-- The strand may issue at vc v: it is not parked, held, faulting, killed or at a stop point (R74, R79, R103, R126, R368,
R384, R432). -/
def State.ready (s : State) (x : SId) (v : Nat) : Bool :=
  let st := s.strand x
  let mid := st.group ≠ []
  (match st.park with | none => true | some p => mid && p.on = .effect) && !s.barred x v &&
    !(st.inflight.any fun e => e.faultVc ≤ v && (e.trap.isSome || e.waits)) &&
    (mid || (st.lateNow = [] && !st.stopAsked && !st.dying && !(st.deferred.any (·.stuck.isSome)) &&
      (match st.drainT with | some t => v < t | none => true)))

/-- The group's first address (R101). -/
def Strand.groupPc (st : Strand) : Word := if st.group = [] then st.pc else st.gpc

/-- What a strand has as its instruction issues at vc v. -/
def Strand.ctx (st : Strand) (x : SId) (v : Nat) : Ctx :=
  { sid := x, seq := st.seq, vc := v, pc := st.pc, gpc := st.groupPc, h := readHints st.group, regs := st.regs,
    pending := st.pending }

/-- The state in which the instruction of strand x issues at vc v: the clock there, writes landed and fault points passed. -/
def State.atIssue (s : State) (x : SId) (v : Nat) : State :=
  ((s.tick ((s.strand x).ccOf v)).modStrand x fun st => st.settle v).commitSvec x

/-- Issues the instruction of the strand that `cur` names, whose checks and entry are `body`. A strand that may not issue
keeps its slot empty (R79). -/
def issueWith (s : State) (body : State → Ctx → Act) : Host.Outcome State Fault Refusal :=
  let x := s.cur
  if (s.strand x).run ≠ .running then .fault .noStrand
  else if !s.ready x (s.issueVc x) then .next s
  else
    let t := s.atIssue x (s.issueVc x)
    let c := (t.strand x).ctx x (s.issueVc x)
    .next (((t.settleAct c (body t c)).carryDrain x c.vc).lookDrain x)

/-- Checks 5 to 7 of R107 in order: the hints, the partition, the privilege. -/
def decodeTrap (att : Attach) (us : List Use) (super : Bool) (s : State) (c : Ctx) : Option TrapInfo :=
  match badHint att us (s.strand c.sid).group with
  | some w => some (trapOf .illegal (w.setWidth 64))
  | none => match beyondPartition (s.core c.sid.core).part c.h us with
    | some r => some (trapOf .illreg r)
    | none => if super && !c.regs.csr.status.priv then some (trapOf .priv 0) else none

/-- Issues one instruction: the checks of R107 in order, then its entry. -/
def issue (s : State) (att : Attach) (us : List Use) (super : Bool) (entry : State → Ctx → Act) :
    Host.Outcome State Fault Refusal :=
  issueWith s fun t c => match decodeTrap att us super t c with
    | some f => .fault f
    | none => entry t c

/-- Issues one hint word: it joins the strand's group (R101, R104). -/
def issueHint (s : State) (w : IWord) : Host.Outcome State Fault Refusal :=
  let x := s.cur
  if (s.strand x).run ≠ .running then .fault .noStrand
  else
    let st := s.strand x
    let v := s.hintVc x
    if !s.ready x v then .next s
    else
      let n := s.rotation x
      .next ((s.tick (st.ccOf v)).modStrand x fun st =>
        let st := st.settle v
        { st with gpc := st.groupPc, group := st.group ++ [w], pc := st.pc + 4, slot := v + n, hints := st.hints + 1 })

/-- Raises ILLEGAL for a word that is no instruction (R107, checks 2 to 4). -/
def issueIllegal (s : State) (w : IWord) : Host.Outcome State Fault Refusal :=
  issueWith s fun _ _ => .fault (trapOf .illegal (w.setWidth 64))

/-- Raises a fault of fetching a word of the group (R107, check 1). -/
def issueFetchFault (s : State) (f : TrapInfo) : Host.Outcome State Fault Refusal :=
  issueWith s fun _ _ => .fault f

end Sys2Proof.Machine
end

