-- ==== Sys2Proof/Machine/Operands.lean ====
section
/-! DEFINITION. Operand forms of instruction words (R99, R105, R111, R118): signed immediates, effective addresses, branch
targets, bit fields, and lanes of vectors (R247). -/

namespace Sys2Proof.Machine

/-- A field of w bits as a two's-complement number (R99). -/
def signedField (w v : Nat) : Int := if v < 2 ^ (w - 1) then (v : Int) else (v : Int) - (2 ^ w : Nat)

/-- Sign extension of the low w bits of a dword (R118). -/
def sext (x : Word) (w : Nat) : Word := BitVec.ofInt 64 (signedField w (x.toNat % 2 ^ w))
/-- Zero extension of the low w bits of a dword (R118). -/
def zext (x : Word) (w : Nat) : Word := BitVec.ofNat 64 (x.toNat % 2 ^ w)

/-- The immediate of an I14 instruction with the HIMM of its group (R99, R105). -/
def Ctx.imm14 (c : Ctx) (i : BitVec 14) : Word := c.h.extend 14 i.toNat
/-- The word offset of a B-format instruction with the HIMM of its group (R105). -/
def Ctx.off22 (c : Ctx) (o : BitVec 22) : Word := c.h.extend 22 o.toNat
/-- A branch target: off words from the branch word (R99, R154). -/
def Ctx.target (c : Ctx) (off : Word) : Word := c.pc + 4 * off

/-- The effective address of an M-format access of n bytes; the base field stands in the place of a (R99, R111, R192). -/
def Ctx.ea (c : Ctx) (b : RField) (o : BitVec 11) (n : Nat) : Word :=
  c.g (gA b) + BitVec.ofInt 64 (signedField 11 o.toNat * n)

/-- Bits pos to pos + len - 1 of a dword (R152). -/
def field (x : Word) (pos len : Nat) : Word := BitVec.ofNat 64 (x.toNat / 2 ^ pos % 2 ^ len)

/-! ## Lanes -/

/-- Lanes of w bits in a vector (R247). -/
def lanesOf (w : Nat) : Nat := 128 / w
/-- Lane i of w bits, unsigned (R247). -/
def lane (x : VWord) (w i : Nat) : Nat := x.toNat / 2 ^ (w * i) % 2 ^ w
/-- The vector whose lanes of w bits are given, the first least significant; missing lanes are 0. -/
def ofLanes (w : Nat) (ls : List Nat) : VWord :=
  BitVec.ofNat 128 (ls.foldr (fun v a => a * 2 ^ w + v % 2 ^ w) 0)
/-- All lanes of w bits. -/
def lanes (x : VWord) (w : Nat) : List Nat := (List.range (lanesOf w)).map (lane x w)

/-- A lane read by its type's signedness (R248). -/
def laneInt (t : Fmt) (v : Nat) : Int := if t.isSigned then signedField t.bits v else v
/-- A number stored in w bits (R118). -/
def wrapTo (w : Nat) (v : Int) : Nat := (v % (2 ^ w : Nat)).toNat

end Sys2Proof.Machine
end

