-- ==== Sys2Proof/Machine/Flags.lean ====
section
/-! DEFINITION. There are no condition flags (R144): conditions are written to predicates. The conditions of PCMP (R150)
and of VCMP on integers (R260), and what a predicate gives a branch (R154). -/

namespace Sys2Proof.Machine

/-- What PCMP writes (R150). -/
def predOf (b : Bool) : PWord := if b then 0xFFFF else 0

/-- Bit 0 of a predicate, which scalar tests read (R147, R154). -/
def predBit (p : PWord) : Bool := bitOf p 0

/-- An integer condition of VCMP on lanes read by their type's signedness (R260). -/
def intCond (c : VCond) (x y : Int) : Bool :=
  match c with
  | .eq => x = y | .ne => x ≠ y | .lt => x < y | .le => x ≤ y | .gt => y < x | .ge => y ≤ x | .un => false

end Sys2Proof.Machine
end

