-- ==== Sys2Proof/Machine/Float.lean ====
section
/-! DEFINITION. Number formats and exact arithmetic (R227 to R239): floating-point patterns as exact values, sums and
products of exact values, one rounding in each mode, conversions, the counter generator and 4-bit codes. -/

namespace Sys2Proof

/-- Fraction bits (R227). -/
def Fmt.frac : Fmt → Nat
  | .d => 52 | .f => 23 | .h => 10 | .bf => 7 | .e4 => 3 | .e5 => 2 | _ => 0
/-- Exponent bits (R227). -/
def Fmt.expo : Fmt → Nat
  | .d => 11 | .f => 8 | .h => 5 | .bf => 8 | .e4 => 4 | .e5 => 5 | _ => 0
/-- Exponent bias (R227). -/
def Fmt.bias : Fmt → Nat
  | .d => 1023 | .f => 127 | .h => 15 | .bf => 127 | .e4 => 7 | .e5 => 15 | _ => 0
/-- Largest finite pattern (R227). -/
def Fmt.maxFinite : Fmt → Nat
  | .d => 0x7FEFFFFFFFFFFFFF | .f => 0x7F7FFFFF | .h => 0x7BFF | .bf => 0x7F7F | .e4 => 0x7E | .e5 => 0x7B | _ => 0
/-- Canonical NaN (R227, R229). -/
def Fmt.canonNan : Fmt → Nat
  | .d => 0x7FF8000000000000 | .f => 0x7FC00000 | .h => 0x7E00 | .bf => 0x7FC0 | .e4 => 0x7F | .e5 => 0x7E | _ => 0
/-- Infinity, or the canonical NaN of E4M3, which has none (R227, R239). -/
def Fmt.infBits : Fmt → Nat
  | .d => 0x7FF0000000000000 | .f => 0x7F800000 | .h => 0x7C00 | .bf => 0x7F80 | .e4 => 0x7F | .e5 => 0x7C | _ => 0

/-- Smallest and largest value of an integer format (R230). -/
def Fmt.intMin (t : Fmt) : Int := if t.isSigned then -(2 ^ (t.bits - 1) : Nat) else 0
def Fmt.intMax (t : Fmt) : Int := if t.isSigned then (2 ^ (t.bits - 1) : Nat) - 1 else (2 ^ t.bits : Nat) - 1

end Sys2Proof

namespace Sys2Proof.Machine

/-! ## Values of patterns (R227, R228) -/

/-- An exact value: NaN, an infinity, or (-1)^neg x m x 2^e, where m = 0 is a signed zero. -/
inductive FV where
  | nan
  | inf (neg : Bool)
  | fin (neg : Bool) (m : Nat) (e : Int)
deriving DecidableEq, Repr

/-- The value of a pattern (R228). -/
def unpack (t : Fmt) (x : Nat) : FV :=
  let f := x % 2 ^ t.frac
  let e := x / 2 ^ t.frac % 2 ^ t.expo
  let neg := x / 2 ^ (t.frac + t.expo) % 2 = 1
  if e = 0 then .fin neg f (1 - (t.bias : Int) - t.frac)
  else if e = 2 ^ t.expo - 1 && t ≠ .e4 then (if f = 0 then .inf neg else .nan)
  else if t = .e4 && e = 15 && f = 7 then .nan
  else .fin neg (2 ^ t.frac + f) ((e : Int) - t.bias - t.frac)

/-- A subnormal pattern. -/
def isSubnormal (t : Fmt) (x : Nat) : Bool := x / 2 ^ t.frac % 2 ^ t.expo = 0 && x % 2 ^ t.frac ≠ 0

/-- The sign bit of a pattern. -/
def signBit (t : Fmt) : Nat := 2 ^ (t.frac + t.expo)

/-- A subnormal replaced by zero of its sign (R235). -/
def flushBits (t : Fmt) (ftz : Bool) (x : Nat) : Nat := if ftz && isSubnormal t x then x / signBit t * signBit t else x

/-- The value of an input pattern under FTZ (R235). -/
def unpackFtz (t : Fmt) (ftz : Bool) (x : Nat) : FV := unpack t (flushBits t ftz x)

/-! ## Exact arithmetic -/

def FV.neg : FV → FV
  | .nan => .nan
  | .inf s => .inf (!s)
  | .fin s m e => .fin (!s) m e

def FV.mul (a b : FV) : FV :=
  match a, b with
  | .nan, _ | _, .nan => .nan
  | .inf s, .inf t => .inf (s != t)
  | .inf s, .fin t m _ => if m = 0 then .nan else .inf (s != t)
  | .fin s m _, .inf t => if m = 0 then .nan else .inf (s != t)
  | .fin s m e, .fin t n f => .fin (s != t) (m * n) (e + f)

/-- Scales m x 2^e to an integer at the exponent low, which is at most e. -/
def atExp (m : Nat) (e low : Int) : Nat := m * 2 ^ (e - low).toNat

/-- The exact sum of finite terms; the sign of a zero sum follows R234. -/
def finSum (ts : List (Bool × Nat × Int)) (rdn : Bool) : FV :=
  let low := ts.foldl (fun l t => min l t.2.2) 0
  let v : Int := ts.foldl (fun a t => if t.1 then a - atExp t.2.1 t.2.2 low else a + atExp t.2.1 t.2.2 low) 0
  if v = 0 then
    if ts.all (fun t => t.2.1 = 0 && t.1) then .fin true 0 0
    else if ts.all (fun t => t.2.1 = 0 && !t.1) then .fin false 0 0
    else .fin rdn 0 0
  else .fin (v < 0) v.natAbs low

/-- The exact sum of terms taken as one sum (R234, R243). -/
def sumFV (ts : List FV) (rdn : Bool) : FV :=
  if ts.contains .nan || (ts.contains (.inf true) && ts.contains (.inf false)) then .nan
  else if ts.contains (.inf true) then .inf true
  else if ts.contains (.inf false) then .inf false
  else finSum (ts.filterMap fun t => match t with | .fin s m e => some (s, m, e) | _ => none) rdn

/-- x < y for values that are not NaN; zeros are equal. -/
def FV.lt (a b : FV) : Bool :=
  match a, b with
  | .nan, _ | _, .nan => false
  | .inf s, .inf t => s && !t
  | .inf s, .fin _ _ _ => s
  | .fin _ _ _, .inf t => !t
  | .fin s m e, .fin t n f =>
    let low := min e f
    let x : Int := if s then -(atExp m e low : Int) else atExp m e low
    let y : Int := if t then -(atExp n f low : Int) else atExp n f low
    x < y

def FV.isNan : FV → Bool
  | .nan => true
  | _ => false
def FV.isNeg : FV → Bool
  | .nan => false
  | .inf s => s
  | .fin s _ _ => s

/-- Equality of values: false with NaN, and -0 = +0 (R260). -/
def FV.eq (a b : FV) : Bool := !a.isNan && !b.isNan && !a.lt b && !b.lt a

/-! ## Rounding (R234 to R236) -/

/-- Floor of log2 of num / den, for num and den above 0. -/
def log2Ratio (num den : Nat) : Int :=
  let k : Int := (Nat.log2 num : Int) - Nat.log2 den
  if (if 0 ≤ k then den * 2 ^ k.toNat ≤ num else den ≤ num * 2 ^ (-k).toNat) then k else k - 1

/-- Whether a magnitude that lies num / den of the way from one neighbour to the next away from zero takes the latter.
q is the lower neighbour's significand; draw is SR's r (R234, R236). -/
def roundsAway (mode draw : Nat) (neg : Bool) (q num den : Nat) : Bool :=
  match mode with
  | 0 => den < 2 * num || (2 * num = den && q % 2 = 1)
  | 1 => false
  | 2 => !neg
  | 3 => neg
  | _ => if neg then !(draw * den < (den - num) * 2 ^ 32) else draw * den < num * 2 ^ 32

/-- What a magnitude beyond the largest finite value becomes (R235). -/
def overflowBits (t : Fmt) (mode : Nat) (neg : Bool) : Nat :=
  if t = .e4 then t.maxFinite
  else match mode with
    | 1 => t.maxFinite
    | 2 => if neg then t.maxFinite else t.infBits
    | 3 => if neg then t.infBits else t.maxFinite
    | _ => t.infBits

/-- Round(mode, t) of the exact (-1)^neg x num / den, den above 0, as a pattern (R234, R235). -/
def roundRatio (t : Fmt) (mode draw : Nat) (neg : Bool) (num den : Nat) : Nat :=
  let sign := if neg then signBit t else 0
  if num = 0 then sign
  else
    let emin : Int := 1 - t.bias
    let e := max emin (log2Ratio num den)
    let u := e - t.frac
    let n := if 0 ≤ u then num else num * 2 ^ (-u).toNat
    let d := if 0 ≤ u then den * 2 ^ u.toNat else den
    let q := n / d
    let r := n % d
    let k := if r ≠ 0 && roundsAway mode draw neg q r d then q + 1 else q
    let bits := (e - emin).toNat * 2 ^ t.frac + k
    sign + (if t.maxFinite < bits then overflowBits t mode neg else bits)

/-- Round(mode, t) of an exact value (R229, R234, R235, R239), flushed where FTZ is 1. -/
def pack (t : Fmt) (mode draw : Nat) (ftz : Bool) (v : FV) : Nat :=
  match v with
  | .nan => t.canonNan
  | .inf neg => if t = .e4 then t.canonNan else (if neg then signBit t else 0) + t.infBits
  | .fin neg m e =>
    flushBits t ftz (if 0 ≤ e then roundRatio t mode draw neg (m * 2 ^ e.toNat) 1
      else roundRatio t mode draw neg m (2 ^ (-e).toNat))

/-- x / y, rounded once (R255): a non-zero x / 0 gives an infinity, 0 / 0 and inf / inf give NaN. -/
def divBits (t : Fmt) (mode : Nat) (ftz : Bool) (a b : FV) : Nat :=
  let signed (neg : Bool) (x : Nat) := (if neg then signBit t else 0) + x
  match a, b with
  | .nan, _ | _, .nan => t.canonNan
  | .inf _, .inf _ => t.canonNan
  | .inf s, .fin n _ _ => signed (s != n) t.infBits
  | .fin s _ _, .inf n => signed (s != n) 0
  | .fin s m e, .fin n k f =>
    if k = 0 then (if m = 0 then t.canonNan else signed (s != n) t.infBits)
    else
      let x := e - f
      flushBits t ftz (if 0 ≤ x then roundRatio t mode 0 (s != n) (m * 2 ^ x.toNat) k
        else roundRatio t mode 0 (s != n) m (k * 2 ^ (-x).toNat))

/-- An exact value rounded to an integer (R235): none for NaN and the infinities. -/
def roundInt (mode draw : Nat) (neg : Bool) (m : Nat) (e : Int) : Int :=
  let n := if 0 ≤ e then m * 2 ^ e.toNat else m
  let d := if 0 ≤ e then 1 else 2 ^ (-e).toNat
  let q := n / d
  let r := n % d
  let k : Nat := if r ≠ 0 && roundsAway mode draw neg q r d then q + 1 else q
  if neg then -(k : Int) else k

/-! ## Integers and conversions (R230, R239) -/

def clampTo (t : Fmt) (v : Int) : Int := max t.intMin (min t.intMax v)

/-- A conversion rounds: its source or destination is a floating-point format (R236). -/
def convRounds (td ts : Fmt) : Bool := td.isFloat || ts.isFloat

/-- td holds every value of ts (R236, R239): the conversions of floats to a format with no fewer exponent and fraction bits,
and of integers to a float whose significand holds them. -/
def holdsAll (td ts : Fmt) : Bool :=
  if td.isFloat && ts.isFloat then
    match td, ts with
    | .d, _ => true
    | .f, .d => false
    | .f, _ => true
    | .h, .h | .h, .e4 | .h, .e5 => true
    | .bf, .bf | .bf, .e4 | .bf, .e5 => true
    | .e4, .e4 => true
    | .e5, .e5 => true
    | _, _ => false
  else if td.isFloat && ts.isInt then ts.bits ≤ td.frac + 1 + (if ts.isSigned then 1 else 0)
  else if td.isInt && ts.isInt then td.intMin ≤ ts.intMin && ts.intMax ≤ td.intMax
  else false

/-- One element converted from ts to td (R239), as a pattern of td. -/
def convert (td ts : Fmt) (mode draw : Nat) (ftz : Bool) (x : Nat) : Nat :=
  if ts.isFloat then
    let v := unpackFtz ts ftz x
    if td.isFloat then pack td mode draw ftz v
    else match v with
      | .nan => 0
      | .inf neg => wrapTo td.bits (if neg then td.intMin else td.intMax)
      | .fin neg m e => wrapTo td.bits (clampTo td (roundInt mode draw neg m e))
  else
    let v := laneInt ts (x % 2 ^ ts.bits)
    if td.isFloat then pack td mode draw ftz (.fin (v < 0) v.natAbs 0) else wrapTo td.bits (clampTo td v)

/-! ## Stochastic draws (R236, R237) -/

/-- The counter generator G (R237). -/
def counterG (ctr key : Nat) : Nat :=
  let x := (ctr * 0x00A3B1C5 + key) % 2 ^ 32
  let x := x ^^^ (x / 2 ^ 16)
  let x := x * 0x2F6E2B1D % 2 ^ 32
  x ^^^ (x / 2 ^ 16)

/-- The n-th draw of an instruction that finds FPMODE and SRCTR as given (R236). -/
def drawOf (fpmode : Word) (srctr : BitVec 32) (n : Nat) : Nat :=
  counterG ((srctr.toNat + n) % 2 ^ 32) (bitsOf fpmode 63 32)

/-- The mode of an instruction that rounds (R119, R238): HRND's, else FPMODE's, where SR counts as RNE unless the operation
accepts it; none where FPMODE.RM is 5 to 7, which raises OPERAND. -/
def Ctx.mode (c : Ctx) (sr : Bool) : Option Nat :=
  match c.h.rnd with
  | some m => some m
  | none =>
    let m := bitsOf c.regs.csr.fpmode 2 0
    if 5 ≤ m then none else if m = 4 && !sr then some 0 else some m

def Ctx.ftz (c : Ctx) : Bool := bitOf c.regs.csr.fpmode 3

/-- The fault of FPMODE.RM 5 to 7 (R238). -/
def Ctx.badMode (c : Ctx) : TrapInfo := trapOf .operand c.regs.csr.fpmode

/-! ## The 4-bit code family (R231, R232) -/

/-- The value of a code before scaling (R232). -/
def codeValue (type x : Nat) : FV :=
  let neg := x / 8 = 1
  let k := x % 8
  match type with
  | 0 => .fin neg (if neg then 16 - x else x) 0
  | 1 => .fin neg ([0, 1, 2, 3, 4, 6, 8, 12].getD k 0) (-1)
  | 2 => .fin neg (if k = 0 then 0 else 2 ^ k) (-4)
  | _ => .fin neg ([0, 1, 2, 3, 4, 6, 8, 12].getD k 0) 0

/-- The value of a code under its block's scale word (R231, R232). -/
def q4Value (scale : BitVec 24) (x : Nat) : FV :=
  let e := bitsOf scale 21 14
  if e = 255 then .nan
  else if e = 0 then (match codeValue (bitsOf scale 23 22) x with | .fin s _ _ => .fin s 0 0 | v => v)
  else (codeValue (bitsOf scale 23 22) x).mul (.fin false (2 ^ 14 + bitsOf scale 13 0) ((e : Int) - 127 - 14))

/-- Significand width of a block's codes (R232). -/
def q4Width (scale : BitVec 24) : Nat :=
  match bitsOf scale 23 22 with | 0 => 4 | 2 => 1 | _ => 2

end Sys2Proof.Machine
end

