-- ==== Sys2Proof/Syntax.lean ====
section
/-! DEFINITION. The operations and events of the opcode table, one constructor for each row: 215 instruction words and
8 hint words, whose fields stand as R98 to R117 lay them out, and 80 steps of the device's other agents, which have no
word and whose operands name the step (what the outside or an arbiter supplies, see notes/assumptions/1.md). -/

namespace Sys2Proof

/-- One row of the opcode table each. -/
inductive Instr where
  /-- NOP: Takes one issue slot and has no other effect (R159). -/
  | nop
  /-- ADD: gd := ga + gb modulo 2^64 (R145). -/
  | add (d : RField) (a : RField) (b : RField)
  /-- SUB: gd := ga - gb modulo 2^64 (R145). -/
  | sub (d : RField) (a : RField) (b : RField)
  /-- MUL: gd := low 64 bits of ga x gb (R145). -/
  | mul (d : RField) (a : RField) (b : RField)
  /-- MULHS: gd := high 64 bits of the signed 128-bit product (R145). -/
  | mulhs (d : RField) (a : RField) (b : RField)
  /-- MULHZ: gd := high 64 bits of the unsigned 128-bit product (R145). -/
  | mulhz (d : RField) (a : RField) (b : RField)
  /-- DIV: Signed division truncated toward zero, with defined results for zero and overflow (R145). -/
  | div (d : RField) (a : RField) (b : RField)
  /-- DIVZ: Unsigned division, all ones for division by zero (R145). -/
  | divz (d : RField) (a : RField) (b : RField)
  /-- REM: Signed remainder with the sign of ga (R145). -/
  | rem (d : RField) (a : RField) (b : RField)
  /-- REMZ: Unsigned remainder (R145). -/
  | remz (d : RField) (a : RField) (b : RField)
  /-- AND: Bitwise AND of two registers (R145). -/
  | and (d : RField) (a : RField) (b : RField)
  /-- OR: Bitwise OR of two registers (R145). -/
  | or (d : RField) (a : RField) (b : RField)
  /-- XOR: Bitwise XOR of two registers (R145). -/
  | xor (d : RField) (a : RField) (b : RField)
  /-- ANDN: gd := ga AND NOT gb (R145). -/
  | andn (d : RField) (a : RField) (b : RField)
  /-- ORN: gd := ga OR NOT gb (R145). -/
  | orn (d : RField) (a : RField) (b : RField)
  /-- SHL: Logical left shift by gb[5:0] (R145). -/
  | shl (d : RField) (a : RField) (b : RField)
  /-- SHR: Logical right shift by gb[5:0] (R145). -/
  | shr (d : RField) (a : RField) (b : RField)
  /-- SAR: Arithmetic right shift by gb[5:0] (R145). -/
  | sar (d : RField) (a : RField) (b : RField)
  /-- ROL: Rotate left by gb[5:0] (R145). -/
  | rol (d : RField) (a : RField) (b : RField)
  /-- ROR: Rotate right by gb[5:0] (R145). -/
  | ror (d : RField) (a : RField) (b : RField)
  /-- MIN: Signed minimum (R145). -/
  | min (d : RField) (a : RField) (b : RField)
  /-- MAX: Signed maximum (R145). -/
  | max (d : RField) (a : RField) (b : RField)
  /-- MINZ: Unsigned minimum (R145). -/
  | minz (d : RField) (a : RField) (b : RField)
  /-- MAXZ: Unsigned maximum (R145). -/
  | maxz (d : RField) (a : RField) (b : RField)
  /-- SLT: 1 if ga < gb signed, else 0 (R145). -/
  | slt (d : RField) (a : RField) (b : RField)
  /-- SLTZ: 1 if ga < gb unsigned, else 0 (R145). -/
  | sltz (d : RField) (a : RField) (b : RField)
  /-- SEQ: 1 if ga = gb, else 0 (R145). -/
  | seq (d : RField) (a : RField) (b : RField)
  /-- CLZ: Counts leading zero bits (R146). -/
  | clz (d : RField) (a : RField)
  /-- CTZ: Counts trailing zero bits (R146). -/
  | ctz (d : RField) (a : RField)
  /-- POPC: Counts one bits (R146). -/
  | popc (d : RField) (a : RField)
  /-- BSWP: Reverses the eight bytes (R146). -/
  | bswp (d : RField) (a : RField)
  /-- SXT_S8: Sign-extends the low 8 bits (R146). -/
  | sxtS8 (d : RField) (a : RField)
  /-- SXT_S16: Sign-extends the low 16 bits (R146). -/
  | sxtS16 (d : RField) (a : RField)
  /-- SXT_S32: Sign-extends the low 32 bits (R146). -/
  | sxtS32 (d : RField) (a : RField)
  /-- ZXT_B8: Zero-extends the low 8 bits (R146). -/
  | zxtB8 (d : RField) (a : RField)
  /-- ZXT_B16: Zero-extends the low 16 bits (R146). -/
  | zxtB16 (d : RField) (a : RField)
  /-- ZXT_B32: Zero-extends the low 32 bits (R146). -/
  | zxtB32 (d : RField) (a : RField)
  /-- CSEL: Selects ga or gb by bit 0 of predicate pc (R147). -/
  | csel (d : RField) (a : RField) (b : RField) (p : PField)
  /-- PAND: AND of two predicates (R148). -/
  | pand (d : PField) (a : PField) (b : PField)
  /-- POR: OR of two predicates (R148). -/
  | por (d : PField) (a : PField) (b : PField)
  /-- PXOR: XOR of two predicates (R148). -/
  | pxor (d : PField) (a : PField) (b : PField)
  /-- PNOT: Inverts all 16 bits of a predicate (R148). -/
  | pnot (d : PField) (a : PField)
  /-- MOVP_G_P: Moves a predicate, zero-extended, into a general register (R149). -/
  | movpGP (d : RField) (a : PField)
  /-- MOVP_P_G: Moves ga[15:0] into a predicate (R149). -/
  | movpPG (d : PField) (a : RField)
  /-- PCMP_EQ: pd := all ones if ga = gb, else 0 (R150). -/
  | pcmpEq (d : PField) (a : RField) (b : RField)
  /-- PCMP_NE: pd := all ones if ga != gb, else 0 (R150). -/
  | pcmpNe (d : PField) (a : RField) (b : RField)
  /-- PCMP_LT: Signed less-than compare into a predicate (R150). -/
  | pcmpLt (d : PField) (a : RField) (b : RField)
  /-- PCMP_GE: Signed greater-or-equal compare into a predicate (R150). -/
  | pcmpGe (d : PField) (a : RField) (b : RField)
  /-- PCMP_LTU: Unsigned less-than compare into a predicate (R150). -/
  | pcmpLtu (d : PField) (a : RField) (b : RField)
  /-- PCMP_GEU: Unsigned greater-or-equal compare into a predicate (R150). -/
  | pcmpGeu (d : PField) (a : RField) (b : RField)
  /-- PCMP_TST: Sets a predicate when ga AND gb is non-zero (R150). -/
  | pcmpTst (d : PField) (a : RField) (b : RField)
  /-- ADDI: gd := ga + immediate, extended by HIMM (R151). -/
  | addi (d : RField) (a : RField) (i : BitVec 14)
  /-- MOVI: gd := immediate, extended by HIMM (R151). -/
  | movi (d : RField) (i : BitVec 14)
  /-- LEA: gd := address of the LEA word + byte offset (R151). -/
  | lea (d : RField) (i : BitVec 14)
  /-- BFX: Extracts a bit field, zero-extended (R152). -/
  | bfx (d : BitVec 6) (a : BitVec 6) (l : BitVec 6) (p : BitVec 6)
  /-- BFX_S: Extracts a bit field, sign-extended (R152). -/
  | bfxS (d : BitVec 6) (a : BitVec 6) (l : BitVec 6) (p : BitVec 6)
  /-- BFI: Inserts the low bits of ga into a field of gd (R152). -/
  | bfi (d : BitVec 6) (a : BitVec 6) (l : BitVec 6) (p : BitVec 6)
  /-- LOOP: Decrements the counter and branches while it is non-zero (R157). -/
  | loop (d : RField) (i : BitVec 14)
  /-- CSRR: Reads a control register into gd (R389). -/
  | csrr (d : RField) (n : BitVec 12)
  /-- CSRW: Writes ga into a control register (R389). -/
  | csrw (a : RField) (n : BitVec 12)
  /-- CSRS: Sets the bits of ga in a control register (R389). -/
  | csrs (a : RField) (n : BitVec 12)
  /-- CSRC: Clears the bits of ga in a control register (R389). -/
  | csrc (a : RField) (n : BitVec 12)
  /-- LD_B8: Loads one byte, zero-extended (R192). -/
  | ldB8 (d : RField) (b : RField) (q : QField) (o : BitVec 11)
  /-- LD_B16: Loads two bytes, zero-extended (R192). -/
  | ldB16 (d : RField) (b : RField) (q : QField) (o : BitVec 11)
  /-- LD_B32: Loads four bytes, zero-extended (R192). -/
  | ldB32 (d : RField) (b : RField) (q : QField) (o : BitVec 11)
  /-- LD_B64: Loads eight bytes (R192). -/
  | ldB64 (d : RField) (b : RField) (q : QField) (o : BitVec 11)
  /-- LD_S8: Loads one byte, sign-extended (R192). -/
  | ldS8 (d : RField) (b : RField) (q : QField) (o : BitVec 11)
  /-- LD_S16: Loads two bytes, sign-extended (R192). -/
  | ldS16 (d : RField) (b : RField) (q : QField) (o : BitVec 11)
  /-- LD_S32: Loads four bytes, sign-extended (R192). -/
  | ldS32 (d : RField) (b : RField) (q : QField) (o : BitVec 11)
  /-- LDPR: Loads 16 bytes into the even register gd and gd + 1 (R193). -/
  | ldpr (d : EField) (b : RField) (q : QField) (o : BitVec 11)
  /-- ST_B8: Stores one byte (R192). -/
  | stB8 (d : RField) (b : RField) (q : QField) (o : BitVec 11)
  /-- ST_B16: Stores two bytes (R192). -/
  | stB16 (d : RField) (b : RField) (q : QField) (o : BitVec 11)
  /-- ST_B32: Stores four bytes (R192). -/
  | stB32 (d : RField) (b : RField) (q : QField) (o : BitVec 11)
  /-- ST_B64: Stores eight bytes (R192). -/
  | stB64 (d : RField) (b : RField) (q : QField) (o : BitVec 11)
  /-- LDV: Loads 16 bytes into a vector register (R193). -/
  | ldv (d : RField) (b : RField) (q : QField) (o : BitVec 11)
  /-- STV: Stores a vector register as 16 bytes (R193). -/
  | stv (d : RField) (b : RField) (q : QField) (o : BitVec 11)
  /-- LDF: Waits for a full word, takes its value and leaves it empty (R194). -/
  | ldf (d : RField) (b : RField) (q : QField) (o : BitVec 11)
  /-- STF: Waits for an empty word, writes it and marks it full (R194). -/
  | stf (d : RField) (b : RField) (q : QField) (o : BitVec 11)
  /-- LDFP: Waits for a full word and reads it, leaving it full (R194). -/
  | ldfp (d : RField) (b : RField) (q : QField) (o : BitVec 11)
  /-- STN_LO: Writes the low nibble of a byte atomically (R196). -/
  | stnLo (d : RField) (a : RField) (q : QField)
  /-- STN_HI: Writes the high nibble of a byte atomically (R196). -/
  | stnHi (d : RField) (a : RField) (q : QField)
  /-- FEMARK_E: Sets a word's full/empty bit to empty (R195). -/
  | femarkE (a : RField) (q : QField)
  /-- FEMARK_F: Sets a word's full/empty bit to full (R195). -/
  | femarkF (a : RField) (q : QField)
  /-- PREF: Asks for a line to be brought into the cluster L1; never faults (R197). -/
  | pref (a : RField) (q : QField)
  /-- FLUSH: Writes back the lines of a range, as a macro (R198). -/
  | flush (d : RField) (a : RField) (q : QField)
  /-- INVAL: Writes back and removes the lines of a range, as a macro (R198). -/
  | inval (d : RField) (a : RField) (q : QField)
  /-- FILL: Installs the lines of a range with the policy's eviction class (R198). -/
  | fill (d : RField) (a : RField) (q : QField)
  /-- AADD: Atomic add returning the old value (R351). -/
  | aadd (d : RField) (a : RField) (b : RField) (q : QField) (z : Bool)
  /-- AAND: Atomic AND returning the old value (R351). -/
  | aand (d : RField) (a : RField) (b : RField) (q : QField) (z : Bool)
  /-- AOR: Atomic OR returning the old value (R351). -/
  | aor (d : RField) (a : RField) (b : RField) (q : QField) (z : Bool)
  /-- AXOR: Atomic XOR returning the old value (R351). -/
  | axor (d : RField) (a : RField) (b : RField) (q : QField) (z : Bool)
  /-- AMIN: Atomic signed minimum (R351). -/
  | amin (d : RField) (a : RField) (b : RField) (q : QField) (z : Bool)
  /-- AMAX: Atomic signed maximum (R351). -/
  | amax (d : RField) (a : RField) (b : RField) (q : QField) (z : Bool)
  /-- AMINZ: Atomic unsigned minimum (R351). -/
  | aminz (d : RField) (a : RField) (b : RField) (q : QField) (z : Bool)
  /-- AMAXZ: Atomic unsigned maximum (R351). -/
  | amaxz (d : RField) (a : RField) (b : RField) (q : QField) (z : Bool)
  /-- AXCHG: Atomic exchange (R351). -/
  | axchg (d : RField) (a : RField) (b : RField) (q : QField) (z : Bool)
  /-- ACAS: Atomic compare-and-swap against gd (R351). -/
  | acas (d : RField) (a : RField) (b : RField) (q : QField) (z : Bool)
  /-- AFADD: Atomic floating-point add, rounded (R351). -/
  | afadd (d : RField) (a : RField) (b : RField) (q : QField) (z : Bool)
  /-- FENCE: Orders earlier and later accesses at a scope by its kind (R353). -/
  | fence (k : Order) (s : Scope)
  /-- WARV: Arrives at a Woad channel without waiting (R337). -/
  | warv (c : BitVec 5)
  /-- WWAIT: Waits for the release of a pending arrival (R337). -/
  | wwait (c : BitVec 5)
  /-- WBAR: Arrives and waits: a barrier (R337). -/
  | wbar (c : BitVec 5)
  /-- WSEND: Arrives carrying a broadcast value (R337). -/
  | wsend (a : RField) (c : BitVec 5)
  /-- WRECV: Arrives, waits and receives the broadcast result (R337). -/
  | wrecv (d : RField) (c : BitVec 5)
  /-- WRED_ADD: Woad reduction by sum (R337). -/
  | wredAdd (d : RField) (a : RField) (c : BitVec 5)
  /-- WRED_MIN: Woad reduction by signed minimum (R337). -/
  | wredMin (d : RField) (a : RField) (c : BitVec 5)
  /-- WRED_MAX: Woad reduction by signed maximum (R337). -/
  | wredMax (d : RField) (a : RField) (c : BitVec 5)
  /-- WRED_OR: Woad reduction by OR (R337). -/
  | wredOr (d : RField) (a : RField) (c : BitVec 5)
  /-- SOPEN: Opens a stream route to a core's inbound stream queue (R263). -/
  | sopen (a : RField)
  /-- SSEND: Sends a 128-bit word on the open route (R263). -/
  | ssend (a : RField)
  /-- SRECV: Pops the head of the inbound stream queue (R263). -/
  | srecv (d : RField)
  /-- SPOLL: Reports the state of the inbound stream queue head without popping (R263). -/
  | spoll (d : PField)
  /-- SCLOSE: Sends the closing marker and releases the route (R263). -/
  | sclose
  /-- CPY: Posts a copy of a layout window from global memory into scratch (R220). -/
  | cpy (a : RField) (b : RField)
  /-- CPYM: Posts a copy of a scratch window out to global memory (R212). -/
  | cpym (a : RField) (b : RField)
  /-- CPYX: Posts a copy with a follow-on array command (R221). -/
  | cpyx (d : RField) (a : RField) (b : RField)
  /-- GATH: Posts an indexed gather into scratch, as a macro (R222). -/
  | gath (d : RField) (a : RField) (b : RField)
  /-- SCAT: Posts an indexed scatter to global memory, as a macro (R222). -/
  | scat (d : RField) (a : RField) (b : RField)
  /-- BARINIT: Initialises a barrier object (R223). -/
  | barinit (a : RField) (b : RField)
  /-- BARADD: Adjusts a barrier object's EXPECT and applies the flip test (R223). -/
  | baradd (a : RField) (b : RField)
  /-- WAITPH: Parks until a barrier object's phase equals n (R224). -/
  | waitph (a : RField) (n : Bool)
  /-- MSGSEND: Sends an 8-byte message to a core's inbound queue (R225). -/
  | msgsend (a : RField) (b : RField)
  /-- MSGRECV: Pops the oldest inbound message into gd and gd + 1 (R226). -/
  | msgrecv (d : EField)
  /-- WAITMSG: Parks until the inbound queue is not empty (R226). -/
  | waitmsg
  /-- VADD: Lane-wise add (R255). -/
  | vadd (d : RField) (a : RField) (b : RField) (t : Fmt)
  /-- VSUB: Lane-wise subtract (R255). -/
  | vsub (d : RField) (a : RField) (b : RField) (t : Fmt)
  /-- VMUL: Lane-wise multiply (R255). -/
  | vmul (d : RField) (a : RField) (b : RField) (t : Fmt)
  /-- VMULH: Lane-wise high half of the integer product (R255). -/
  | vmulh (d : RField) (a : RField) (b : RField) (t : Fmt)
  /-- VFMA: Lane-wise fused multiply-add into vd (R255). -/
  | vfma (d : RField) (a : RField) (b : RField) (t : Fmt)
  /-- VFMS: Lane-wise fused multiply-subtract from vd (R255). -/
  | vfms (d : RField) (a : RField) (b : RField) (t : Fmt)
  /-- VFNMA: Lane-wise negated fused multiply-add (R255). -/
  | vfnma (d : RField) (a : RField) (b : RField) (t : Fmt)
  /-- VDIV: Lane-wise divide (R255). -/
  | vdiv (d : RField) (a : RField) (b : RField) (t : Fmt)
  /-- VMIN: Lane-wise minimum (R255). -/
  | vmin (d : RField) (a : RField) (b : RField) (t : Fmt)
  /-- VMAX: Lane-wise maximum (R255). -/
  | vmax (d : RField) (a : RField) (b : RField) (t : Fmt)
  /-- VABS: Lane-wise absolute value (R255). -/
  | vabs (d : RField) (a : RField) (t : Fmt)
  /-- VNEG: Lane-wise negation (R255). -/
  | vneg (d : RField) (a : RField) (t : Fmt)
  /-- VSAT: Lane-wise clamp to the range of a target type (R255). -/
  | vsat (d : RField) (a : RField) (u : Fmt) (t : Fmt)
  /-- VCLZ: Lane-wise leading zero count (R255). -/
  | vclz (d : RField) (a : RField) (t : Fmt)
  /-- VPOPC: Lane-wise population count (R255). -/
  | vpopc (d : RField) (a : RField) (t : Fmt)
  /-- VAND: Bitwise AND over 128 bits (R256). -/
  | vand (d : RField) (a : RField) (b : RField) (t : Fmt)
  /-- VOR: Bitwise OR over 128 bits (R256). -/
  | vor (d : RField) (a : RField) (b : RField) (t : Fmt)
  /-- VXOR: Bitwise XOR over 128 bits (R256). -/
  | vxor (d : RField) (a : RField) (b : RField) (t : Fmt)
  /-- VANDN: Bitwise AND NOT over 128 bits (R256). -/
  | vandn (d : RField) (a : RField) (b : RField) (t : Fmt)
  /-- VSHL: Lane-wise left shift (R256). -/
  | vshl (d : RField) (a : RField) (b : RField) (t : Fmt)
  /-- VSHR: Lane-wise logical right shift (R256). -/
  | vshr (d : RField) (a : RField) (b : RField) (t : Fmt)
  /-- VSAR: Lane-wise arithmetic right shift (R256). -/
  | vsar (d : RField) (a : RField) (b : RField) (t : Fmt)
  /-- VSEL: Byte-wise select by a predicate (R256). -/
  | vsel (d : RField) (a : RField) (b : RField) (p : PField)
  /-- VDOT4: Four-way byte dot product accumulated into 32-bit lanes (R256). -/
  | vdot4 (d : RField) (a : RField) (b : RField) (t : Fmt)
  /-- VDOT2: Two-way 16-bit dot product accumulated into 32-bit lanes (R256). -/
  | vdot2 (d : RField) (a : RField) (b : RField) (t : Fmt)
  /-- VSHUF: Interleaves the low lanes of two vectors (R256). -/
  | vshuf (d : RField) (a : RField) (b : RField) (t : Fmt)
  /-- VPERM: Permutes lanes of va by indices in vb (R256). -/
  | vperm (d : RField) (a : RField) (b : RField) (t : Fmt)
  /-- VREDADD: Pairwise sum reduction into lane 0 (R257). -/
  | vredadd (d : RField) (a : RField) (t : Fmt)
  /-- VREDMIN: Pairwise minimum reduction into lane 0 (R257). -/
  | vredmin (d : RField) (a : RField) (t : Fmt)
  /-- VREDMAX: Pairwise maximum reduction into lane 0 (R257). -/
  | vredmax (d : RField) (a : RField) (t : Fmt)
  /-- VRNG: Lane-wise counter generator G (R256). -/
  | vrng (d : RField) (a : RField) (b : RField)
  /-- VCVT: Converts lanes between element formats (R258). -/
  | vcvt (d : RField) (a : RField) (x : Fmt) (y : Fmt)
  /-- VSPLAT: Copies a general register into every lane (R259). -/
  | vsplat (d : RField) (a : RField) (t : Fmt)
  /-- VEXT: Extracts lane n into a general register (R259). -/
  | vext (d : RField) (a : RField) (n : BitVec 6) (t : Fmt)
  /-- VINS: Inserts a general register into lane n (R259). -/
  | vins (d : RField) (a : RField) (n : BitVec 6) (t : Fmt)
  /-- VMOV: Copies a vector, possibly popping or pushing a link port (R259). -/
  | vmov (d : RField) (a : RField) (t : Fmt)
  /-- VCMP: Lane-wise compare into predicate bits (R260). -/
  | vcmp (c : VCond) (d : PField) (a : RField) (b : RField) (t : Fmt)
  /-- SFEXP2: SFU request for 2^x (R267). -/
  | sfexp2 (d : RField) (a : RField) (t : Fmt)
  /-- SFLOG2: SFU request for log2 x (R267). -/
  | sflog2 (d : RField) (a : RField) (t : Fmt)
  /-- SFRCP: SFU request for 1/x (R267). -/
  | sfrcp (d : RField) (a : RField) (t : Fmt)
  /-- SFRSQ: SFU request for 1/sqrt x (R267). -/
  | sfrsq (d : RField) (a : RField) (t : Fmt)
  /-- SFSQRT: SFU request for sqrt x (R267). -/
  | sfsqrt (d : RField) (a : RField) (t : Fmt)
  /-- SFSIN: SFU request for sin x (R267). -/
  | sfsin (d : RField) (a : RField) (t : Fmt)
  /-- SFCOS: SFU request for cos x (R267). -/
  | sfcos (d : RField) (a : RField) (t : Fmt)
  /-- SFTANH: SFU request for tanh x (R267). -/
  | sftanh (d : RField) (a : RField) (t : Fmt)
  /-- SFSIGM: SFU request for the logistic sigmoid (R267). -/
  | sfsigm (d : RField) (a : RField) (t : Fmt)
  /-- SFERF: SFU request for erf x (R267). -/
  | sferf (d : RField) (a : RField) (t : Fmt)
  /-- MPREC_SHORT: Sets a bank's PREC from three format codes and takes ownership (R290). -/
  | mprecShort (c : BitVec 4) (a : BitVec 4) (b : BitVec 4) (k : BitVec 1)
  /-- MPREC_IMAGE: Sets a bank's PREC from a whole image and takes ownership (R290). -/
  | mprecImage (a : RField) (k : BitVec 1)
  /-- MRDP: Reads a bank's PREC (R291). -/
  | mrdp (d : RField) (k : BitVec 1)
  /-- MMA: Enqueues A x B added into a bank (R292). -/
  | mma (d : RField) (a : RField) (b : RField) (k : BitVec 1)
  /-- MMAS: Enqueues a bank clear followed by A x B (R292). -/
  | mmas (d : RField) (a : RField) (b : RField) (k : BitVec 1)
  /-- MZERO: Enqueues the clearing of a bank (R293). -/
  | mzero (k : BitVec 1)
  /-- MRDACC: Reads and converts one accumulator element, optionally releasing the bank (R294). -/
  | mrdacc (d : RField) (a : RField) (t : BitVec 4) (r : Bool) (k : BitVec 1)
  /-- MWRACC: Writes one accumulator element (R295). -/
  | mwracc (d : RField) (a : RField) (k : BitVec 1)
  /-- MAPPRB: Probes a map for a key (R319). -/
  | mapprb (d : EField) (a : RField) (b : RField) (p : PField) (q : QField)
  /-- MAPINS: Inserts a key if absent (R319). -/
  | mapins (d : EField) (a : RField) (b : RField) (p : PField) (q : QField)
  /-- MAPUPS: Inserts a key or replaces its value (R319). -/
  | mapups (d : EField) (a : RField) (b : RField) (p : PField) (q : QField)
  /-- MAPDEL: Removes a key (R319). -/
  | mapdel (d : EField) (a : RField) (b : RField) (p : PField) (q : QField)
  /-- MAPADD: Adds to a key's value, inserting if absent (R319). -/
  | mapadd (d : EField) (a : RField) (b : RField) (p : PField) (q : QField)
  /-- MAPCAS: Compare-and-swaps a key's value (R319). -/
  | mapcas (d : EField) (a : RField) (b : RField) (p : PField) (q : QField)
  /-- MAPNEW: Creates a map from a parameter block (R320). -/
  | mapnew (a : RField) (b : RField) (q : QField)
  /-- MAPGETN: Posts a bulk probe of a key list as an engine operation (R322). -/
  | mapgetn (d : RField) (a : RField) (b : RField) (q : QField)
  /-- MAPSCAN: Copies map entries slice by slice into a buffer (R325). -/
  | mapscan (d : RField) (a : RField) (b : RField) (q : QField)
  /-- MAPSTL: Finishes pending growth of every shard (R326). -/
  | mapstl (a : RField) (q : QField)
  /-- MAPCLR: Clears every shard of a map (R327). -/
  | mapclr (a : RField) (q : QField)
  /-- MAPINFO: Returns growth flags and the entry count of a map (R328). -/
  | mapinfo (d : RField) (a : RField) (q : QField)
  /-- TSPAWN: Pushes a task record onto the core's own deque (R91). -/
  | tspawn (p : PField) (a : RField)
  /-- TYIELD: Pushes a continuation record and ends the task without retiring (R92). -/
  | tyield (p : PField) (a : RField)
  /-- LAUNCH: Checks and accepts a launch record from device code (R93). -/
  | launch (p : PField) (a : RField)
  /-- CNTRD: Reads a completion counter (R94). -/
  | cntrd (d : RField) (a : RField)
  /-- CNTWAIT: Parks until a counter reads DONE (R95). -/
  | cntwait (a : RField)
  /-- CANCEL_DRAIN: Cancels a counter and its levels below in drain mode (R96). -/
  | cancelDrain (a : RField)
  /-- CANCEL_KILL: Cancels a counter and its levels below in kill mode (R96). -/
  | cancelKill (a : RField)
  /-- REPART: Changes the core's strand partition (R97). -/
  | repart (n : Part)
  /-- BRR: Branches to the address in ga (R156). -/
  | brr (a : RField)
  /-- CALLR: Calls the address in ga, linking in g31 (R156). -/
  | callr (a : RField)
  /-- RET: Branches to the address in g31 (R156). -/
  | ret
  /-- TEND: Ends the task; the unit retires when the effect is performed (R158). -/
  | tend
  /-- TRAP: Raises TRAPI with EVAL n (R391). -/
  | trap (n : BitVec 12)
  /-- ERET: Returns from a trap handler (R392). -/
  | eret
  /-- QUIESCE: Stops, resumes or delivers pre-emption to a job (R393). -/
  | quiesce (a : RField)
  /-- MIGRATE: Moves a stopped core's context to another core (R394). -/
  | migrate (a : RField) (b : RField)
  /-- TLBINV: Removes cached translations overlapping a range (R417). -/
  | tlbinv (a : RField) (b : RField)
  /-- RDTIME: Reads the device time unit in ns (R418). -/
  | rdtime (d : RField)
  /-- RDPERF: Reads a performance counter (R395). -/
  | rdperf (d : RField) (a : RField)
  /-- BRK: Stops the strand for debug or raises BREAK (R386). -/
  | brk (n : BitVec 12)
  /-- BRP: Branches when bit 0 of a predicate is 1 (R154). -/
  | brp (p : PField) (o : BitVec 22)
  /-- BRP_N: Branches when bit 0 of a predicate is 0 (R154). -/
  | brpN (p : PField) (o : BitVec 22)
  /-- BR: Unconditional branch, BRP on p0 (R154). -/
  | br (o : BitVec 22)
  /-- CALL: Branches and links the return address in g31 (R155). -/
  | call (o : BitVec 22)
  /-- HIMM: Hint that extends the next instruction's immediate (R105). -/
  | himm (i : BitVec 22)
  /-- HDLY: Hint that delays the next instruction's issue (R104). -/
  | hdly (n : BitVec 16)
  /-- HXREG: Hint that adds 64 to marked general register fields (R104). -/
  | hxreg (d : Bool) (a : Bool) (b : Bool)
  /-- HSTART: Hint fixing an engine command's start vc (R137). -/
  | hstart (s : BitVec 22)
  /-- HSEQ: Hint naming the expected sequence tag of the first scratch read (R139). -/
  | hseq (t : BitVec 16)
  /-- HPOL: Hint replacing policy bits for one instruction (R104). -/
  | hpol (p : BitVec 13)
  /-- HSCOPE: Hint replacing the scope (R104). -/
  | hscope (s : Scope)
  /-- HRND: Hint replacing the rounding mode (R104). -/
  | hrnd (m : BitVec 3)
  /-- LAUNCH_RECORD: A host write to SUBMIT carrying a launch record is checked and accepted or refused (R62). -/
  | launchRecord (queue : Nat) (aligned : Bool) (record : Rec512)
  /-- COUNTER_RECORD: A host write to SUBMIT carrying a counter record arms a graph, phase or job counter or is refused (R68). -/
  | counterRecord (queue : Nat) (aligned : Bool) (record : Rec512)
  /-- QCFG_WRITE: A write to a queue's QCFG, changing only EN while EN = 1 (R60). -/
  | qcfgWrite (queue : Nat) (value : Word)
  /-- DISPATCHER_TAKE: The dispatcher arbiter takes an accepted record from a queue or LAUNCH (R63). -/
  | dispatcherTake (queue : Option Nat)
  /-- GANG_START: Once the rectangle is idle and a channel is free, the gang is released on all members in one cycle (R87). -/
  | gangStart (job counter : Nat)
  /-- DEAL_UNIT: The dispatcher deals one unit record to a core's deque (R82). -/
  | dealUnit (job counter : Nat)
  /-- UNIT_RETIRE: After the task's engine operations complete, the unit's counter PEND is decremented (R73). -/
  | unitRetire (job counter : Nat)
  /-- PHASE_AGENT_ARRIVAL: A die's dispatcher agent arrives at the phase channel once the phase's work is performed (R70). -/
  | phaseAgentArrival (job die : Nat)
  /-- PHASE_BARRIER: The phase channel releases 64 cc after the last arrival, ending the phase (R70). -/
  | phaseBarrier (job : Nat)
  /-- CANCEL_COMPLETE: A cancelled counter reaches DONE with CANC = 1 once no counted task runs (R74). -/
  | cancelComplete (job counter : Nat)
  /-- POP: A free user strand pops a record from its core's deques (R81). -/
  | pop (sid : SId)
  /-- STEAL_REQUEST: A stealing core sends a steal request or die probe over Ibex (R84). -/
  | stealRequest (sid : SId)
  /-- STEAL_REPLY: A steal reply returns a record or empty (R85). -/
  | stealReply (sid : SId)
  /-- STEAL_ROUND_RETRY: 64 cc after an empty round, a new steal round begins (R84). -/
  | stealRoundRetry (sid : SId)
  /-- LATE_EVENT_TEST: At cc0(T), or 24 cc earlier in a gang, awaited items are tested and a hold may begin (R125). -/
  | lateEventTest (sid : SId)
  /-- HOLD_END: A paused domain's hold of P cycles ends and vc T begins (R126). -/
  | holdEnd (sid : SId) (rotations : Nat)
  /-- LANDING: A register write lands at its vc and the instruction passes or raises at its fault point (R128). -/
  | landing (sid : SId)
  /-- DEFERRED_EFFECT: An effect deferred behind earlier fault points is performed (R133). -/
  | deferredEffect (sid : SId)
  /-- PARK_RESUME: A parked strand issues again in its first slot after its condition holds (R127). -/
  | parkResume (sid : SId)
  /-- REQUEST_RETRY: A refused class 1-3 request is retried after its wait hint (R179). -/
  | requestRetry (sid : SId) (seq : Nat)
  /-- STORE_PERFORMED: A buffered store is performed and acknowledged by its home (R191). -/
  | storePerformed (sid : SId) (delay : BitVec 16)
  /-- FULL_EMPTY_HOME_OPERATION: A full/empty operation is performed at the home, serving waiters in order (R188). -/
  | fullEmptyHomeOperation (word : Nat)
  /-- RANGE_STEP: A range macro processes one line (R198). -/
  | rangeStep (sid : SId)
  /-- REGISTRATION: A copy takes a mailbox and lock-table entry, translates and registers its locks (R202). -/
  | registration (sid : SId)
  /-- COPY_START: The movement strand starts a registered request (R203). -/
  | copyStart (core : Nat)
  /-- BYTE_LANDING: Counted bytes land and are counted at the barrier object (R206). -/
  | byteLanding (core op pick : Nat)
  /-- HELD_FLIP_APPLY: A flip held for message room is applied and posts its message (R209). -/
  | heldFlipApply (core : Nat)
  /-- MESSAGE_ARRIVAL: A message or completion message is accepted into an inbound queue (R210). -/
  | messageArrival (core pick : Nat)
  /-- FOLLOW_ON_START: A CPYX follow-on is handed to the array after its copy completes (R221). -/
  | followOnStart (core : Nat)
  /-- LINK_WORD_ARRIVAL: A pushed word becomes present in a neighbour's link queue (R250). -/
  | linkWordArrival (core port : Nat)
  /-- STREAM_WORD_ARRIVAL: A stream word or closing marker enters the target's stream queue (R262). -/
  | streamWordArrival (core : Nat)
  /-- ROUTE_GRANT: A waiting SOPEN's route is set up when the target is free (R263). -/
  | routeGrant (core : Nat)
  /-- ROUTE_AUTO_CLOSE: An ended task's open route is closed once its stores are performed (R263). -/
  | routeAutoClose (sid : SId)
  /-- SFU_ACCEPT: The cluster SFU accepts a request from the ring (R265). -/
  | sfuAccept (cluster : Nat)
  /-- SFU_RESULT: An SFU result reaches its strand (R265). -/
  | sfuResult (cluster : Nat)
  /-- ARRAY_COMMAND_START: An array command starts when earlier commands started and the array is free (R279). -/
  | arrayCommandStart (core : Nat)
  /-- K_STEP_END: A k-step of an MMA ends and is applied to the bank (R282). -/
  | kStepEnd (core : Nat)
  /-- MZERO_APPLY: A queued MZERO is applied when its bank's earlier commands complete (R280). -/
  | mzeroApply (core : Nat)
  /-- BANK_RELEASE: Banks of an ended strand are released once its array commands complete (R269). -/
  | bankRelease (core : Nat) (bank : BitVec 1)
  /-- SEQUENCER_ACCEPT: A shard's home sequencer accepts and performs one map operation atomically (R308). -/
  | sequencerAccept (sid : SId) (seq : Nat)
  /-- MAPNEW_COMPLETE: MAPNEW's deferred checks and creation are performed (R320). -/
  | mapnewComplete (sid : SId)
  /-- MAPGETN_DISPATCH: The movement strand dispatches one key probe of a MAPGETN (R322). -/
  | mapgetnDispatch (core op : Nat)
  /-- MAPGETN_RESULT: A probe result returns and is written and counted (R322). -/
  | mapgetnResult (core op pick : Nat)
  /-- MAPSCAN_SLICE_STEP: One slice of a scan is taken at the sequencer and written (R325). -/
  | mapscanSliceStep (sid : SId)
  /-- SETTLE_STEP: One MAPSTL sequencer operation performing growth work (R326). -/
  | settleStep (sid : SId)
  /-- MAPCLR_SHARD_STEP: One shard is cleared by a sequencer operation (R327). -/
  | mapclrShardStep (sid : SId)
  /-- MAPINFO_ANSWER: MAPINFO's answer returns and lands (R328). -/
  | mapinfoAnswer (sid : SId)
  /-- WOAD_ARRIVAL: An arrival is sent on a Woad channel once earlier accesses are performed (R332). -/
  | woadArrival (sid : SId)
  /-- WOAD_RELEASE: L cycles after closing, the generation releases its members with its result (R332). -/
  | woadRelease (channel : Nat)
  /-- GANGSTALL_EXPIRY: The stall count reaches 256 and parked members take GANGSTALL (R336). -/
  | gangstallExpiry (gang : Nat)
  /-- QUIESCE_SIGNAL_ARRIVAL: The pre-emption signal reaches a core or gang and fixes the stop vc (R368). -/
  | quiesceSignalArrival (sid : SId)
  /-- DOMAIN_STOP: A draining domain reaches Tf and stops (R369). -/
  | domainStop (sid : SId)
  /-- QUIESCE_MARKER_PASS: An engine's quiesce marker passes (R371). -/
  | quiesceMarkerPass (job : Nat) (engine : Engine)
  /-- MIGRATION_COMPLETE: The destination holds the whole context and the forwarding entry is in place (R394). -/
  | migrationComplete (source dest : Nat)
  /-- DBGCTL_STOP: Writing STOP to DBGCTL requests a debug stop (R383). -/
  | dbgctlStop (sid : SId) (value : Word)
  /-- DBGCTL_GO: Writing GO to DBGCTL resumes or single-steps a stopped or halted strand (R383). -/
  | dbgctlGo (sid : SId) (value : Word)
  /-- DEBUG_STOP: A strand reaches its stop point and leaves the rotation (R384). -/
  | debugStop (sid : SId)
  /-- STEP_STOP: After one stepped group, the strand stops with CODE 0x15 (R385). -/
  | stepStop (sid : SId)
  /-- PAGE_WALK: A walker reads the page table and yields a leaf or a fault (R401). -/
  | pageWalk (cluster job : Nat) (va : Word) (access : Access)
  /-- TLBINV_COMPLETE: TLBINV completes once translated accesses and holding copies are done (R417). -/
  | tlbinvComplete (sid : SId)
  /-- INGRESS_REQUEST: A CXL.mem or Thegor request is served at the line's home L2 (R407). -/
  | ingressRequest (pa : Nat) (request : Ingress) (poison peer : Bool)
  /-- HOST_SNOOP: A host CXL.cache snoop is answered at die 0's L2 after recalls (R405). -/
  | hostSnoop (line : Nat) (data : Option (List Byte))
  /-- COLTAIL_WRITE: A write to COLTAIL posts collective steps or flags an overflow (R414). -/
  | coltailWrite (die : Nat) (value : Word)
  /-- COLHEAD_ERR_CLEAR: Writing 1 to COLHEAD.ERR lets the collective engine run again (R416). -/
  | colheadErrClear (die : Nat)
  /-- COLLECTIVE_STEP_START: The collective engine starts the next posted step (R414). -/
  | collectiveStepStart (die : Nat)
  /-- COLLECTIVE_STEP_END: A collective step ends or fails and COLHEAD advances (R414). -/
  | collectiveStepEnd (die : Nat) (incoming : List Byte) (poison : Bool)
  /-- WATCHDOG_EXPIRY: A step's watchdog expires and the step fails (R416). -/
  | watchdogExpiry (die : Nat)
  /-- MADCFG_CLR: Writing CLR to MADCFG sets every bin to 0 (R425). -/
  | madcfgClr (die : Nat) (value : Word)
  /-- MADDER_SAMPLE: Every SPER-th slot, a strand's state is added to a histogram bin (R426). -/
  | madderSample (sid : SId)
  /-- PTP_MESSAGE: A 1588 message arrives and the time unit is disciplined (R423). -/
  | ptpMessage (lock : Bool) (offset : BitVec 32) (slew : Int) (forward : Nat)
  /-- CLAMP_SAMPLE: Every 1 us, power and temperature are measured and the clock clamped (R429). -/
  | clampSample (watts celsius : Nat)
  /-- DEVICE_RESET: Power-on or host reset brings the device up in order (R431). -/
  | deviceReset (image : List Byte) (signed : Bool) (version : Nat) (boot : Boot)
  /-- RECOVERY_IMAGE_WRITE: The host writes a new image through the recovery window (R428). -/
  | recoveryImageWrite (image : List Byte) (signed : Bool) (version : Nat)
  /-- ATTESTATION_REQUEST: The attestation unit returns a signed report (R430). -/
  | attestationRequest (nonce : Rec512)
  /-- REGISTER_WRITE: A write to a register that has no row of its own (R8). -/
  | registerWrite (address : Nat) (value : Word)
  /-- SOFT_ERROR: A soft error strikes a bit of scratch, a cache level or HBM; it is corrected, or the sector is marked bad (R187). -/
  | softError (struck : Struck) (correctable : Bool)
  /-- HOME_SLICE_REQUEST: A load, atomic or other request beyond scratch is taken at its L2 slice, gateway or LLC, where it is served after recalls or refused with a wait hint (R352). -/
  | homeSliceRequest (sid : SId) (seq : Nat) (refuse : Option (BitVec 6))
  /-- MEMORY_RESPONSE: The response to a load, atomic or host or peer access returns to the issuing core, freeing its outstanding place and adding its delay field (R177). -/
  | memoryResponse (sid : SId) (seq : Nat) (delay : BitVec 16)
  /-- JOB_CREATE: The device runtime creates a job, giving it a job number, a core partition, counters read as 0 and perhaps a phase channel (R66). -/
  | jobCreate (job : Nat) (cores : List Nat) (counters : Nat) (part : Part) (channels : List (Nat × Nat)) (phase : Option Nat)
  /-- JOB_DESTROY: The device runtime destroys a job, ending it, dropping its forwarding entries, releasing its map locks and making its queues refuse with reason 10 (R70). -/
  | jobDestroy (job : Nat)
deriving DecidableEq, Repr

end Sys2Proof
end

