-- ==== Sys2Proof/WellFormed.lean ====
section
/-! DEFINITION. What makes an instruction well formed: the reserved codes of R107 check 4 that the field layout alone does
not shut out, and for a step without a word, that its operands name parts of the device. -/

namespace Sys2Proof

/-- The control registers of R387. -/
def csrNumbers : List Nat :=
  [0x000, 0x001, 0x002, 0x003, 0x004, 0x005, 0x006, 0x007, 0x008, 0x009, 0x00A, 0x00B, 0x00C, 0x00D, 0x00E, 0x00F,
   0x010, 0x011, 0x012, 0x013, 0x014, 0x015, 0x016, 0x018, 0x019, 0x020, 0x021, 0x022, 0x023, 0x024, 0x025, 0x026,
   0x027, 0x030, 0x031, 0x032, 0x034, 0x035, 0x036]

/-- A core identifier that names a core: die below 8, row and column below 24 (R16). -/
def coreIdOk (c : Nat) : Bool := c < 8192 && c % 32 < 24 && c / 32 % 32 < 24

/-- A cluster identifier that names a cluster (R17). -/
def clusterIdOk (k : Nat) : Bool := k < 1024 && k % 16 < 12 && k / 16 % 8 < 6

def SId.ok (x : SId) : Bool := coreIdOk x.core && x.strand < 8

/-- Link-port codes are 60 to 63 (R100). -/
def isLink (f : RField) : Bool := 60 ≤ f.toNat

/-- Types of rows 1 and 2 of R248. -/
def Fmt.isVec (t : Fmt) : Bool := t.isInt || t.isVFloat

/-- The types of the special-function unit (R266). -/
def Fmt.isSfu (t : Fmt) : Bool := t.isVFloat

/-- The pairs that VSAT accepts (R255): integers no wider than the source, or a float type whose largest finite value is
no greater than the source's (in the order .h, .bf, .f, .d of R227). -/
def vsatPair (t u : Fmt) : Bool :=
  (t.isInt && u.isInt && u.bits ≤ t.bits) || (t.isVFloat && u.isVFloat && u.code ≤ t.code)

/-- No reserved code in the fields (R107 check 4), or, for a step without a word, operands that name what they should. -/
def Instr.wf : Instr → Bool
  | .bfx _ _ l p | .bfxS _ _ l p | .bfi _ _ l p => p.toNat + l.toNat + 1 ≤ 64
  | .loop d _ => d ≠ 0
  | .csrr _ n => csrNumbers.contains n.toNat
  | .csrw _ n | .csrs _ n | .csrc _ n => csrNumbers.contains n.toNat
  | .ldv d _ _ _ | .stv d _ _ _ => !isLink d
  | .fence k _ => k ≠ .relaxed
  | .warv c | .wwait c | .wbar c => c.toNat < 24
  | .wsend _ c => c.toNat < 24
  | .wrecv _ c => c.toNat < 24
  | .wredAdd _ _ c | .wredMin _ _ c | .wredMax _ _ c | .wredOr _ _ c => c.toNat < 24
  | .ssend a => !isLink a
  | .srecv d => !isLink d
  | .vadd _ _ _ t | .vsub _ _ _ t | .vmul _ _ _ t | .vdiv _ _ _ t | .vmin _ _ _ t | .vmax _ _ _ t => t.isVec
  | .vfma d _ _ t | .vfms d _ _ t | .vfnma d _ _ t => t.isVec && !isLink d
  | .vmulh _ _ _ t => t.isInt
  | .vabs _ _ t | .vneg _ _ t | .vredadd _ _ t | .vredmin _ _ t | .vredmax _ _ t => t.isVec
  | .vsplat _ _ t | .vmov _ _ t => t.isVec
  | .vclz _ _ t | .vpopc _ _ t => t.isInt
  | .vsat _ _ u t => vsatPair t u
  | .vand _ _ _ t | .vor _ _ _ t | .vxor _ _ _ t | .vandn _ _ _ t | .vshl _ _ _ t | .vshr _ _ _ t
  | .vsar _ _ _ t | .vperm _ _ _ t => t.isInt
  | .vdot4 d _ _ t => (t = .s8 || t = .b8) && !isLink d
  | .vdot2 d _ _ t => (t = .s16 || t = .b16 || t = .h || t = .bf) && !isLink d
  | .vshuf _ _ _ t => t.isVec
  | .vcvt _ _ x y => x ≠ y && x ≠ .q4 && y ≠ .q4
  | .vext _ _ n t => t.isVec && n.toNat < 128 / t.bits
  | .vins d _ n t => t.isVec && n.toNat < 128 / t.bits && !isLink d
  | .vcmp c _ _ _ t => t.isVec && (c ≠ .un || t.isVFloat)
  | .sfexp2 _ _ t | .sflog2 _ _ t | .sfrcp _ _ t | .sfrsq _ _ t | .sfsqrt _ _ t | .sfsin _ _ t | .sfcos _ _ t
  | .sftanh _ _ t | .sfsigm _ _ t | .sferf _ _ t => t.isSfu
  | .brp p _ => p ≠ 0
  | .hrnd m => m.toNat ≤ 4
  | .launchRecord q _ _ | .counterRecord q _ _ | .qcfgWrite q _ => q < 131072
  | .dispatcherTake q => q.all (· < 131072)
  | .phaseAgentArrival _ die => die < 8
  | .pop x | .stealRequest x | .stealReply x | .stealRoundRetry x | .lateEventTest x | .landing x | .deferredEffect x
  | .parkResume x | .rangeStep x | .registration x | .routeAutoClose x | .mapnewComplete x | .mapscanSliceStep x
  | .settleStep x | .mapclrShardStep x | .mapinfoAnswer x | .woadArrival x | .quiesceSignalArrival x | .domainStop x
  | .debugStop x | .stepStop x | .tlbinvComplete x | .madderSample x => x.ok
  | .holdEnd x _ | .requestRetry x _ | .storePerformed x _ | .sequencerAccept x _ | .dbgctlStop x _ | .dbgctlGo x _ => x.ok
  | .homeSliceRequest x _ _ | .memoryResponse x _ _ => x.ok
  | .copyStart c | .heldFlipApply c | .followOnStart c | .streamWordArrival c | .routeGrant c | .arrayCommandStart c
  | .kStepEnd c | .mzeroApply c => coreIdOk c
  | .byteLanding c _ _ | .mapgetnResult c _ _ => coreIdOk c
  | .messageArrival c _ | .mapgetnDispatch c _ | .bankRelease c _ => coreIdOk c
  | .linkWordArrival c p => coreIdOk c && p < 4
  | .sfuAccept k | .sfuResult k => clusterIdOk k
  | .pageWalk k _ _ _ => clusterIdOk k
  | .migrationComplete a b => coreIdOk a && coreIdOk b
  | .ingressRequest pa .read _ _ => pa < 0xC000000000
  | .ingressRequest pa (.write bs) _ _ => pa < 0xC000000000 && bs.length ≤ 128
  | .ingressRequest pa (.atomic _ n _ _ _) _ _ => pa < 0xC000000000 && (n = 4 || n = 8) && pa % n = 0
  | .hostSnoop l w => l < 2 ^ 45 && w.all (fun l => l.length = 128)
  | .coltailWrite die _ | .madcfgClr die _ => die < 8
  | .colheadErrClear die | .collectiveStepStart die | .watchdogExpiry die => die < 8
  | .collectiveStepEnd die _ _ => die < 8
  | .registerWrite a _ => (0x3000000000000 ≤ a && a < 0x4000000000000 && a % 8 = 0) || (2 ^ 52 ≤ a && a < 2 ^ 52 + 512)
  | .jobCreate _ cores _ _ _ _ => cores.all coreIdOk
  | .softError (.scratch c k) _ => coreIdOk c && k < 8192
  | _ => true

end Sys2Proof
end

