-- ==== Sys2Proof/Machine/Registers.lean ====
section
/-! DEFINITION. The device register space as a strand or the debug port reads and writes it (R9, R161, R424, R425), with the
debug windows of strands (R382, R383), and the registers of job and core scope (R388). -/

namespace Sys2Proof.Machine

/-- What a form makes of a register's value (R389). -/
def CsrForm.apply (f : CsrForm) (v x : Word) : Word :=
  match f with | .write => x | .set => v ||| x | .clear => v &&& ~~~x

/-- Writes a register of job scope, or SVEC of a core from its debug window (R382, R388, R389). -/
def State.writeJobCsr (s : State) (core job n : Nat) (x : Word) : State :=
  match n with
  | 0x030 => s.modJob job fun b => { b with tvec := x &&& vecMask }
  | 0x031 => s.modJob job fun b => { b with tmask := x &&& tmaskMask }
  | 0x032 => s.modCore core fun k =>
    { k with svec := x &&& vecMask,
             strands := k.strands.map fun (i, st) => (i, { st with regs := { st.regs with csr := { st.regs.csr with svecIn := none } } }) }
  | 0x034 => s.modJob job fun b => { b with jobcfg := x &&& 1 }
  | 0x035 => s.modJob job fun b => { b with jqdef := x &&& 0xFFFFFFFF }
  | 0x036 => s.modJob job fun b => { b with jwdef := x &&& 0xFFFFFF }
  | _ => s

/-! ## Debug windows -/

def isDbg (a : Nat) : Bool := dbgBase ≤ a && coreIdOk ((a - dbgBase) / 0x8000)
def dbgSid (a : Nat) : SId := ⟨(a - dbgBase) / 0x8000, (a - dbgBase) % 0x8000 / 0x1000⟩
def dbgOff (a : Nat) : Nat := (a - dbgBase) % 0x1000

/-- The window is open while the strand is stopped or halted (R382). -/
def Run.isStopped : Run → Bool
  | .debugStopped | .halted => true
  | _ => false

/-- DBGCTL and DBGSTAT as read (R383). -/
def Strand.dbgctl (st : Strand) : Word := BitVec.ofNat 64 (st.brken.toNat * 8 + st.stepBit.toNat * 4)
def Strand.dbgstat (st : Strand) : Word :=
  BitVec.ofNat 64 (st.dbgCode.toNat * 256 + (st.run = .halted : Bool).toNat * 2 + (st.run = .debugStopped : Bool).toNat)

/-- A dword of a debug window (R382). Writes that a halted strand's earlier instructions have in flight land at their vcs (R130). -/
def State.dbgRead (s : State) (a : Nat) : Word :=
  let x := dbgSid a
  let o := dbgOff a
  let st := (s.strand x).landTo ((s.strand x).vcAt s.clock.cc)
  let part := (s.core x.core).part
  if o = 0xFF0 then st.dbgctl
  else if o = 0xFF8 then st.dbgstat
  else if !st.run.isStopped || 0xFF0 ≤ o then 0
  else if o < 0x400 then (if o / 8 < part.gregs then st.regs.readG (o / 8) else 0)
  else if o < 0x7C0 then
    let n := (o - 0x400) / 16
    if n < part.vregs then BitVec.ofNat 64 (lane (st.regs.readV n) 64 (o / 8 % 2)) else 0
  else if o < 0x800 then (st.regs.readP ((o - 0x7C0) / 8)).setWidth 64
  else if o < 0x840 then (st.regs.readQ ((o - 0x800) / 8)).setWidth 64
  else if 0x900 ≤ o && o < 0xB00 then s.csrRead x (st.vcAt s.clock.cc) ((o - 0x900) / 8)
  else if o = 0xB00 then st.pc
  else 0

/-- A write below 0xFF0 of a debug window (R382): g0 and RO fields ignore it. -/
def State.dbgWrite (s : State) (a : Nat) (v : Word) : State :=
  let x := dbgSid a
  let o := dbgOff a
  let part := (s.core x.core).part
  let regs (f : Regs → Regs) : State := s.modStrand x fun st =>
    let st := st.landTo (st.vcAt s.clock.cc)
    { st with regs := f st.regs }
  if !(s.strand x).run.isStopped || 0xFF0 ≤ o then s
  else if o < 0x400 then (if o / 8 < part.gregs then regs fun r => r.writeG (o / 8) v else s)
  else if o < 0x7C0 then
    let n := (o - 0x400) / 16
    if n < part.vregs then regs fun r => r.writeV n (ofLanes 64 ((lanes (r.readV n) 64).set (o / 8 % 2) v.toNat)) else s
  else if o < 0x800 then regs fun r => r.writeP ((o - 0x7C0) / 8) (v.setWidth 16)
  else if o < 0x840 then regs fun r => { r with csr := r.csr.write (0x20 + (o - 0x800) / 8) v }
  else if 0x900 ≤ o && o < 0xB00 then
    let n := (o - 0x900) / 8
    if n = 0x019 then s.setWmem x (v.setWidth 24)
    else if csrIsJob n || n = 0x032 then s.writeJobCsr x.core (s.jobOf x) n v
    else regs fun r => { r with csr := r.csr.write n v }
  else if o = 0xB00 then s.modStrand x fun st => { st with pc := v &&& ~~~3 }
  else s

/-! ## Reads -/

/-- Madder's bins lie above offset 0x8_0000 of each engine's block (R425). -/
def isBin (a : Nat) : Bool := madBase ≤ a && a < madBase + 0x800000 && 0x80000 ≤ (a - madBase) % 0x100000 && (a - madBase) % 0x100000 < 0xC0000
def binKey (a : Nat) : Nat := (a - madBase) / 0x100000 * 65536 + ((a - madBase) % 0x100000 - 0x80000) / 4

/-- A dword of the device register space; an address that names no register reads 0 (R161). -/
def State.deviceRead (s : State) (a : Nat) : Word :=
  if isDbg a then s.dbgRead a
  else if a = timestat then BitVec.ofNat 64 (s.clock.lock.toNat * 2 ^ 63 + s.clock.offset.toNat)
  else if isBin a then
    BitVec.ofNat 64 ((Tab.get 0 s.mem.bins (binKey a)).toNat + (Tab.get 0 s.mem.bins (binKey a + 1)).toNat * 2 ^ 32)
  else if (devMask a).isSome then s.mem.devReg a
  else 0

end Sys2Proof.Machine
end

