-- ==== Sys2Proof/Machine/MemOps.lean ====
section
/-! DEFINITION. Accesses to memory as the home, the L1 slice or the core performs them: range locks (R216, R283, R303),
check codes (R185, R186), race detection (R342 to R345), software-managed lines (R171, R172), loads, stores, STN, atomics
(R351, R352) and full/empty operations (R188, R194, R195). -/

namespace Sys2Proof.Machine

/-- What comes of performing an effect: done, a fault, or a park until it can be performed (R133, R432). The state of the last
two keeps what a macro has completed (R120). -/
inductive EffRes where
  | done (s : State)
  | fault (s : State) (t : TrapInfo)
  | park (s : State) (reason : ParkReason)

/-! ## Range locks -/

def meets (l n : Nat) (r : Nat × Nat) : Bool := r.1 < l + n && l < r.1 + r.2

/-- Write locks of engine operations (R216). -/
def State.writeLocked (s : State) (l n : Nat) : Bool := s.cores.any fun (_, k) => k.ops.any fun o => o.wlocks.any (meets l n)

/-- Read locks of engine operations (R216, R283), barrier objects of copies among them (R207). -/
def State.readLocked (s : State) (l n : Nat) : Bool :=
  s.cores.any fun (_, k) => (k.ops.any fun o => o.rlocks.any (meets l n)) || k.array.any fun a => a.locks.any (meets l n)

/-- The lock of a live map: its descriptor and arena (R303). -/
def State.mapLocked (s : State) (l n : Nat) : Bool :=
  s.mem.maps.any fun v => meets l n (v.desc, 128) || v.arena.any (meets l n)

/-- A load meets write locks of engine operations (R216). -/
def State.loadLocked (s : State) (l n : Nat) : Bool := s.writeLocked l n
/-- A store, STN, atomic or full/empty operation meets every lock (R207, R216, R303). -/
def State.storeLocked (s : State) (l n : Nat) : Bool := s.writeLocked l n || s.readLocked l n || s.mapLocked l n

/-! ## Traps of accesses -/

/-- MEMRACE with the first conflicting byte and the other strand (R345); ea stands at location l. -/
def raceTrap (ea : Word) (l : Nat) (y : SId) (nibble : Nat) : TrapInfo :=
  ⟨.memrace, ea + BitVec.ofNat 64 (nibble / 2 - l), otherWord y⟩

/-- INTEGRITY with the sector's address (R186): the sector has the same offset in its page and its line. -/
def badTrap (ea : Word) : TrapInfo := trapOf .integrity (ea &&& ~~~31)

/-- SCHEDULE for a slot whose tag differs (R142). -/
def scheduleTrap (slot : Nat) (found expected : BitVec 16) : TrapInfo :=
  trapOf .schedule (BitVec.ofNat 64 (slot * 2 ^ 32 + found.toNat * 2 ^ 16 + expected.toNat))

def State.tagAt (s : State) (l : Nat) : BitVec 16 := Tab.get 0 (s.core (locCore l)).tags (locOff l / 4096)

/-! ## Software-managed copies (R171, R172) -/

/-- The untracked copy of a line in a cluster's L1. -/
def State.untracked (s : State) (cluster line : Nat) : Option CacheLine := s.mem.untracked cluster line

/-- A byte as a cluster's accesses find it: its L1's untracked copy, else coherent memory (R171). -/
def State.clusterByte (s : State) (cluster l : Nat) : Byte :=
  match s.untracked cluster (l / 128) with
  | some e => (Tab.find? e.bytes l).getD (s.byteAt l)
  | none => s.byteAt l

/-- The cluster's copy of a line leaves the directory's record: it holds its own bytes from then on, stores that open regions of its
strands hold back among them. -/
def State.release (s : State) (cluster line : Nat) : State :=
  let bytes := (List.range 128).map fun i => (128 * line + i, s.l1Byte cluster (128 * line + i))
  s.modMem fun m =>
    (m.flushLine line (· = .l1 cluster)).modCopy (.l1 cluster) line fun e => { e with untracked := true, bytes := bytes }

/-- The passage of a software-managed access (R171): a miss fetches the line without its being recorded, and a store leaves the
copy untracked. -/
def State.passUntracked (s : State) (cluster line : Nat) (c : EvictClass) (write : Bool) : State :=
  let t := s.touchPath cluster line c
  match s.mem.cached (.l1 cluster) line with
  | none => t.release cluster line
  | some e => if write && !e.untracked then t.release cluster line else t

/-- A copy with bytes written into it, which are dirty there. -/
def CacheLine.put (e : CacheLine) (l : Nat) (bs : List Byte) : CacheLine :=
  { e with bytes := bs.zipIdx.foldl (fun t (b, i) => Tab.put t (l + i) b) e.bytes,
           dirty := (List.range bs.length).foldl (fun t i => NSet.put t (l + i)) e.dirty }

/-- Writes bytes into an untracked copy, which becomes dirty there. -/
def State.writeUntracked (s : State) (cluster l : Nat) (bs : List Byte) : State :=
  let upd (e : CacheLine) : CacheLine :=
    if e.place = Place.l1 cluster && e.line = l / 128 && e.untracked then e.put l bs else e
  s.modMem fun m => { m with cache := m.cache.map upd }

/-- A page whose lines may be cached (R408): its leaf is not RemoteOwned. -/
def State.cacheable (s : State) (x : SId) (ea : Word) : Bool :=
  match s.leaf (clusterOf x.core) (s.jobOf x) ea.toNat with | some e => ePst e ≠ 2 | none => false

/-- An access passes through caches: it is beyond scratch and the device registers, of a page whose lines may be cached. -/
def State.caches (s : State) (x : SId) (ea : Word) (l : Nat) : Bool := !(isScratchLoc l || isDev l) && s.cacheable x ea

/-- The passage of an access through the caches (R166, R168, R171, R175). -/
def State.pass (s : State) (x : SId) (ea : Word) (l : Nat) (q : Policy) (write : Bool) : State :=
  let cl := clusterOf x.core
  let c := evictClass q ea.toNat
  if !s.caches x ea l then s
  else if polSwm q then s.passUntracked cl (l / 128) c write
  else if write then (s.touchPath cl (l / 128) c).own cl (l / 128)
  else s.touchPath cl (l / 128) c

/-- The passage of an operation that is performed at the line's home L2 (R188, R352). -/
def State.passHome (s : State) (x : SId) (ea : Word) (l : Nat) (q : Policy) (write : Bool) : State :=
  if s.caches x ea l then s.homeAccess (l / 128) (evictClass q ea.toNat) write else s

/-- An access is software-managed: by its policy, or by the untracked copy that it uses (R171, R346). -/
def State.managed (s : State) (x : SId) (l : Nat) (q : Policy) : Bool :=
  polSwm q || (s.untracked (clusterOf x.core) (l / 128)).isSome

/-- A read that reaches the home copy of a line with another strand's shadow writer raises MEMRACE (R172). -/
def State.shadowTrap (s : State) (x : SId) (ea : Word) (l : Nat) : Option TrapInfo :=
  (Tab.find? s.mem.shadow (l / 128)).bind fun y => if y = x then none else some ⟨.memrace, ea, otherWord y⟩

/-! ## Regions around an access -/

/-- Before an access: a synchronising one ends the open region, and one that brings too many lines (R341, R342). -/
def State.before (s : State) (x : SId) (sync : Bool) (l n : Nat) : State := if sync then s.endRegion x else s.makeRoom x l n
/-- After an access: it is in the open region, or forms one of its own (R341). -/
def State.after (s : State) (x : SId) (sync : Bool) (l n : Nat) (span : Span) : State :=
  if sync then s.endRegion x else s.track x l n span

/-! ## Loads -/

/-- A byte as a strand reads it: what its cluster's untracked copy holds, which has its own stores, else coherent memory with its
region's own stores (R171, R191). -/
def State.seenByte (s : State) (x : SId) (l : Nat) : Byte :=
  if (s.untracked (clusterOf x.core) (l / 128)).isSome then s.clusterByte (clusterOf x.core) l else s.regionByte x l

/-- A plain load of n bytes at location l, performed (R190 checks 5 to 7, R342, R346): its bytes or its fault. -/
def State.loadAt (s : State) (x : SId) (ea : Word) (l n : Nat) (q : Policy) : State × (List Byte ⊕ TrapInfo) :=
  if isDev l then (s, .inl (leBytes n (s.deviceRead l).toNat))
  else
    let s := s.before x (isSync q) l n
    let cl := clusterOf x.core
    if s.loadLocked l n then (s, .inr (trapOf .rangelock ea))
    else match firstBadOf (s.badFor cl) l n with
      | some b => (s, .inr (badTrap (ea + BitVec.ofNat 64 (b - l))))
      | none => match s.conflict x (2 * l) (2 * n) false (s.managed x l q) with
        | some (y, k) => (s, .inr (raceTrap ea l y k))
        | none => match (if (s.untracked cl (l / 128)).isSome then none else s.shadowTrap x ea l) with
          | some t => (s, .inr t)
          | none =>
            ((s.pass x ea l q false).after x (isSync q) l n ⟨2 * l, 2 * n, false, s.managed x l q⟩,
              .inl ((List.range n).map fun i => s.seenByte x (l + i)))

/-- Bytes written over bytes that start at location l, where they meet. -/
def overBytes (l : Nat) (bs : List Byte) (m : Nat) (ws : List Byte) : List Byte :=
  bs.zipIdx.map fun (b, i) => if m ≤ l + i && l + i < m + ws.length then ws.getD (l + i - m) b else b

/-- A nibble replaced in a byte (R196). -/
def putNibble (b : Byte) (hi : Bool) (x : BitVec 4) : Byte :=
  if hi then (b &&& 0x0F) ||| (x.setWidth 8 <<< 4) else (b &&& 0xF0) ||| x.setWidth 8

/-- Where a deferred store will write: the place of its translation, that of a write-blocked page's leaf among them. -/
def State.storeLoc (s : State) (x : SId) (ea : Word) (loc : Option (Nat × Option Word)) (q : Policy) : Option Nat :=
  match loc with
  | some (l, _) => some l
  | none => match s.resolve x ea q { Need.write with blocks := false, dev := true } with | .at_ l _ => some l | _ => none

/-- A read sees the strand's own earlier stores whose effects are still deferred (R191, R220). -/
def State.overlay (s : State) (x : SId) (seq l : Nat) (bs : List Byte) : List Byte :=
  ((s.strand x).deferred.filter fun e => e.seq < seq).foldl (fun bs e =>
    match e.eff with
    | .store ea p n v q => (match s.storeLoc x ea p q with | some m => overBytes l bs m (leBytes n v.toNat) | none => bs)
    | .stn ea p hi v q => (match s.storeLoc x ea p q with
        | some m => bs.zipIdx.map fun (b, i) => if l + i = m then putNibble b hi v else b
        | none => bs)
    | _ => bs) bs

/-- Reads n pieces of 32 bytes of a record as a strand's plain reads (R42), or the first fault. -/
def State.readPieces (s : State) (x : SId) (ea : Word) : Nat → State × (List Byte ⊕ TrapInfo)
  | 0 => (s, .inl [])
  | n + 1 =>
    match s.resolve x ea 0 Need.read with
    | .bad t => (s.countWalk x ea 0, .inr t)
    | .blocked => (s, .inr (trapOf .perm ea))
    | .at_ l _ =>
      match (s.countWalk x ea 0).loadAt x ea l 32 0 with
      | (s, .inr t) => (s, .inr t)
      | (s, .inl bs) => match s.readPieces x (ea + 32) n with
        | (s, .inl cs) => (s, .inl (s.overlay x (s.strand x).seq l bs ++ cs))
        | r => r



/-- A record of n bytes at an address that is a multiple of `align` (R41, R42). -/
def State.readRecord (s : State) (x : SId) (ea : Word) (align n : Nat) : State × (Nat ⊕ TrapInfo) :=
  if ea.toNat % align ≠ 0 then (s, .inr (trapOf .misalign ea))
  else match s.readPieces x ea (n / 32) with
    | (s, .inl bs) => (s, .inl (leNat bs))
    | (s, .inr t) => (s, .inr t)

/-- The register writes of a load's bytes (R192, R193). -/
def LoadDest.writes (d : LoadDest) (bs : List Byte) : List Dest :=
  let v := leNat bs
  match d with
  | .g n signed => [.g n (if signed then sext (BitVec.ofNat 64 v) (8 * bs.length) else BitVec.ofNat 64 v)]
  | .pair n => [.g n (BitVec.ofNat 64 v), .g (n + 1) (BitVec.ofNat 64 (v / 2 ^ 64))]
  | .v n => [.v n (BitVec.ofNat 128 v)]

/-! ## Stores -/

/-- The translation of a store or of a copy's page misses the cluster's TLB (R124, R190, R202): its walk ends as many core cycles
later as the first entry of `choices` names, and until then the domain does not enter vc t, or a later one where that is known too late
(R434). -/
def State.walkLate (s : State) (x : SId) (va : Word) (loc t : Nat) : State :=
  if isScratchLoc loc || (s.heldLeaf (clusterOf x.core) (s.jobOf x) va.toNat).isSome then s
  else match s.choices with
    | [] => s
    | n :: rest =>
      let s : State := { s with choices := rest }
      if n = 0 then s
      else (s.noteLate x (.walk (va.toNat / 4096)) t).post n (.pageWalk (clusterOf x.core) (s.jobOf x) va .write)

/-- A slice refuses a request of class 1 to 3 that misses, with a wait hint h, and then for as long as the line has not come, four times
at most (R179). How long that is, and each h, is open: the first entry of `choices` names the hint of the first refusal, each further
one another refusal, h + 1 for its hint h, or 0 for none (notes/assumptions/57.md). A refusal costs 8 (h + 1) core cycles. -/
def State.refusals : Nat → Bool → State → State × Nat
  | 0, _, s => (s, 0)
  | n + 1, first, s =>
    match s.choices with
    | [] => (s, if first then 8 else 0)
    | c :: rest =>
      if c = 0 && !first then ({ s with choices := rest }, 0)
      else
        let r := State.refusals n false { s with choices := rest }
        (r.1, 8 * ((if first then c else c - 1) % 64 + 1) + r.2)

/-- A cluster's request for a line reaches a slice that misses: no L1 copy of its own, no gateway copy on its way, and no copy in the
home L2 (R166, R179). -/
def State.slicesMiss (s : State) (cluster line : Nat) (l1 : Bool) : Bool :=
  !(l1 && (s.mem.cached (.l1 cluster) line).isSome) &&
    ((nearPath (clusterDie cluster) (128 * line)).filter (placeLevel · < 3)).all fun p => (s.mem.cached p line).isNone

/-- A store's or an atomic's place when it is performed: that of its translation at issue (R190), or of a walk where its page was
write-blocked then (R403). -/
def State.storePlace (s : State) (x : SId) (ea : Word) (loc : Option (Nat × Option Word)) (q : Policy) (n : Need) : Place1 :=
  match loc with
  | some (l, leaf) => .at_ l leaf
  | none => s.resolve x ea q n

/-- The policy and the location of a request beyond scratch that a slice serves; a map operation's location is its handle's. -/
def State.requestHome (s : State) (x : SId) (r : Request) : Option (Policy × Nat) :=
  let beyond (q : Policy) (l : Nat) : Option (Policy × Nat) := if isScratchLoc l || isDev l then none else some (q, l)
  match r with
  | .load _ l _ _ q | .fe _ _ l _ _ q => beyond q l
  | .atomic _ _ ea p _ _ _ _ q => (match s.storePlace x ea p q { kind := .read } with | .at_ l _ => beyond q l | _ => none)
  | .mapKey c => (match s.resolve x c.handle c.q { kind := .read } with | .at_ l _ => beyond c.q l | _ => none)
  | .counter _ _ | .sfu _ _ _ _ _ _ => none

/-- A request travels in class 0 (R176). -/
def State.classZero (s : State) (x : SId) (r : Request) : Bool := (s.requestHome x r).any fun h => polTc h.1 = 0

/-- Enters a store beyond scratch in the store buffer; one that finds eight makes the vc after it late (R124, R191, R434). `miss` says
that its line misses; a refusal of it delays its acknowledgement, and with it those of later stores (R177, R179). -/
def State.buffer (s : State) (x : SId) (l issue : Nat) (q : Policy) (miss : Bool) : State :=
  let r : State × Nat := if miss && polTc q ≠ 0 then s.refusals 4 true else (s, 0)
  let s := if 8 ≤ (r.1.strand x).storeBuf.length then r.1.noteLate x .store (issue + 1) else r.1
  let due := (s.strand x).storeBuf.foldl (fun m b => Nat.max m b.due) (s.clock.cc + r.2)
  (s.modStrand x fun st => { st with storeBuf := st.storeBuf ++ [⟨l, decide (polTc q = 0), due⟩] }).post (due - s.clock.cc)
    (.storePerformed x 0)

/-- A store beyond scratch goes through the caches and enters the store buffer. In checking mode a software-managed one leaves its
strand as the line's shadow writer (R172). -/
def State.passStore (s : State) (x : SId) (ea : Word) (l issue : Nat) (q : Policy) : State :=
  let miss := s.caches x ea l && s.slicesMiss (clusterOf x.core) (l / 128) true
  let t := (s.pass x ea l q true).buffer x l issue q miss
  if polSwm q && s.caches x ea l && bitOf (s.job (s.jobOf x)).jobcfg 0 then
    t.modMem fun m => { m with shadow := Tab.put m.shadow (l / 128) x }
  else t

/-- Writes bytes where a store's write goes: scratch at once, an untracked copy, or the region's held stores (R171, R191,
R342). -/
def State.storeBytes (s : State) (x : SId) (ea : Word) (l issue : Nat) (bs : List Byte) (q : Policy) : State :=
  let cl := clusterOf x.core
  if isScratchLoc l then s.write l bs
  else
    let s := s.passStore x ea l issue q
    if (s.untracked cl (l / 128)).isSome then s.writeUntracked cl l bs else s.hold x ea.toNat l issue bs

/-- A store of n bytes performed (R190, R192): locks, race detection, the write. A store to scratch is written in its own slot
(R191); what its region has written so, no other strand can read without completing a conflict (R344). -/
def State.performStore (s : State) (x : SId) (ea : Word) (loc : Option (Nat × Option Word)) (n issue : Nat) (v : VWord)
    (q : Policy) : EffRes :=
  match s.storePlace x ea loc q { Need.write with dev := n = 8 } with
  | .bad t => .fault s t
  | .blocked => .park s .writeBlocked
  | .at_ l _ =>
    if isDev l then .done (s.post 0 (.registerWrite l (v.setWidth 64)))
    else if s.storeLocked l n then .fault s (trapOf .rangelock ea)
    else
      let s := s.before x (isSync q) l n
      let m := s.managed x l q
      match s.conflict x (2 * l) (2 * n) true m with
      | some (y, k) => .fault s (raceTrap ea l y k)
      | none => .done ((s.storeBytes x ea l issue (leBytes n v.toNat) q).after x (isSync q) l n ⟨2 * l, 2 * n, true, m⟩)

/-- STN performed (R196): one read-modify-write of a byte, conflicting by nibbles (R343). -/
def State.performStn (s : State) (x : SId) (ea : Word) (loc : Option (Nat × Option Word)) (hi : Bool) (v : BitVec 4) (issue : Nat)
    (q : Policy) : EffRes :=
  match s.storePlace x ea loc q Need.write with
  | .bad t => .fault s t
  | .blocked => .park s .writeBlocked
  | .at_ l _ =>
    if s.storeLocked l 1 then .fault s (trapOf .rangelock ea)
    else
      let s := s.before x (isSync q) l 1
      let lo := 2 * l + hi.toNat
      let m := s.managed x l q
      match s.conflict x lo 1 true m with
      | some (y, k) => .fault s (raceTrap ea l y k)
      | none =>
        let cl := clusterOf x.core
        let t :=
          if isScratchLoc l then s.setByte l (putNibble (s.byteAt l) hi v)
          else
            let s := s.passStore x ea l issue q
            if (s.untracked cl (l / 128)).isSome then s.writeUntracked cl l [putNibble (s.seenByte x l) hi v]
            else s.modStrand x fun st => { st with region := { st.region with
              held := st.region.held ++ [⟨l, if hi then 0xF0 else 0x0F, putNibble 0 hi v, ea.toNat, issue⟩] } }
        .done (t.after x (isSync q) l 1 ⟨lo, 1, true, m⟩)

/-! ## Atomics (R351, R352) -/

/-- The new value of an atomic of n bytes (R351). -/
def atomicNew (op : AOp) (n mode : Nat) (ftz : Bool) (old y : Nat) : Nat :=
  let w := 8 * n
  let a : Int := signedField w old
  let b : Int := signedField w y
  match op with
  | .add => (old + y) % 2 ^ w
  | .and => old &&& y
  | .or => old ||| y
  | .xor => old ^^^ y
  | .min => if b < a then y else old
  | .max => if a < b then y else old
  | .minz => Nat.min old y
  | .maxz => Nat.max old y
  | .xchg | .cas => y
  | .fadd =>
    let t : Fmt := if n = 4 then .f else .d
    pack t mode 0 ftz (sumFV [unpackFtz t ftz old, unpackFtz t ftz y] (mode = 3))

/-- An atomic at its place, as one step (R352): the old value or its fault. A failing ACAS counts as a read. -/
def State.atomicAt (s : State) (x : SId) (op : AOp) (n : Nat) (ea : Word) (l : Nat) (y c : Word) (mode : Nat) (q : Policy) :
    State × (Nat ⊕ TrapInfo) :=
  let s := s.endRegion x
  let old := s.natAt l n
  let writes := !(op = .cas && old ≠ c.toNat % 2 ^ (8 * n))
  if s.storeLocked l n then (s, .inr (trapOf .rangelock ea))
  else match s.firstBad l n with
    | some b => (s, .inr (badTrap (ea + BitVec.ofNat 64 (b - l))))
    | none => match ((s.conflict x (2 * l) (2 * n) writes (polSwm q)).map fun (z, k) => raceTrap ea l z k).or (s.shadowTrap x ea l) with
      | some t => (s, .inr t)
      | none =>
        let v := atomicNew op n (mode % 8) (mode / 8 = 1) old (y.toNat % 2 ^ (8 * n))
        let s := s.passHome x ea l q writes
        (if writes then s.write l (leBytes n v) else s, .inl old)

/-! ## Responses (R427) -/

/-- Adds a response's delay field to an accumulator of the issuing core (R427). -/
def State.addDelay (s : State) (core : Nat) (bank : Option Nat) (d : Nat) : State :=
  match bank with
  | some b => s.modCore core fun k => { k with delays := Tab.put k.delays b (Tab.get 0 k.delays b + BitVec.ofNat 64 d) }
  | none => s

/-- The accumulator of a response for a line: its L2 slice's (R427). -/
def lineBank (l : Nat) : Option Nat := if isScratchLoc l || isDev l then none else some (l2SliceOf l)

/-- A response that comes within the step that served it: its delay field is the first entry of `choices` (R427;
notes/assumptions/1.md). -/
def State.respondDelay (s : State) (x : SId) (bank : Option Nat) : State :=
  match bank, s.choices with
  | some _, d :: rest => State.addDelay { s with choices := rest } x.core bank (d % 65536)
  | _, _ => s

/-! ## Full/empty operations (R188, R194, R195) -/



/-- A request is served at its home: what will land, and its fault. The response follows. -/
def State.serve (s : State) (x : SId) (seq : Nat) (ds : List Dest) (t : Option TrapInfo) : State :=
  (s.modStrand x fun st => st.setStage seq (.served ds t)).post 0 (.memoryResponse x seq 0)



/-- Faults of a full/empty operation at its home, in the order of R190. -/
def State.feTrap (s : State) (x : SId) (op : FeOp) (ea : Word) (l : Nat) (q : Policy) : Option TrapInfo :=
  if s.storeLocked l 8 then some (trapOf .rangelock ea)
  else match (if op.reads then s.firstBad l 8 else none) with
    | some b => some (badTrap (ea + BitVec.ofNat 64 (b - l)))
    | none => ((s.conflict x (2 * l) 16 (op ≠ .ldfp) (polSwm q)).map fun (y, k) => raceTrap ea l y k).or
        (if op.reads then s.shadowTrap x ea l else none)

/-- Waiting requests of the home slice of a word (R188). -/
def State.waitersAt (s : State) (l : Nat) : Nat :=
  (s.mem.waiters.filter fun w => !isScratchLoc w.loc && homeDie w.loc = homeDie l && l2SliceOf w.loc = l2SliceOf l).length

end Sys2Proof.Machine
end

