-- ==== Sys2Proof/Machine/CopyOps.lean ====
section
/-! DEFINITION. Copies (R50 to R56, R202 to R222): the layout record and its checks, the elements of a window, registration
with its locks and captured bytes, start, landing, barrier objects (R205 to R209), stamps and completion. -/

namespace Sys2Proof.Machine

/-! ## Layout records (R50, R51) -/

def layBase (r : Rec768) : Nat := bitsOf r 56 0
def layRank (r : Rec768) : Nat := bitsOf r 59 57
def layFmt (r : Rec768) : Nat := bitsOf r 63 60
def layFill (r : Rec768) : Nat := bitsOf r 127 64
def layOob (r : Rec768) : Nat := bitsOf r 129 128
def layBank (r : Rec768) : Nat := bitsOf r 133 130
def laySeq (r : Rec768) : BitVec 16 := BitVec.ofNat 16 (bitsOf r 149 134)
def layDst (r : Rec768) : Nat := bitsOf r 167 150
def layMeshd (r : Rec768) : Nat := bitsOf r 170 168
def layMx (r : Rec768) : Nat := bitsOf r 175 171
def layMy (r : Rec768) : Nat := bitsOf r 180 176
def layMw (r : Rec768) : Nat := bitsOf r 185 181
def layMh (r : Rec768) : Nat := bitsOf r 190 186
def layMblk (r : Rec768) : Nat := bitsOf r 207 192
def layExt (r : Rec768) (i : Nat) : Nat := bitsOf r (231 + 24 * i) (208 + 24 * i)
def layWin (r : Rec768) (i : Nat) : Nat := bitsOf r (343 + 16 * i) (328 + 16 * i)
def layOrg (r : Rec768) (i : Nat) : Int := signedField 24 (bitsOf r (431 + 24 * i) (408 + 24 * i))
def layStr (r : Rec768) (i : Nat) : Nat := bitsOf r (567 + 40 * i) (528 + 40 * i)

/-- A .q4 window moves bytes of two codes (R52). -/
def layQ4 (r : Rec768) : Bool := layFmt r = 14
/-- Bytes of one unit that moves whole: an element, or a pair of .q4 codes (R51, R52). -/
def layUnit (r : Rec768) : Nat := if layQ4 r then 1 else match Fmt.ofCode (layFmt r) with | some t => t.bits / 8 | none => 1
/-- Bytes of the fill value of one unit: the low bits of FILL that an element holds, for each code of a .q4 pair (R53). -/
def layFillBytes (r : Rec768) : List Byte :=
  if layQ4 r then [BitVec.ofNat 8 (layFill r % 16 * 17)] else leBytes (layUnit r) (layFill r)
/-- The two .q4 codes of a byte may go to different places: dimension 0 is mapped in blocks of an odd number of codes (R55). -/
def laySplit (r : Rec768) : Bool := layQ4 r && layMeshd r = 1 && layMblk r % 2 = 1
/-- Elements of dimension i in one unit: two where the codes of a byte move together. -/
def layPer (r : Rec768) (i : Nat) : Nat := if i = 0 && layQ4 r && !laySplit r then 2 else 1
/-- Window extent of dimension i in units. -/
def layUnits (r : Rec768) (i : Nat) : Nat := layWin r i / layPer r i

/-- Extent of the local window of dimension i on one core, in elements (R55). -/
def layLocal (r : Rec768) (i : Nat) : Nat :=
  if layMeshd r = i + 1 then
    let b := layMblk r
    let n := layMw r * layMh r
    ((layWin r i + b - 1) / b + n - 1) / n * b
  else layWin r i

/-- The local window's footprint in half bytes (R56 check 13). -/
def layFootprint (r : Rec768) : Nat :=
  (List.range (layRank r)).foldl (fun a i => a * layLocal r i) (if layQ4 r then 1 else 2 * layUnit r)

/-- The lowest bit of a range that is 1. -/
def lowestBit {n : Nat} (r : BitVec n) (hi lo : Nat) : Option Nat :=
  (List.range (hi + 1 - lo)).findSome? fun i => if bitOf r (lo + i) then some (lo + i) else none

/-- The layout checks in order: EVAL of the first that fails (R56). -/
def layoutBad (r : Rec768) : Option Nat :=
  let rank := layRank r
  let dims := List.range 5
  let beyond := dims.filter fun i => rank ≤ i
  match lowestBit r 191 191, lowestBit r 767 728 with
  | some b, _ => some b
  | none, some b => some b
  | none, none =>
    if rank = 0 || 5 < rank then some 57
    else if layFmt r = 15 then some 60
    else if 2 ≤ layOob r then some 128
    else if 8 ≤ layBank r then some 130
    else match beyond.find? (fun i => layExt r i ≠ 0) with
      | some i => some (208 + 24 * i)
      | none => match beyond.find? (fun i => layWin r i ≠ 0) with
        | some i => some (328 + 16 * i)
        | none => match beyond.find? (fun i => layOrg r i ≠ 0) with
          | some i => some (408 + 24 * i)
          | none => match beyond.find? (fun i => layStr r i ≠ 0) with
            | some i => some (528 + 40 * i)
            | none => match dims.find? (fun i => i < rank && layWin r i = 0) with
              | some i => some (328 + 16 * i)
              | none =>
                if layQ4 r && (layStr r 0 ≠ 0 || layExt r 0 % 2 ≠ 0 || layWin r 0 % 2 ≠ 0 || layOrg r 0 % 2 ≠ 0) then some 528
                else if 5 < layMeshd r || rank < layMeshd r then some 168
                else if layMeshd r = 0 && (layMx r ≠ 0 || layMy r ≠ 0 || layMw r ≠ 0 || layMh r ≠ 0 || layMblk r ≠ 0) then some 171
                else if layMeshd r ≠ 0 && (layMw r = 0 || 24 < layMw r || layMh r = 0 || 24 < layMh r || 24 < layMx r + layMw r ||
                    24 < layMy r + layMh r || layMblk r = 0) then some 181
                else if !layQ4 r && layDst r % layUnit r ≠ 0 then some 150
                else if 2 * 262144 < 2 * layDst r + layFootprint r then some 150
                else none

/-! ## Elements of a window (R52 to R55) -/

/-- One unit of a window: its global address unless it is out of bounds, the core of its scratch place, and the offset; for a code
that moves alone, whether it is the upper one of its global and of its scratch byte (R52, R55). -/
structure Elem where
  addr : Option Nat
  core : Nat
  off : Nat
  half : Option (Bool × Bool)

/-- The bank interleave of an offset (R54). -/
def interleave (k o : Nat) : Nat := if k = 0 then o else o ^^^ (o / 2 ^ (k + 7) % 16 * 16)

/-- The unit at window index w (R52, R54, R55); `tensor` gives the tensor index of dimension i. -/
def layElem (r : Rec768) (core : Nat) (w : List Nat) (tensor : Nat → Int) : Elem :=
  let rank := layRank r
  let elem (i : Nat) : Int := tensor i * layPer r i
  let real := (List.range rank).all fun i => 0 ≤ elem i && elem i < layExt r i
  let addr := (List.range rank).foldl (fun a i =>
    a + (if i = 0 && layQ4 r then (elem 0).toNat / 2 else (elem i).toNat * layStr r i)) (layBase r) % 2 ^ 64
  let m := layMeshd r
  let n := layMw r * layMh r
  let blk := layMblk r
  let idx := w.getD (m - 1) 0 * layPer r (m - 1)
  let j := idx / blk
  let k := if m = 0 then 0 else j % n
  let lw (i : Nat) : Nat := if m = i + 1 then j / n * blk + idx % blk else w.getD i 0 * layPer r i
  let p := (List.range rank).reverse.foldl (fun a i => a * layLocal r i + lw i) 0
  { addr := if real then some addr else none,
    core := if m = 0 then core else coreIdOf (coreDie core) (layMy r + k / layMw r) (layMx r + k % layMw r),
    off := interleave (layBank r) (layDst r + if layQ4 r then p / 2 else p * layUnit r),
    half := if laySplit r then some ((elem 0).toNat % 2 = 1, p % 2 = 1) else none }

/-- Mixed-radix digits of a window position, dimension 0 first. -/
def winDigits (r : Rec768) : Nat → Nat → List Nat
  | 0, _ => []
  | d + 1, p =>
    let i := layRank r - (d + 1)
    p % layUnits r i :: winDigits r d (p / layUnits r i)

/-- The units of a window in ascending order (R54). -/
def layElems (r : Rec768) (core : Nat) : List Elem :=
  let total := (List.range (layRank r)).foldl (fun a i => a * layUnits r i) 1
  (List.range total).map fun p =>
    let w := winDigits r (layRank r) p
    layElem r core w fun i => layOrg r i / layPer r i + w.getD i 0

/-- The units of one row of GATH or SCAT: index j of the last dimension stands for tensor index t (R222). -/
def layRow (r : Rec768) (core j : Nat) (t : Int) : List Elem :=
  let m := layRank r - 1
  let total := (List.range m).foldl (fun a i => a * layUnits r i) 1
  (List.range total).map fun p =>
    let w := winDigits r (layRank r) (p + j * total)
    layElem r core w fun i => if i = m then t else layOrg r i / layPer r i + w.getD i 0

/-! ## Cores that have moved (R379) -/

/-- The core reached by following n forwarding entries at most. -/
def State.fwdBy (s : State) : Nat → Nat → Nat
  | 0, c => c
  | n + 1, c => match (s.core c).forward with | some d => s.fwdBy n d | none => c

/-- Where what names a core goes: the core itself, or the one to which its forwarding entries lead (R379). -/
def State.fwd (s : State) (c : Nat) : Nat := s.fwdBy s.cores.length c

/-- Moves a location on a vacated core to the core that its forwarding entries lead to (R379). -/
def State.fwdLoc (s : State) (l : Nat) : Nat := if isScratchLoc l then Config.scratchLoc (s.fwd (locCore l)) (locOff l) else l

/-! ## Registration (R202, R214 to R218) -/

/-- Pages translated so far by one registration: page of the virtual address and its location. -/
abbrev PageMap := List (Nat × Nat)

/-- Where one byte of global memory lies, translating its page at first use (R202); a fault or a block otherwise. -/
def State.pageOf (s : State) (x : SId) (m : PageMap) (va : Nat) (write : Bool) : PageMap × Place1 :=
  match m.find? (·.1 = va / 4096) with
  | some (_, l) => (m, .at_ (l + va % 4096) none)
  | none =>
    match s.resolve x (BitVec.ofNat 64 va) 0 (if write then Need.write else Need.read) with
    | .at_ l leaf => ((va / 4096, l - va % 4096) :: m, .at_ l leaf)
    | r => (m, r)

/-- What registering a list of units comes to: the landings, the locks and pages, or the first fault or block. -/
structure Reg where
  lands : List Land := []
  rlocks : NSet := []
  wlocks : NSet := []
  pages : PageMap := []
  counted : List (Nat × Nat) := []
  sides : Tab (BitVec 24) := []
  bad : Option TrapInfo := none
  blocked : Option Nat := none

/-- Locations of a unit's global bytes. -/
def State.unitLocs (s : State) (x : SId) (write : Bool) (va : Nat) : Nat → PageMap → PageMap × (List Nat ⊕ Place1)
  | 0, m => (m, .inl [])
  | n + 1, m =>
    match s.pageOf x m (va % 2 ^ 64) write with
    | (m, .at_ l _) => match s.unitLocs x write (va + 1) n m with
      | (m, .inl ls) => (m, .inl (l :: ls))
      | r => r
    | (m, p) => (m, .inr p)

/-- Appends a landing, joining it to the last where both lie in one 16-byte chunk in a row, and a code that lands alone to the
latest for the other code of its byte. -/
def addLand (ls : List Land) (l : Land) : List Land :=
  if l.mask ≠ 0xFF then
    match ls.find? fun a => a.loc = l.loc && a.core = l.core with
    | some a =>
      if a.mask &&& l.mask = 0 then
        let b : Land := { a with bytes := [a.bytes.headD 0 ||| l.bytes.headD 0], mask := a.mask ||| l.mask, bad := a.bad || l.bad }
        ls.map fun e => if e = a then b else e
      else l :: ls
    | none => l :: ls
  else
  match ls with
  | a :: as =>
    match a.loc, l.loc with
    | some p, some q =>
      if p + a.bytes.length = q && p / 16 = q / 16 && a.core = l.core then
        { a with bytes := a.bytes ++ l.bytes, bad := a.bad || l.bad, count := a.count + l.count } :: as
      else l :: a :: as
    | _, _ => l :: a :: as
  | [] => [l]

/-- The scale word of the block that holds a source byte (R182, R214). -/
def State.blockScale (s : State) (l : Nat) : BitVec 24 :=
  if isScratchLoc l then Tab.get 0 (s.core (locCore l)).sidecars (locOff l / 16)
  else match s.sidecarOf (l / 128) with
    | some ws => ws.getD (l % 128 / 16) Config.nanBlock
    | none => Config.nanBlock

/-- The bits of the destination byte that a unit writes, and the bytes put there (R52, R55). -/
def Elem.place (e : Elem) (out : Bool) (bs : List Byte) : Byte × List Byte :=
  match e.half with
  | none => (0xFF, bs)
  | some (g, l) =>
    let src := if out then l else g
    let dst := if out then g else l
    let b := bs.headD 0
    let n : Byte := if src then b >>> 4 else b &&& 0x0F
    (if dst then 0xF0 else 0x0F, [if dst then n <<< 4 else n])

/-- The addresses of the lines that n bytes touch: the first byte, and the first of each further line. -/
def lineStarts (va n : Nat) : List Nat := (List.range n).filterMap fun i => if i = 0 || (va + i) % 128 = 0 then some (va + i) else none

/-- The lines of host memory that a unit's bytes lead to are counted with those of a registration, as far as its pages translate,
whether or not the unit faults or waits then (R411, R419). -/
def State.alsoCounted (s : State) (x : SId) (va u : Nat) (g : Reg) : Reg :=
  (lineStarts va u).foldl (fun g a =>
    match s.leafAt x a with
    | some (_, pa) =>
      let walked : Bool := a / 4096 = va / 4096 || (Tab.find? g.pages (va / 4096)).isSome
      if walked && isHost pa && !inWindow (BitVec.ofNat 64 a) then { g with counted := (a, pa) :: g.counted } else g
    | none => g) g

/-- The lines of a unit that has been registered. -/
def unitCounted (va : Nat) (locs : List Nat) : List (Nat × Nat) :=
  (lineStarts va locs.length).filterMap fun a => (locs[a - va]?).bind fun l => if isHost l then some (a, l) else none

/-- A unit of the page that blocks the registration: the walk that parks it is the unit's too (R419). -/
def State.countBlocked (s : State) (x : SId) (u : Nat) (g : Reg) (va : Option Nat) : Reg :=
  match va, g.blocked with
  | some a, some b => if (s.leafAt x a).map (·.1) = (s.leafAt x b).map (·.1) then s.alsoCounted x a u g else g
  | _, _ => g

/-- Registers one unit that moves from global memory to scratch (R211, R214, R216, R218). -/
def State.regIn (s : State) (x : SId) (r : Rec768) (g : Reg) (e : Elem) : Reg :=
  if g.bad.isSome then g
  else
    let u := layUnit r
    let dst := s.fwdLoc (Config.scratchLoc e.core e.off)
    match e.addr with
    | none =>
      if layOob r = 0 then g
      else
        let w := e.place false (layFillBytes r)
        { g with lands := addLand g.lands ⟨e.core, some dst, w.2, w.1, false, u⟩, wlocks := NSet.put g.wlocks (dst / 16) }
    | some va =>
      match s.unitLocs x false va u g.pages with
      | (m, .inr (.bad t)) => s.alsoCounted x va u { g with pages := m, bad := some t }
      | (m, .inr _) => { g with pages := m, bad := some (trapOf .perm (BitVec.ofNat 64 va)) }
      | (m, .inl locs) =>
        match locs.zipIdx.findSome? (fun (l, i) => (s.conflict x (2 * l) 2 false).map fun (y, _) => (i, y)) with
        | some (i, y) => s.alsoCounted x va u { g with pages := m, bad := some ⟨.memrace, BitVec.ofNat 64 (va + i), otherWord y⟩ }
        | none =>
          let w := e.place false (locs.map s.byteAt)
          let first := locs.headD 0
          { g with pages := m, lands := addLand g.lands ⟨e.core, some dst, w.2, w.1, locs.any s.isBad, u⟩,
                   wlocks := NSet.put g.wlocks (dst / 16),
                   rlocks := locs.foldl (fun t l => NSet.put t (l / 128)) g.rlocks,
                   counted := unitCounted va locs ++ g.counted,
                   sides := match Tab.find? g.sides (dst / 16) with
                     | none => if layQ4 r then Tab.put g.sides (dst / 16) (s.blockScale first) else g.sides
                     | some _ => g.sides }

/-- Registers one unit that moves from scratch to global memory (R212, R216, R218). An out-of-bounds code of a split .q4 window counts
as one byte, as one that lands does: R53 gives no number of bytes for half a byte (notes/assumptions/18.md). The scale sidecars stay in scratch: R214 says
what a chunk of scratch takes, and no rule what a line of memory takes (notes/assumptions/53.md). -/
def State.regOut (s : State) (x : SId) (r : Rec768) (g : Reg) (e : Elem) : Reg :=
  if g.bad.isSome then g
  else if g.blocked.isSome then s.countBlocked x (layUnit r) g e.addr
  else
    let u := layUnit r
    let src := s.fwdLoc (Config.scratchLoc e.core e.off)
    match e.addr with
    | none =>
      if layOob r = 0 then g
      else { g with lands := addLand g.lands ⟨e.core, none, [], 0xFF, false, u⟩ }
    | some va =>
      match s.unitLocs x true va u g.pages with
      | (m, .inr (.bad t)) => s.alsoCounted x va u { g with pages := m, bad := some t }
      | (m, .inr _) => s.alsoCounted x va u { g with pages := m, blocked := some va }
      | (m, .inl locs) =>
        match locs.zipIdx.find? (fun (l, _) => s.mapLocked l 1) with
        | some (_, i) => s.alsoCounted x va u { g with pages := m, bad := some (trapOf .rangelock (BitVec.ofNat 64 (va + i))) }
        | none => match (List.range u).findSome? (fun i => (s.conflict x (2 * (src + i)) 2 false).map fun (y, _) => (i, y)) with
        | some (i, y) =>
          s.alsoCounted x va u
            { g with pages := m, bad := some ⟨.memrace, BitVec.ofNat 64 (Config.scratchBase + e.off + i), otherWord y⟩ }
        | none =>
          let single (l i : Nat) : Land :=
            let w := e.place true [s.byteAt (src + i)]
            ⟨e.core, some l, w.2, w.1, s.isBad (src + i), 1⟩
          { g with pages := m, lands := locs.zipIdx.foldl (fun ls (l, i) => addLand ls (single l i)) g.lands,
                   rlocks := NSet.put g.rlocks (src / 16), wlocks := locs.foldl (fun t l => NSet.put t (l / 128)) g.wlocks,
                   counted := unitCounted va locs ++ g.counted }

def CopyKind.isOut : CopyKind → Bool
  | .cpym | .scat => true
  | _ => false

/-- Lock ranges of a registration: global lines and scratch chunks (R216). -/
def lockRanges (line chunk : NSet) : List (Nat × Nat) := line.map (fun (l, _) => (l * 128, 128)) ++ chunk.map (fun (c, _) => (c * 16, 16))

/-- Registers a list of units. -/
def State.regUnits (s : State) (x : SId) (k : CopyKind) (r : Rec768) (es : List Elem) : Reg :=
  es.foldl (fun g e => if k.isOut then s.regOut x r g e else s.regIn x r g e) {}

/-- What names the lines of a registration that have been counted. -/
def countKeys (counted : List (Nat × Nat)) : List Nat := (counted.map fun c => c.1 / 128 * 128).dedup

/-- Counts the lines that a registration reads or writes through counted leaves (R411), once for all walks of the instruction
(R419). -/
def State.countLines (s : State) (x : SId) (seq : Nat) (counted : List (Nat × Nat)) : State :=
  let old := (s.strand x).countedBy seq
  (counted.foldl (fun (acc : State × NSet) (va, l) =>
    if NSet.has acc.2 (l / 128) || old.contains (va / 128 * 128) then acc
    else (acc.1.countLeaf (s.jobOf x) (s.leaf (clusterOf x.core) (s.jobOf x) va) va l 1, NSet.put acc.2 (l / 128))) (s, [])).1

/-- A registration meets a write-blocked page: its strand parks, what it has translated counted (R403, R419). -/
def State.blockCopy (s : State) (x : SId) (seq va : Nat) (g : Reg) : State :=
  (s.countLines x seq g.counted).blockOn x seq va 1 (countKeys g.counted)

/-- A row that meets lines which earlier rows of its operation have read or written: a copy counts each line once (R411). -/
def State.rowLines (s : State) (x : SId) (id : Nat) (g : Reg) : Reg :=
  match (s.core x.core).ops.find? (·.id = id) with
  | some o => { g with counted := g.counted.filter fun c => !(o.rlocks ++ o.wlocks).contains (c.2 / 128 * 128, 128) }
  | none => g

/-- A registration has passed: it waits for no page. -/
def State.unblock (s : State) (x : SId) : State := s.modStrand x fun st => { st with blocked := none }

/-- Scratch slots that a registration writes. -/
def regSlots (g : Reg) (k : CopyKind) : List (Nat × Nat) :=
  if k.isOut then [] else (g.wlocks.map fun (c, _) => (locCore (c * 16), locOff (c * 16) / 4096)).dedup

/-- Lines of global memory that a registration locks are recalled from the L1s (R216). -/
def State.recallLocked (s : State) (g : Reg) (k : CopyKind) : State :=
  (if k.isOut then g.wlocks else g.rlocks).foldl (fun t (l, _) => t.recall l) s

/-- The pages of a registration whose translation misses the cluster's TLB make the vc after the issue late (R124, R202). -/
def State.walkPages (s : State) (x : SId) (issue : Nat) (m : List (Nat × Nat)) : State :=
  m.foldl (fun t (p, l) => t.walkLate x (BitVec.ofNat 64 (p * 4096)) l (issue + 1)) s

/-! ## The mailbox and the lock table (R202, R216) -/

def Core.boxed (k : Core) : Nat := (k.ops.filter (·.inBox)).length + k.claims.length
def Core.lockEntries (k : Core) : Nat :=
  k.ops.length + (k.array.filter fun a => !a.zero).length + (k.claims.map (·.2)).foldl (· + ·) 0

/-- A strand's copy takes a mailbox entry and then n entries of the lock table (R202); `wait` says that it must wait for more than
them. It keeps what it has taken while it waits. The answer says whether it has all. -/
def State.claim (s : State) (x : SId) (n : Nat) (wait : Bool) : State × Bool :=
  let k := s.core x.core
  let own := Tab.find? (k.claims.filterMap fun e => if e.1 = x then some (0, e.2) else none) 0
  let put (m : Nat) : State := s.modCore x.core fun k => { k with claims := (x, m) :: k.claims.filter fun e => e.1 ≠ x }
  match own with
  | some (_ + 1) => (s, true)
  | some 0 => if wait || 16 < k.lockEntries + n then (s, false) else (put n, true)
  | none =>
    if 4 ≤ k.boxed then (s, false)
    else if wait || 16 < k.lockEntries + n then (put 0, false) else (put n, true)

/-- The copy of a strand is registered: its operation has the entries that were taken for it. -/
def State.claimed (s : State) (x : SId) : State :=
  s.modCore x.core fun k => { k with claims := k.claims.filter fun e => e.1 ≠ x }
def Core.modOp (k : Core) (id : Nat) (f : CopyOp → CopyOp) : Core :=
  { k with ops := k.ops.map fun o => if o.id = id then f o else o }
def State.modOp (s : State) (core id : Nat) (f : CopyOp → CopyOp) : State := s.modCore core fun k => k.modOp id f

/-- Cores of a mesh-mapped copy outside the job's partition, the lowest (R215). -/
def State.meshOutside (s : State) (x : SId) (r : Rec768) : Option Nat :=
  if layMeshd r = 0 then none
  else
    let cores := (List.range (layMw r * layMh r)).map fun k =>
      coreIdOf (coreDie x.core) (layMy r + k / layMw r) (layMx r + k % layMw r)
    listMin (cores.filter fun c => !(s.job (s.jobOf x)).cores.contains c)

/-- The locks of a registration: those it reads and those it writes (R216). -/
def Reg.locks (g : Reg) (k : CopyKind) : List (Nat × Nat) × List (Nat × Nat) :=
  if k.isOut then (lockRanges [] g.rlocks, lockRanges g.wlocks []) else (lockRanges g.rlocks [], lockRanges [] g.wlocks)

/-- Adds what a registration found to an operation. A chunk keeps the scale word of its first real code (R214). -/
def CopyOp.addReg (o : CopyOp) (g : Reg) : CopyOp :=
  let ls := g.locks o.cmd.kind
  { o with todo := o.todo ++ g.lands.reverse, slots := (o.slots ++ regSlots g o.cmd.kind).dedup,
           rlocks := o.rlocks ++ ls.1, wlocks := o.wlocks ++ ls.2, pages := o.pages ++ g.pages,
           sides := g.sides.foldl (fun t (c, w) => if (Tab.find? t c).isSome then t else Tab.put t c w) o.sides }

/-- Adds a row, which waits for some operations (R203, R222). -/
def CopyOp.addRow (o : CopyOp) (g : Reg) (after : List Nat) : CopyOp :=
  let ls := g.locks o.cmd.kind
  { o.addReg g with todo := o.todo, rows := o.rows ++ [⟨g.lands.reverse, ls.1, ls.2, after⟩] }

/-! ## Barrier objects (R205, R206, R209) -/

def objExpect (s : State) (l : Nat) : Nat := s.natAt l 4
def objArrived (s : State) (l : Nat) : Nat := s.natAt (l + 8) 4
def objPhase (s : State) (l : Nat) : Nat := s.natAt (l + 12) 4 % 2
def objNen (s : State) (l : Nat) : Bool := bitOf (BitVec.ofNat 64 (s.natAt l 8)) 63
def objNtag (s : State) (l : Nat) : Nat := s.natAt l 8 / 2 ^ 48 % 2 ^ 15
def objNcore (s : State) (l : Nat) : Nat := s.natAt l 8 / 2 ^ 32 % 2 ^ 13

/-- A completion message of an object (R209). -/
def completion (s : State) (l phase : Nat) : Msg :=
  ⟨BitVec.ofNat 64 (objNtag s l * 2 ^ 48 + locOff l * 2 ^ 18 + phase), 1, locCore l, 0⟩

/-- The inbound queue of a core has room, with the messages on their way (R210). -/
def State.inboxRoom (s : State) (c : Nat) : Bool := (s.core c).inbox.length + (s.core c).transit.length < 16

/-- A message is on its way to a core. -/
def State.sendMsg (s : State) (target : Nat) (m : Msg) : State :=
  (s.modCore (s.fwd target) fun k => { k with transit := k.transit ++ [m] }).post 0 (.messageArrival (s.fwd target) 0)

/-- Posts a message: on its way where the target has room and no earlier message of the sending core waits for it, else held by
that core's engine (R209, R210). -/
def State.postMsg (s : State) (from_ target : Nat) (m : Msg) : State :=
  if s.inboxRoom (s.fwd target) && !(s.core from_).heldTo.contains target then s.sendMsg target m
  else s.modCore from_ fun k => { k with held := k.held ++ [m], heldTo := k.heldTo ++ [target] }

/-- What the steps of an object that wait will have added to its EXPECT (R206, R209). -/
def Core.heldChange (k : Core) (l : Nat) : Int := k.flips.foldl (fun e f => if f.1 = l then e + f.2.2 else e) 0

/-- EXPECT after BARADD's change d. -/
def objChanged (s : State) (l : Nat) (d : Int) : Nat := ((objExpect s l : Int) + d).toNat

/-- A step of R206 that counts n, after a change d of EXPECT, would flip the object. -/
def objFlips (s : State) (l n : Nat) (d : Int) : Bool :=
  objChanged s l d ≠ 0 && objChanged s l d ≤ (objArrived s l + n) % 2 ^ 32

/-- Resumes the WAITPHs that wait for a phase of an object (R224). -/
def State.wakePhase (s : State) (l phase : Nat) : State :=
  s.allStrands.foldl (fun t y => match (s.strand y).park with
    | some p => match p.on with
      | .phase o n => if o = l && n.toNat = phase then t.makeReady y 0 [] none else t
      | _ => t
    | none => t) s

/-- Count of R206, applied, after BARADD's change of EXPECT (R223). -/
def State.countNow (s : State) (l n : Nat) (d : Int) : State :=
  let a := (objArrived s l + n) % 2 ^ 32
  let flips := objFlips s l n d
  let s := if d = 0 then s else s.setNat l 4 (objChanged s l d)
  if flips then
    let p := 1 - objPhase s l
    let s := (s.setNat (l + 8) 4 (a - objExpect s l)).setNat (l + 12) 4 p
    let s := if objNen s l then s.postMsg (locCore l) (objNcore s l) (completion s l p) else s
    s.wakePhase l p
  else s.setNat (l + 8) 4 a

/-- A step that would flip an object with NEN = 1 while the engine holds four messages (R209). -/
def State.stepWaits (s : State) (l n : Nat) (d : Int) : Bool :=
  objFlips s l n d && objNen s l && 4 ≤ (s.core (locCore l)).held.length

/-- A step of an object (R206): it waits where R209 says so, and behind the steps of the object that wait. -/
def State.count (s : State) (l n : Nat) (d : Int) : State :=
  let c := locCore l
  if (s.core c).flips.any (·.1 = l) || s.stepWaits l n d then
    s.modCore c fun k => { k with flips := k.flips ++ [(l, n, d)] }
  else s.countNow l n d

/-- The first step that waits no longer, of those that are first on their object (R209). -/
def State.freeStep (s : State) (c : Nat) : Option (Nat × Nat × Int) :=
  let fs := (s.core c).flips
  fs.find? fun f => (fs.find? (·.1 = f.1)) = some f && !s.stepWaits f.1 f.2.1 f.2.2

/-- Applies steps that wait no longer (R209). -/
def State.freeSteps (s : State) (c : Nat) : Nat → State
  | 0 => s
  | n + 1 => match s.freeStep c with
    | some f => ((s.modCore c fun k => { k with flips := k.flips.erase f }).countNow f.1 f.2.1 f.2.2).freeSteps c n
    | none => s

/-! ## Landing, stamps and completion (R206, R211 to R213) -/

/-- Stamps and unlocks every slot of an operation whose last byte has landed (R213). -/
def State.stampSlots (s : State) (core id : Nat) : State :=
  match (s.core core).ops.find? (·.id = id) with
  | none => s
  | some o =>
    if o.open_ then s
    else
      let ready := o.slots.filter fun (c, n) => !((o.todo ++ o.rows.flatMap (·.lands)).any fun l => match l.loc with
        | some p => isScratchLoc p && locCore p = c && locOff p / 4096 = n
        | none => false)
      let s := ready.foldl (fun t (c, n) => t.modCore (t.fwd c) fun k => { k with tags := Tab.set 0 k.tags n (laySeq o.cmd.record) }) s
      let inSlot (r : Nat × Nat) : Bool := isScratchLoc r.1 && ready.contains (locCore r.1, locOff r.1 / 4096)
      s.modOp core id fun o => { o with slots := o.slots.filter (fun k => !ready.contains k), wlocks := o.wlocks.filter (fun r => !inSlot r) }

/-- A started copy with nothing left to land completes: its locks are released, and a follow-on is handed over in the next core cycle
(R211, R216, R221). -/
def State.completeOp (s : State) (core id : Nat) : State :=
  match (s.core core).ops.find? (·.id = id) with
  | none => s
  | some o =>
    if o.started && !o.open_ && o.todo = [] && o.rows = [] && o.cmd.kind ≠ .mapgetn then
      let cc := s.clock.cc
      let s := s.modCore core fun k =>
        { k with ops := k.ops.filter (fun p => p.id ≠ id),
                 array := k.array.map fun a => if a.waitCopy = some id then { a with handAt := cc + 1 } else a }
      let s := (s.opDone id).wakeCore core
      let s := s.wake fun _ p => match p.on with | .tlbinv _ _ _ _ => true | _ => false
      let s := s.post 0 (.copyStart core)
      let s := s.post 0 (.arrayCommandStart core)
      if o.cmd.follow.isSome then s.post 1 (.followOnStart core) else s
    else s

/-- Bytes are written, or the bits of one byte that a landing has (R211, R212). -/
def State.putLand (s : State) (p : Nat) (l : Land) : State :=
  if l.mask = 0xFF then s.setBytes p l.bytes else s.setByte p ((s.byteAt p &&& ~~~l.mask) ||| l.bytes.headD 0)

/-- The bytes of a destination sector that have landed once a landing is made, and whether one came from a bad sector. -/
def CopyOp.sectorWith (o : CopyOp) (p : Nat) (l : Land) : BitVec 32 × Bool :=
  let old := Tab.get (0, false) o.landed (p / 32)
  (if l.mask = 0xFF then old.1 ||| BitVec.ofNat 32 ((2 ^ l.bytes.length - 1) * 2 ^ (p % 32)) else old.1, old.2 || l.bad)

/-- The operation once a landing is made. -/
def CopyOp.withLanded (o : CopyOp) (l : Land) : CopyOp :=
  match l.loc with
  | some p => { o with landed := Tab.put o.landed (p / 32) (o.sectorWith p l) }
  | none => o

/-- Counted bytes land: the write, the mark of the sector, the chunk's scale word, and the count at the object of the core that
receives them (R206, R211, R212, R214, R215). A sector that the copy has written whole takes the mark of what was written, another is
merged (R185, R217). -/
def State.landOne (s : State) (o : CopyOp) (core : Nat) (l : Land) : State :=
  let s := match l.loc with
    | some p =>
      let q := s.fwdLoc p
      let s := (if isScratchLoc q then s else s.recall (q / 128)).putLand q l
      let sec := o.sectorWith p l
      let s := if sec.1 = BitVec.allOnes 32 then s.setBad q sec.2 else if l.bad then s.setBad q true else s
      if layQ4 o.cmd.record && !o.cmd.kind.isOut then
        s.modCore (locCore q) fun k => { k with sidecars := Tab.set 0 k.sidecars (locOff q / 16) (Tab.get 0 o.sides (p / 16)) }
      else s
    | none => s
  let at_ := s.fwd (if layMeshd o.cmd.record = 0 then core else l.core)
  s.count (Config.scratchLoc at_ (o.cmd.obj.toNat % 0x40000)) l.count 0

/-! ## Start (R203, R204) -/

def meetsAny (as bs : List (Nat × Nat)) : Bool := as.any fun a => bs.any fun b => meets a.1 a.2 b

/-- The read and write locks of an operation that hold against another one: not those of rows that wait for it (R216). -/
def CopyOp.locksOn (o : CopyOp) (id : Nat) : List (Nat × Nat) × List (Nat × Nat) :=
  let behind := o.rows.filter fun r => r.after.contains id
  (behind.foldl (fun ls r => r.rlocks.foldl List.erase ls) o.rlocks, behind.foldl (fun ls r => r.wlocks.foldl List.erase ls) o.wlocks)

/-- An engine operation registered earlier holds a conflicting range (R203, R216). -/
def State.conflictsEarlier (s : State) (id : Nat) (rl wl : List (Nat × Nat)) : Bool :=
  s.cores.any fun (_, k) =>
    (k.ops.any fun p => p.id < id && (meetsAny wl (p.locksOn id).2 || meetsAny wl (p.locksOn id).1 || meetsAny rl (p.locksOn id).2)) ||
      k.array.any fun a => a.id < id && meetsAny wl a.locks

/-- An engine operation has not completed. -/
def State.opLive (s : State) (id : Nat) : Bool :=
  s.cores.any fun (_, k) => k.ops.any (·.id = id) || k.array.any (·.id = id)

/-- An operation that has not started waits: for an operation registered earlier, or a row of it for one registered before the row
(R203, R216). -/
def State.opHeld (s : State) (o : CopyOp) : Bool :=
  s.conflictsEarlier o.id o.rlocks o.wlocks || o.rows.any fun r => r.after.any s.opLive

/-- A fault that an engine command finds after its issue waits for its strand's next group boundary (R141, R367). -/
def State.addLate (s : State) (x : SId) (t : TrapInfo) (element : Option Word) : State :=
  (s.modStrand x fun st => { st with late := st.late ++ [⟨t, element⟩] }).post 0 (.landing x)

/-- TIMING with a reason, and the command's group (R141, R142). -/
def timingTrap (reason : Nat) (other : Word) : TrapInfo := ⟨.timing, BitVec.ofNat 64 reason, other⟩

/-- A job's engines start what waits: it runs, or a kill lets its commands run on (R74, R373). -/
def Job.goes (b : Job) : Bool := b.run = .running || b.killed || b.freed

/-- A core's engine goes on: its job's engines go, or its marker has not passed (R371). -/
def State.engineRuns (s : State) (core : Nat) (e : Engine) : Bool :=
  match (s.core core).job with
  | none => true
  | some j => (s.job j).goes || ((s.job j).run = .stopping && (s.job j).markers.contains e)

/-- A job stands at a debug stop: every strand that runs a task of it has been stopped by the debugger (notes/assumptions/61.md). -/
def State.debugStop (s : State) (j : Nat) : Bool :=
  let xs := s.allStrands.filter fun x => (s.strand x).run.isTask && s.jobOf x = j
  xs ≠ [] && xs.all fun x => (s.strand x).run = .debugStopped

/-- A core's array starts queued commands and k-steps: while its job stops, or stands at a debug stop, it does not (R286, R371). -/
def State.arrayGoes (s : State) (core : Nat) : Bool :=
  match (s.core core).job with | none => true | some j => (s.job j).goes && !s.debugStop j

/-- Core cycles from now to a vc of a strand. -/
def State.ccTo (s : State) (x : SId) (v : Nat) : Nat := (s.strand x).ccOf v - s.clock.cc

/-- Removes an operation that failed before it started (R141): no lock, count or tag remains. -/
def State.dropOp (s : State) (core id : Nat) : State :=
  let s := s.modCore core fun k =>
    { k with ops := k.ops.filter (fun p => p.id ≠ id), array := k.array.filter (fun a => a.waitCopy ≠ some id) }
  (s.opDone id).wakeCore core

/-- Core cycles to the movement strand's next slot, in which it takes a request from the mailbox (R79). -/
def State.moveSlot (s : State) (core : Nat) : Nat :=
  let n := (s.core core).part.strands
  (n - 1 + n - s.clock.cc % n) % n

/-- The landings of the rows that can start, in their order, and the rows left (R203, R222). -/
def freeRows (live : Nat → Bool) : List Row → List Land × List Row
  | [] => ([], [])
  | r :: rs =>
    if r.after.any live then ([], r :: rs)
    else ((r.lands ++ (freeRows live rs).1), (freeRows live rs).2)

/-- Rows of a started operation start, once those that they wait for have completed. -/
def State.startRows (s : State) (core id : Nat) : State :=
  s.modOp core id fun o =>
    if o.started then { o with todo := o.todo ++ (freeRows s.opLive o.rows).1, rows := (freeRows s.opLive o.rows).2 } else o

/-- The mailbox entry of a started operation empties once its last row has started (R203). -/
def State.unbox (s : State) (core id : Nat) : State :=
  match (s.core core).ops.find? (·.id = id) with
  | some o =>
    if o.inBox && o.started && !o.open_ && o.rows = [] && o.cmd.kind ≠ .mapgetn then
      ((s.modOp core id fun o => { o with inBox := false }).wakeCore core).post 0 (.copyStart core)
    else s
  | none => s

/-- Marks an operation started; its mailbox place empties unless rows or keys are still to come (R203). -/
def State.startOp (s : State) (core id : Nat) : State :=
  let s := (s.modOp core id fun o => { o with started := true }).startRows core id
  let s := (s.unbox core id).post 0 (.copyStart core)
  match (s.core core).ops.find? (·.id = id) with
  | some o =>
    if o.cmd.kind = .mapgetn then s.post 0 (.mapgetnDispatch core id)
    else if o.todo = [] then (s.stampSlots core id).completeOp core id
    else s.post 1 (.byteLanding core id 0)
  | none => s

/-- The vc that an operation's task has reached. -/
def State.opVc (s : State) (o : CopyOp) : Nat :=
  match o.base with | some b => s.clock.cc - b | none => (s.strand o.owner).vcAt s.clock.cc

/-- A request that fails a check at its start vc (R141, R204); a MAPGETN names its element (R367). -/
def State.failStart (s : State) (core : Nat) (o : CopyOp) (reason : Nat) : State :=
  let s := (s.dropOp core o.id).post 0 (.copyStart core)
  if o.base.isSome then s
  else s.addLate o.owner (timingTrap reason o.gpc) (if o.cmd.kind = .mapgetn then some (BitVec.ofNat 64 o.next) else none)

/-- Enters COPY_START again at the next start vc that a waiting request still has to reach. -/
def State.awaitStarts (s : State) (core : Nat) : State :=
  let left := (s.core core).ops.filterMap fun o =>
    match o.cmd.hstart with
    | some n => if o.inBox && !o.started && s.opVc o < n then some (n - s.opVc o) else none
    | none => none
  match listMin left with
  | some n => s.postOnce n (.copyStart core)
  | none => s

/-- COPY_START on the first request that has not started, where it can start or fails its start-vc checks (R203, R204). A request
starts at its start vc, or in a slot of the movement strand (R79); at a start vc, requests before it that can start do so first. One
whose start vc passed before it was registered is checked no more and starts late, and so does one whose start vc comes while its
engine holds four messages (R209; notes/assumptions/54.md). -/
def State.tryStart (s : State) (core : Nat) : State :=
  match (s.core core).ops.filter (fun o => o.inBox && !o.started) with
  | [] => s
  | o :: rest =>
    let exact (p : CopyOp) : Bool := p.cmd.hstart = some (s.opVc p)
    let clash := s.opHeld o
    let full := 4 ≤ (s.core core).held.length
    let early := o.cmd.hstart.any fun n => s.opVc o < n
    let turn := s.moveSlot core = 0 || exact o || rest.any exact
    if exact o && clash && o.cmd.hseq.isNone then s.failStart core o 2
    else if !early && !clash && !full && turn then s.startOp core o.id
    else match rest.find? exact with
      | some p => s.failStart core p 1
      | none =>
        let s := s.awaitStarts core
        if early || turn then s else s.postOnce (s.moveSlot core) (.copyStart core)

/-- Reads one index word of GATH or SCAT (R222). -/
def State.readIndex (s : State) (x : SId) (base : Word) (j : Nat) : State × (Int ⊕ TrapInfo) :=
  let ea := base + BitVec.ofNat 64 (4 * j)
  match s.loadAt x ea (Config.scratchLoc x.core (ea.toNat % 0x40000)) 4 0 with
  | (t, .inl bs) => (t, .inl (signedField 32 (leNat bs)))
  | (t, .inr f) => (t, .inr f)

/-- Closes the row list of an operation (R222). -/
def State.closeRows (s : State) (core id : Nat) : State :=
  let s := (s.modOp core id fun o => { o with open_ := false }).unbox core id
  ((s.stampSlots core id).completeOp core id).post 0 (.copyStart core)

/-- The other engine operations that hold a range that conflicts with a registration, started or not: they were registered before it
(R203, R216). -/
def State.conflictsNow (s : State) (id : Nat) (g : Reg) (k : CopyKind) : List Nat :=
  let (rl, wl) := g.locks k
  s.cores.flatMap fun (_, c) =>
    (c.ops.filter fun p => p.id ≠ id && (meetsAny wl p.wlocks || meetsAny wl p.rlocks || meetsAny rl p.wlocks)).map (·.id) ++
      (c.array.filter fun a => meetsAny wl a.locks).map (·.id)

/-- A row joins its operation (R222). Where that has started, the row starts now, or once the operations that conflict with it have
completed (R203). -/
def State.addRow (s : State) (core id : Nat) (g : Reg) : State :=
  match (s.core core).ops.find? (·.id = id) with
  | none => s
  | some o =>
    let t := (s.modOp core id fun o => o.addRow g (s.conflictsNow id g o.cmd.kind)).startRows core id
    if o.started && o.todo = [] && g.lands ≠ [] then t.post 1 (.byteLanding core id 0) else t

/-- A fault at row j: MPX names it, and the rows before it go on (R222). An operation without a row has no effect (R202). -/
def State.rowFault (s : State) (x : SId) (id j : Nat) : State :=
  let s := s.setMpx x (BitVec.ofNat 64 j)
  if (s.core x.core).ops.any fun o => o.id = id && o.next = j then s.dropOp x.core id else s.closeRows x.core id

/-- Registers the rows of GATH or SCAT from MPX on (R222): a fault at row j leaves MPX = j and the rows before it. -/
def State.regRows (s : State) (x : SId) (seq id issue : Nat) (c : CopyCmd) (j : Nat) : Nat → EffRes
  | 0 => .done (((s.setMpx x 0).closeRows x.core id).endRegion x)
  | n + 1 =>
    let r := c.record
    let m := layRank r - 1
    match s.readIndex x c.third j with
    | (t, .inr f) => .fault (t.rowFault x id j) f
    | (t, .inl i) =>
      let g := t.rowLines x id (t.regUnits x c.kind r (layRow r x.core j (layOrg r m + i)))
      match g.bad, g.blocked with
      | some f, _ => .fault ((t.countLines x seq g.counted).rowFault x id j) f
      | none, some va => .park ((t.blockCopy x seq va g).setMpx x (BitVec.ofNat 64 j)) .writeBlocked
      | none, none =>
        let t := ((((t.countLines x seq g.counted).unblock x).recallLocked g c.kind).walkPages x issue g.pages).addRow x.core id g
        (t.setMpx x (BitVec.ofNat 64 (j + 1))).regRows x seq id issue c (j + 1) n

/-- The objects that a copy counts at: the issuing core's, or that of each core of the rectangle (R211, R215). -/
def State.copyObjects (s : State) (x : SId) (c : CopyCmd) : List (Nat × Nat) :=
  let at_ (core : Nat) : Nat × Nat := (s.fwdLoc (Config.scratchLoc core (c.obj.toNat % 0x40000)), 16)
  if layMeshd c.record = 0 then [at_ x.core]
  else (List.range (layMw c.record * layMh c.record)).map fun i =>
    at_ (coreIdOf (coreDie x.core) (layMy c.record + i / layMw c.record) (layMx c.record + i % layMw c.record))

/-- The operation that a copy form registers, before its window. Its object is among its read locks, so that a later operation that
writes there waits (R207; notes/assumptions/62.md). -/
def State.newCopy (s : State) (x : SId) (gpc : Word) (c : CopyCmd) (rows : Bool) (first : Nat) : CopyOp :=
  { id := s.nextId, cmd := c, owner := x, gpc := gpc, started := false, inBox := true, open_ := rows, todo := [],
    slots := [], next := first, probes := [], rlocks := s.copyObjects x c, wlocks := [], pages := [], sides := [], landed := [],
    rows := [], base := none }

/-- Registration: the effect of a copy form (R202, R220). R215's PERM comes first, then the first fault in window order, whether a
page's or MEMRACE (notes/assumptions/62.md). -/
def State.performCopy (s : State) (x : SId) (seq : Nat) (gpc : Word) (issue : Nat) (c : CopyCmd) : EffRes :=
  let k := s.core x.core
  let rows := c.kind = .gath || c.kind = .scat
  let m := layRank c.record - 1
  let mpx := (s.strand x).regs.csr.mpx.toNat
  match (if rows then k.ops.find? fun o => o.owner = x && o.open_ else none) with
  | some o => s.regRows x seq o.id issue c mpx (layWin c.record m - mpx)
  | none =>
    match (s.endRegion x).claim x (if c.follow.isSome then 2 else 1) (c.follow.isSome && 4 ≤ k.array.length) with
    | (s, false) => .park s .fullEmpty
    | (s, true) =>
      match s.meshOutside x c.record with
      | some core => .fault (s.dropClaims x) (trapOf .perm (BitVec.ofNat 64 core))
      | none =>
        let g := if rows then {} else s.regUnits x c.kind c.record (layElems c.record x.core)
        match g.bad, g.blocked with
        | some f, _ => .fault ((s.countLines x seq g.counted).dropClaims x) f
        | none, some va => .park (s.blockCopy x seq va g) .writeBlocked
        | none, none =>
          let op := (s.newCopy x gpc c rows mpx).addReg g
          let s := ((((s.claimed x).countLines x seq g.counted).unblock x).recallLocked g c.kind).walkPages x issue g.pages
          let s : State := { s with nextId := op.id + 2 }
          let follow := c.follow.toList.map fun a =>
            { a with id := op.id + 1, waitCopy := some op.id, first := mpx, step := mpx, skip := (regSlots g c.kind).map (·.2) }
          let s := s.modCore x.core fun k => { k with ops := k.ops ++ [op], array := k.array ++ follow }
          let s := if c.follow.isSome then s.setMpx x 0 else s
          let s := s.post (match c.hstart with | some n => s.ccTo x n | none => 0) (.copyStart x.core)
          if rows then s.regRows x seq op.id issue c mpx (layWin c.record m - mpx) else .done s

end Sys2Proof.Machine
end

