-- ==== Sys2Proof/Machine/Timing.lean ====
section
/-! DEFINITION. Late events and holds (R124 to R126, R434): when a domain is tested, how long it is held, and the end of the
hold once nothing that it waits for is still to come. -/

namespace Sys2Proof.Machine

/-- The core cycle of the test for the earliest late event of a domain (R125). -/
def State.testCc (s : State) (x : SId) (t : Nat) : Nat := (s.strand x).ccOf t - s.notice x

/-- The domain is held at vc t: no strand of it issues there until the hold ends (R126). -/
def State.holdAt (s : State) (x : SId) (t : Nat) : State :=
  (s.domain x).foldl (fun u y => u.modStrand y fun st => { st with held := t }) s

/-- Nothing that a held domain waits for is still to come. -/
def State.present (s : State) (x : SId) : Bool :=
  match s.absentAt x with | some t => (s.strand x).held < t | none => true

/-- Rotations of the hold (R126): at least one, and enough to reach the core cycle a. -/
def State.holdRotations (s : State) (x : SId) (a : Nat) : Nat :=
  let n := s.rotation x
  Nat.max 1 ((a - (s.strand x).ccOf (s.strand x).held + n - 1) / n)

/-- Vcs after t at which an item of one strand was not present in its test cycle, w before its vc begins, although its answer
has come since (R125). -/
def Strand.missed (st : Strand) (t w : Nat) : List Nat :=
  st.inflight.filterMap fun e => match e.req with
    | some (_, .answered a) => if t < e.faultVc && st.ccOf e.faultVc < a + w then some e.faultVc else none
    | _ => none

/-- The first vc of a gang after t at which an item was late though it is present by now: an earlier hold ran over its test
cycle (R125; notes/assumptions/50.md). -/
def State.missedAt (s : State) (x : SId) (t : Nat) : Option Nat :=
  if (s.strand x).gang = none then none else listMin ((s.domain x).flatMap fun y => (s.strand y).missed t (s.notice x))

/-- Once the last awaited item of a held domain is present, the end of the hold is fixed (R126). -/
def State.holdCheck (s : State) (x : SId) : State :=
  let st := s.strand x
  if st.held ≠ 0 && s.present x then
    let n := s.holdRotations x s.clock.cc
    s.post (st.ccOf st.held + n * s.rotation x - s.clock.cc) (.holdEnd x n)
  else s

/-- A walk has ended: what waited for it is present (R124). -/
def State.walked (s : State) (x : SId) (va : Nat) : State :=
  if (s.strand x).lates.any (·.item = .walk (va / 4096)) then
    (s.modStrand x fun st => st.itemsHere (· = .walk (va / 4096))).holdCheck x
  else s

/-- A hold that an item missed in its test cycle causes after the hold at t has ended, if none that is still awaited comes
before it. -/
def State.holdMissed (s : State) (x : SId) (t : Nat) : State :=
  match s.missedAt x t with
  | some u =>
    match s.lateAt x with
    | some v => if v < u then s else (s.holdAt x u).holdCheck x
    | none => (s.holdAt x u).holdCheck x
  | none => s

end Sys2Proof.Machine
end

