-- ==== Sys2Proof/Machine/ArrayOps.lean ====
section
/-! DEFINITION. The matrix array (R268 to R287): the precision register and its checks, operands in scratch, cost and
schedule, the step arithmetic (R240 to R244), the command queue, starts and completions. -/

namespace Sys2Proof.Machine

/-! ## The precision register (R270, R271) and the descriptor (R273) -/

def pcAcc (p : Word) : Nat := bitsOf p 43 40
def pcRm (p : Word) : Nat := bitsOf p 39 37
def pcFtz (p : Word) : Bool := bitOf p 36
def pcSpa (p : Word) : Bool := bitOf p 35
def pcSgnB (p : Word) : Bool := bitOf p 34
def pcSgnA (p : Word) : Bool := bitOf p 33
def pcBfmt (p : Word) : Nat := bitsOf p 31 28
def pcBw (p : Word) : Nat := bitsOf p 27 22 + 1
def pcAfmt (p : Word) : Nat := bitsOf p 15 12
def pcAw (p : Word) : Nat := bitsOf p 11 6 + 1

/-- The accumulator format that a code names. -/
def accFmt (code : Nat) : Fmt := if code = 7 then .s64 else if code = 10 then .f else .d
def accCodeOk (code : Nat) : Bool := code = 7 || code = 10 || code = 11

/-- Significand width of a floating-point format (R227). -/
def sigWidth (fmt : Nat) : Nat := match Fmt.ofCode fmt with | some t => t.frac + 1 | none => 0

/-- The conditions of R271 on one operand's fields. -/
def sideOk (fmt w : Nat) (sgn : Bool) : Bool :=
  if fmt = 15 then false
  else if fmt < 8 then sgn == (4 ≤ fmt : Bool)
  else if fmt = 14 then w ≤ 4 && !sgn
  else w = sigWidth fmt && !sgn

/-- A valid PREC image; OWN and OSTR are ignored (R271). -/
def precValid (p : Word) : Bool :=
  bitsOf p 63 48 = 0 && !bitOf p 32 && bitsOf p 21 16 = 0 && bitsOf p 5 0 = 0 && accCodeOk (pcAcc p) && pcRm p < 4 &&
    sideOk (pcAfmt p) (pcAw p) (pcSgnA p) && sideOk (pcBfmt p) (pcBw p) (pcSgnB p)

/-- Width that the short form sets for a format code (R290). -/
def shortWidth (fmt : Nat) : Nat :=
  if fmt < 8 then (match Fmt.ofCode fmt with | some t => t.bits | none => 0) else if fmt = 14 then 4 else sigWidth fmt

/-- The image of MPREC's short form (R290). -/
def shortPrec (ta tb tc : Nat) : Word :=
  BitVec.ofNat 64 (tc * 2 ^ 40 + (if 4 ≤ tb && tb < 8 then 2 ^ 34 else 0) + (if 4 ≤ ta && ta < 8 then 2 ^ 33 else 0) +
    tb * 2 ^ 28 + (shortWidth tb - 1) * 2 ^ 22 + ta * 2 ^ 12 + (shortWidth ta - 1) * 2 ^ 6)

/-- An image as it is stored: owned by a strand (R270, R290). -/
def precOwned (p : Word) (strand : Nat) : Word := putBits (putBits p 47 47 1) 46 44 strand
def precFree (p : Word) : Word := putBits p 47 44 0

def dscK (d : Word) : Nat := bitsOf d 15 0
def dscSa (d : Word) : Nat := bitsOf d 31 16
def dscSb (d : Word) : Nat := bitsOf d 47 32
def dscBka (d : Word) : Nat := bitsOf d 51 48
def dscBkb (d : Word) : Nat := bitsOf d 55 52
def dscTb (d : Word) : Bool := bitOf d 56

/-! ## Operands in scratch (R274 to R277) -/

/-- Container bits of a format and declared width (R230, R274). -/
def contBits (fmt w : Nat) : Nat :=
  if fmt < 8 then (if w ≤ 1 then 1 else if w ≤ 2 then 2 else if w ≤ 4 then 4 else if w ≤ 8 then 8 else if w ≤ 16 then 16
    else if w ≤ 32 then 32 else 64)
  else match Fmt.ofCode fmt with | some t => t.bits | none => 8

/-- An operand: where it stands and how it is read. `rows` holds where k runs along a row; else a row is one k with 32
elements. -/
structure Opnd where
  fmt : Nat
  w : Nat
  sgn : Bool
  base : Nat
  stride : Nat
  bank : Nat
  k : Nat
  rows : Bool
  sparse : Bool

def Opnd.bits (o : Opnd) : Nat := contBits o.fmt o.w
/-- Bytes from a sparse row's start to its metadata (R276). -/
def Opnd.meta (o : Opnd) : Nat := (o.k * o.bits + 15) / 16

/-- Bytes of a dense row of n elements (R274). -/
def denseRow (fmt b n : Nat) : Nat := if fmt = 14 then 16 * ((n + 31) / 32) else (n * b + 7) / 8

def opndA (p d pa : Word) : Opnd :=
  let b := contBits (pcAfmt p) (pcAw p)
  let dense := if pcSpa p then (dscK d * b + 15) / 16 + (dscK d + 7) / 8 else denseRow (pcAfmt p) b (dscK d)
  { fmt := pcAfmt p, w := pcAw p, sgn := pcSgnA p, base := pa.toNat % 0x40000,
    stride := if dscSa d = 0 then dense else dscSa d, bank := dscBka d, k := dscK d, rows := true, sparse := pcSpa p }

def opndB (p d pb : Word) : Opnd :=
  let b := contBits (pcBfmt p) (pcBw p)
  let dense := if dscTb d then denseRow (pcBfmt p) b (dscK d) else (32 * b + 7) / 8
  { fmt := pcBfmt p, w := pcBw p, sgn := pcSgnB p, base := pb.toNat % 0x40000,
    stride := if dscSb d = 0 then dense else dscSb d, bank := dscBkb d, k := dscK d, rows := dscTb d, sparse := false }

/-- First and last byte offsets that step j reads of each row (R274, R276). -/
def Opnd.ranges (o : Opnd) (j : Nat) : List (Nat × Nat) :=
  let k0 := 64 * j
  let k1 := Nat.min (k0 + 63) (o.k - 1)
  let b := o.bits
  if !o.rows then (List.range (k1 + 1 - k0)).map fun i => (o.base + (k0 + i) * o.stride, o.base + (k0 + i) * o.stride + (32 * b - 1) / 8)
  else (List.range 32).flatMap fun i =>
    let r := o.base + i * o.stride
    if o.sparse then
      [(r + k0 / 2 * b / 8, r + ((k1 / 4 * 2 + 2) * b - 1) / 8), (r + o.meta + k0 / 8, r + o.meta + k1 / 8)]
    else [(r + k0 * b / 8, r + ((k1 + 1) * b - 1) / 8)]

/-- Steps of a command (R281). -/
def dscSteps (d : Word) : Nat := (dscK d + 63) / 64

/-- The scratch chunks that step j reads of an operand, after the bank interleave. -/
def Opnd.chunks (o : Opnd) (j : Nat) : NSet :=
  (o.ranges j).foldl (fun t (lo, hi) =>
    (List.range (hi / 16 + 1 - lo / 16)).foldl (fun t i => NSet.put t (interleave o.bank ((lo / 16 + i) * 16) / 16)) t) []

/-- The chunks that step j of a command reads. -/
def stepChunks (p d pa pb : Word) (j : Nat) : NSet :=
  ((opndB p d pb).chunks j).foldl (fun t (c, _) => NSet.put t c) ((opndA p d pa).chunks j)

/-- The chunks of all steps from one on. -/
def cmdChunks (p d pa pb : Word) (first : Nat) : NSet :=
  (List.range (dscSteps d - first)).foldl (fun t i => (stepChunks p d pa pb (first + i)).foldl (fun t (c, _) => NSet.put t c) t) []

/-- Reason 5 of R289: an operand outside the window or misaligned (R277). -/
def Opnd.bad (o : Opnd) (addr : Word) : Bool :=
  let u := if o.fmt = 14 then 16 else Nat.max 1 (o.bits / 8)
  let last := ((List.range (o.k / 64 + 1)).flatMap fun j => if 64 * j < o.k then (o.ranges j).map (·.2) else []).foldl Nat.max 0
  !inWindow addr || o.base % u ≠ 0 || o.stride % u ≠ 0 || 0x40000 ≤ last

/-! ## Checks at issue (R287, R289, R292) -/

def operandTrap (bank reason : Nat) : TrapInfo := trapOf .operand (BitVec.ofNat 64 (bank * 256 + reason))

/-- Ownership: reason 1 or 2 (R269, R289). -/
def ownerBad (k : Core) (strand bank : Nat) : Option Nat :=
  if !precOwn (k.prec bank) then some 2 else if precOstr (k.prec bank) ≠ strand then some 1 else none

/-- Reserved combinations: reason 4 (R287). -/
def combinationBad (p d : Word) : Bool :=
  (pcSpa p && (pcAfmt p = 11 || pcBfmt p = 11 || pcAfmt p = 14 || dscK d % 4 ≠ 0)) ||
    (pcAcc p = 7 && (8 ≤ pcAfmt p || 8 ≤ pcBfmt p)) || (pcBfmt p = 14 && !dscTb d)

/-- Descriptor: reason 3 (R273, R287). -/
def descriptorBad (d : Word) : Bool := bitsOf d 63 57 ≠ 0 || 8 ≤ dscBka d || 8 ≤ dscBkb d || dscK d = 0

/-- The issue checks of MMA and MMAS, the lowest reason first. -/
def mmaBad (k : Core) (strand bank : Nat) (d pa pb : Word) : Option Nat :=
  let p := k.prec bank
  match ownerBad k strand bank with
  | some r => some r
  | none =>
    if descriptorBad d then some 3
    else if combinationBad p d then some 4
    else if (opndA p d pa).bad pa || (opndB p d pb).bad pb then some 5
    else none

/-! ## Reading operands -/

/-- The container that starts at a bit of a row, and the chunk it lies in (R274). -/
def State.rawAt (s : State) (core : Nat) (o : Opnd) (row bit : Nat) : Nat × Nat :=
  let p := interleave o.bank (row + bit / 8)
  let b := o.bits
  (if 8 ≤ b then s.natAt (Config.scratchLoc core p) (b / 8)
   else (s.byteAt (Config.scratchLoc core p)).toNat / 2 ^ (bit % 8) % 2 ^ b, p / 16)

/-- The value of one element, and the significand width of its block (R228, R230, R232, R233, R275). -/
def State.elemAt (s : State) (core : Nat) (o : Opnd) (ftz : Bool) (row bit : Nat) : FV × Nat :=
  let (x, chunk) := s.rawAt core o row bit
  if o.fmt = 14 then
    let sc := Tab.get 0 (s.core core).sidecars chunk
    (q4Value sc x, q4Width sc)
  else if o.fmt < 8 then
    let v : Int := if o.sgn then signedField o.w (x % 2 ^ o.w) else x % 2 ^ o.w
    (.fin (v < 0) v.natAbs 0, o.w)
  else match Fmt.ofCode o.fmt with
    | some t => (unpackFtz t ftz x, o.w)
    | none => (.nan, o.w)

/-- One A row of step j: pairs of lane and value in increasing lane order (R274, R276), with the data width (R233). -/
def State.rowA (s : State) (core : Nat) (o : Opnd) (ftz : Bool) (j i : Nat) : List (Nat × FV) × Nat :=
  let k0 := 64 * j
  let n := Nat.min 64 (o.k - k0)
  let r := o.base + i * o.stride
  let es : List (Nat × FV × Nat) :=
    if o.sparse then (List.range (n / 4)).flatMap fun g =>
      let m := (s.byteAt (Config.scratchLoc core (interleave o.bank (r + o.meta + (k0 / 4 + g) / 2)))).toNat / 2 ^ (4 * ((k0 / 4 + g) % 2)) % 16
      let at_ (t : Nat) : Nat × FV × Nat := (4 * g + m / 4 ^ t % 4, s.elemAt core o ftz r ((k0 / 2 + 2 * g + t) * o.bits))
      if m % 4 ≤ m / 4 then [at_ 0, at_ 1] else [at_ 1, at_ 0]
    else (List.range n).map fun k => (k, s.elemAt core o ftz r ((k0 + k) * o.bits))
  (es.map (fun e => (e.1, e.2.1)), es.foldl (fun w e => Nat.max w e.2.2) 0)

/-- One B column of step j. -/
def State.colB (s : State) (core : Nat) (o : Opnd) (ftz : Bool) (j m : Nat) : List FV × Nat :=
  let k0 := 64 * j
  let es := (List.range (Nat.min 64 (o.k - k0))).map fun k =>
    if o.rows then s.elemAt core o ftz (o.base + m * o.stride) ((k0 + k) * o.bits)
    else s.elemAt core o ftz (o.base + (k0 + k) * o.stride) (m * o.bits)
  (es.map (·.1), es.foldl (fun w e => Nat.max w e.2) 0)

/-! ## Cost and schedule (R281, R282) -/

/-- Scheduled arithmetic cost (R272, R281). -/
def arithCost (p : Word) : Nat :=
  let c := Nat.max 4 (pcAw p * pcBw p)
  if pcSpa p then (c + 1) / 2 else c

/-- Delivery term of one step (R281). -/
def stepDelivery (cs : NSet) : Nat :=
  (List.range 16).foldl (fun m b => Nat.max m (((cs.filter fun (c, _) => c % 16 = b).length + 1) / 2)) 0

/-- C of R281. -/
def ArrayCmd.cost (a : ArrayCmd) : Nat :=
  (List.range (dscSteps a.dsc)).foldl (fun m j => Nat.max m (stepDelivery (stepChunks a.prec a.dsc a.pa a.pb j))) (arithCost a.prec)

/-- The data-driven cost of step j (R282). -/
def State.dataCost (s : State) (core : Nat) (a : ArrayCmd) (j : Nat) : Nat :=
  let p := a.prec
  let oa := opndA p a.dsc a.pa
  let ob := opndB p a.dsc a.pb
  let wa := if oa.fmt = 14 then (List.range 32).foldl (fun w i => Nat.max w (s.rowA core oa false j i).2) 0 else pcAw p
  let wb := if ob.fmt = 14 then (List.range 32).foldl (fun w i => Nat.max w (s.colB core ob false j i).2) 0 else pcBw p
  let d := Nat.max 4 (Nat.max (pcAw p) wa * Nat.max (pcBw p) wb)
  if pcSpa p then (d + 1) / 2 else d

/-- Core cycle of a vc of the task that issued a command. -/
def State.cmdCc (s : State) (a : ArrayCmd) (v : Nat) : Nat :=
  match a.base with | some b => b + v | none => (s.strand a.owner).ccOf v

def State.cmdVc (s : State) (a : ArrayCmd) : Nat :=
  match a.base with | some b => s.clock.cc - b | none => (s.strand a.owner).vcAt s.clock.cc

/-- The vc at which step j is scheduled to begin (R281). -/
def ArrayCmd.stepVc (a : ArrayCmd) (start j : Nat) : Nat := start + 8 + (j - a.first) * a.cost

/-- The core cycle at which step j ends if the step before ends at `prev`; `shift` core cycles of pauses come first. -/
def State.stepEnd (s : State) (core : Nat) (a : ArrayCmd) (start j prev shift : Nat) : Nat :=
  Nat.max prev (s.cmdCc a (a.stepVc start j) + shift) + Nat.max a.cost (s.dataCost core a j)

/-- The core cycles of the pauses at vc v and before it, of pauses that are told with their vcs. -/
def pausesTo (hs : Tab Nat) (v : Nat) : Nat := (hs.filter (·.1 ≤ v)).foldl (fun n h => n + h.2) 0

/-- The vc at which a late step of a command holds the domain: that of its scheduled end, or where that is known too late the one
that R434 names. -/
def State.stepHold (s : State) (a : ArrayCmd) (j t : Nat) : Nat :=
  let st := s.strand a.owner
  match st.lates.find? fun l => l.item = .step a.id j with
  | some l => if l.known = 0 then l.vc else Nat.max t (st.vcAt s.clock.cc + (l.known - s.clock.cc) + 1)
  | none => if s.clock.cc + s.notice a.owner ≤ s.cmdCc a t then t else Nat.max t (st.vcAt s.clock.cc + s.notice a.owner + 1)

/-- The end of the last step of a command from step j on, and the steps that end late, with their vcs (R282). Each late step holds
the domain at its vc, or at a later one (R434), so that only steps from that vc on are put off (R126). `hs` are the pauses to come
by their vcs, and `ends` the end of step j where it runs already. The domain of a task that has ended is held no more. -/
def State.project (s : State) (core : Nat) (a : ArrayCmd) (start j prev ends : Nat) (hs : Tab Nat) : Nat → Nat × List (Nat × Nat)
  | 0 => (prev, [])
  | n + 1 =>
    let e := if ends ≠ 0 then ends else s.stepEnd core a start j prev (pausesTo hs (a.stepVc start j))
    let v := a.stepVc start (j + 1)
    if s.cmdCc a v + pausesTo hs (v - 1) < e && a.base.isNone then
      let h := s.stepHold a j v
      let t := s.cmdCc a h + pausesTo hs (h - 1)
      let S := s.rotation a.owner
      let p := S * Nat.max 1 ((e - t + S - 1) / S)
      let (z, ls) := s.project core a start (j + 1) e 0 (Tab.put hs h (Nat.max p (Tab.get 0 hs h))) n
      (z, (j, v) :: ls)
    else s.project core a start (j + 1) e 0 hs n

/-- The core cycle at which the hold of a strand's domain ends, where that is fixed (R126). -/
def State.holdEndCc (s : State) (x : SId) : Option Nat :=
  if !s.present x then none
  else listMin (s.agenda.filterMap fun d => match d.what with
    | .holdEnd y _ => if (s.domain x).contains y && s.clock.cc ≤ d.at_ then some d.at_ else none
    | _ => none)

/-- A hold in progress of a command's domain, by its vc, with its core cycles as far as they are known (R126). -/
def State.holdPauses (s : State) (a : ArrayCmd) : Tab Nat :=
  let st := s.strand a.owner
  if st.held = 0 || a.base.isSome then []
  else [(st.held, match s.holdEndCc a.owner with
    | some e => e - st.ccOf st.held
    | none => s.holdRotations a.owner s.clock.cc * s.rotation a.owner)]

/-- A step of a command waits for the end of a hold: its vc is not reached before (R126, R282). -/
def State.stepHeld (s : State) (a : ArrayCmd) (j : Nat) : Bool :=
  let st := s.strand a.owner
  a.base.isNone && st.held ≠ 0 && st.held ≤ a.stepVc (a.start.getD 0) j

/-- The core cycle at which a started command completes; more than 8 after the present one, while a hold whose end is not fixed
puts off its last step. -/
def State.finishCc (s : State) (core : Nat) (a : ArrayCmd) : Nat :=
  match a.start with
  | none => 0
  | some v =>
    let e := (s.project core a v a.step (if a.ends = 0 then Nat.max a.prev s.clock.cc else a.prev) (if s.stepHeld a a.step then 0 else a.ends)
      (s.holdPauses a) (dscSteps a.dsc - a.step)).1
    if s.stepHeld a (dscSteps a.dsc - 1) && (s.holdEndCc a.owner).isNone then Nat.max e (s.clock.cc + 9) else e

/-! ## One step (R240 to R244) -/

/-- Path F or path N (R240). -/
def pathF (p : Word) : Bool := pcAfmt p = 10 || pcAfmt p = 11 || pcBfmt p = 10 || pcBfmt p = 11

def FV.toInt : FV → Int
  | .fin neg m e => if neg then -(atExp m e 0 : Int) else atExp m e 0
  | _ => 0

/-- The new pattern of one accumulator element (R241 to R244). -/
def accStep (p : Word) (acc : Nat) (row : List (Nat × FV)) (col : List FV) : Nat :=
  let t := accFmt (pcAcc p)
  let prods := row.map fun (k, v) => v.mul (col.getD k .nan)
  if t = .s64 then wrapTo 64 ((acc : Int) + prods.foldl (fun a v => a + v.toInt) 0)
  else if pathF p then
    prods.foldl (fun x v => pack t 0 0 (pcFtz p) (sumFV [unpackFtz t (pcFtz p) x, v] false)) acc
  else pack t (pcRm p) 0 (pcFtz p) (sumFV (unpackFtz t (pcFtz p) acc :: prods) (pcRm p = 3))

def accKey (bank e : Nat) : Nat := bank * 1024 + e
def Core.accAt (k : Core) (bank e : Nat) : Word := Tab.get 0 k.acc (accKey bank e)
def Core.setAcc (k : Core) (bank e : Nat) (x : Word) : Core := { k with acc := Tab.set 0 k.acc (accKey bank e) x }
/-- Every element of a bank becomes +0 (R292, R293). -/
def Core.clearBank (k : Core) (bank : Nat) : Core := { k with acc := k.acc.filter fun (i, _) => i / 1024 ≠ bank }

/-- Applies step j of a command to its bank. -/
def State.applyStep (s : State) (core : Nat) (a : ArrayCmd) (j : Nat) : State :=
  let oa := opndA a.prec a.dsc a.pa
  let ob := opndB a.prec a.dsc a.pb
  let rows := (List.range 32).map fun i => (s.rowA core oa (pcFtz a.prec) j i).1
  let cols := (List.range 32).map fun m => (s.colB core ob (pcFtz a.prec) j m).1
  s.modCore core fun k =>
    rows.zipIdx.foldl (fun k (r, i) => cols.zipIdx.foldl (fun k (c, m) =>
      k.setAcc a.bank (32 * i + m) (BitVec.ofNat 64 (accStep a.prec (k.accAt a.bank (32 * i + m)).toNat r c))) k) k

/-! ## The command queue (R278 to R280) -/

def Core.modArray (k : Core) (id : Nat) (f : ArrayCmd → ArrayCmd) : Core :=
  { k with array := k.array.map fun a => if a.id = id then f a else a }
def State.modArray (s : State) (core id : Nat) (f : ArrayCmd → ArrayCmd) : State := s.modCore core fun k => k.modArray id f

/-- The bank has commands that have not completed. -/
def Core.bankBusy (k : Core) (bank : Nat) : Bool := k.array.any (·.bank = bank)

/-- Commands of a task that has ended on a strand are left (R73). -/
def Core.leftBy (k : Core) (strand : Nat) : Bool := k.array.any fun a => a.owner.strand = strand && a.base.isSome

/-- The bank has such commands of an issue number before n (R294). -/
def Core.bankBusyBefore (k : Core) (bank n : Nat) : Bool := k.array.any fun a => a.bank = bank && a.id < n

/-- Lock ranges of a set of chunks of a core's scratch: runs of chunks joined. -/
def chunkRanges (core : Nat) : List (Nat × Unit) → List (Nat × Nat)
  | [] => []
  | (c, _) :: cs =>
    match chunkRanges core cs with
    | (l, n) :: rs => if l = Config.scratchLoc core (c * 16) + 16 then (l - 16, n + 16) :: rs else (Config.scratchLoc core (c * 16), 16) :: (l, n) :: rs
    | [] => [(Config.scratchLoc core (c * 16), 16)]

/-- The read locks of a command from a step on (R278, R283). -/
def ArrayCmd.lockRanges (a : ArrayCmd) (core first : Nat) : List (Nat × Nat) :=
  chunkRanges core (cmdChunks a.prec a.dsc a.pa a.pb first)

/-- Commands of the queue before one. -/
def earlierCmds : List ArrayCmd → Nat → List ArrayCmd
  | [], _ => []
  | a :: as, id => if a.id = id then [] else a :: earlierCmds as id

/-- Every earlier command has started, a waiting MZERO of the other bank counting as started (R279, R280). -/
def orderReached (q : List ArrayCmd) (a : ArrayCmd) : Bool :=
  (earlierCmds q a.id).all fun b => b.start.isSome || (b.zero && b.bank ≠ a.bank)

/-- The core cycle from which the array is free for a command (R279). -/
def State.freeCc (s : State) (core : Nat) (a : ArrayCmd) : Nat :=
  ((earlierCmds (s.core core).array a.id).map (s.finishCc core)).foldl Nat.max 0 - 8

/-- A slot of the command whose tag differs from its HSEQ, the lowest (R140, R221, R283). -/
def State.tagBad (s : State) (core : Nat) (a : ArrayCmd) : Option TrapInfo :=
  a.hseq.bind fun t =>
    ((cmdChunks a.prec a.dsc a.pa a.pb a.first).map fun (c, _) => c / 256).dedup.findSome? fun n =>
      let found := Tab.get 0 (s.core core).tags n
      if a.skip.contains n || found = t then none else some (scheduleTrap n found t)

/-- What follows when the queue or its locks have changed. -/
def State.arrayChanged (s : State) (core : Nat) : State :=
  let s := s.postAll [.mzeroApply core, .arrayCommandStart core, .copyStart core]
  let s := (s.core core).releasing.foldl (fun t b => t.post 0 (.bankRelease core (BitVec.ofNat 1 b))) s
  s.wakeCore core

/-- A k-step of a command, or all that are left of it, make no vc late any more. -/
def State.stepsDone (s : State) (a : ArrayCmd) (f : Nat → Bool) : State :=
  s.modStrand a.owner fun st => st.itemsHere fun i => match i with | .step c j => c = a.id && f j | _ => false

/-- A command leaves the queue: its locks are released and units that waited for it may retire (R284, R73). -/
def State.dropCmd (s : State) (core : Nat) (a : ArrayCmd) : State :=
  (((s.modCore core fun k => { k with array := k.array.filter fun b => b.id ≠ a.id }).stepsDone a fun _ => true).opDone a.id).arrayChanged core

/-- A command that faults after its issue (R141, R284, R367); a fault found once its task has ended goes to no strand. -/
def State.failCmd (s : State) (core : Nat) (a : ArrayCmd) (t : TrapInfo) (element : Nat) : State :=
  let s := s.dropCmd core a
  if a.base.isSome then s else s.addLate a.owner { t with other := a.gpc } (some (BitVec.ofNat 64 element))

/-- The next step of a started command begins, or will at its vc: its end is known (R282). -/
def State.beginStep (s : State) (core : Nat) (a : ArrayCmd) (v : Nat) : State :=
  let e := s.stepEnd core a v a.step a.prev 0
  (s.modArray core a.id fun b => { b with ends := e }).post (e - s.clock.cc) (.kStepEnd core)

/-- A command starts (R279, R281, R292). Steps that will end late are known now, from the scale sidecars (R282). -/
def State.startCmd (s : State) (core : Nat) (a : ArrayCmd) : State :=
  let s := if a.clear && a.first = 0 then s.modCore core fun k => k.clearBank a.bank else s
  let v := s.cmdVc a
  let a := { a with start := some v, prev := s.clock.cc }
  let s := s.modArray core a.id fun _ => a
  let late := (s.project core a v a.first s.clock.cc 0 (s.holdPauses a) (dscSteps a.dsc - a.first)).2
  let s := late.foldl (fun u (j, t) => u.noteLate a.owner (.step a.id j) t) s
  (s.beginStep core a v).postAll [.arrayCommandStart core, .mzeroApply core]

/-- The first command that is at its start vc, or that entered the queue once it had passed, and the first that may start without
one (R140, R279). -/
def State.tryArray (s : State) (core : Nat) : State :=
  let q := (s.core core).array
  let idle := q.filter fun a => !a.zero && a.start.isNone
  match idle.find? fun a => a.hstart.any (· ≤ s.cmdVc a) with
  | some a =>
    if !orderReached q a || s.clock.cc < s.freeCc core a then s.failCmd core a (timingTrap 1 0) a.first
    else match s.tagBad core a with
      | some t => s.failCmd core a t a.first
      | none =>
        if a.hseq.isNone && s.conflictsEarlier a.id a.locks [] then s.failCmd core a (timingTrap 2 0) a.first
        else s.startCmd core a
  | none =>
    let waits (a : ArrayCmd) : Option Nat :=
      match a.hstart with | some n => if s.cmdVc a < n then some (n - s.cmdVc a) else none | none => none
    let s := match listMin (idle.filterMap waits) with
      | some n => s.postOnce n (.arrayCommandStart core)
      | none => s
    match idle.find? fun a => orderReached q a with
    | none => s
    | some a =>
      if (waits a).isSome || a.waitCopy.isSome then s
      else if s.clock.cc < s.freeCc core a then s.postOnce (s.freeCc core a - s.clock.cc) (.arrayCommandStart core)
      else match s.tagBad core a with
        | some t => if s.conflictsEarlier a.id a.locks [] then s else s.failCmd core a t a.first
        | none => if s.conflictsEarlier a.id a.locks [] then s else s.startCmd core a

/-- The first bad sector that step j reads, by its address in the window (R284). -/
def State.stepBad (s : State) (core : Nat) (a : ArrayCmd) (j : Nat) : Option Word :=
  (stepChunks a.prec a.dsc a.pa a.pb j).findSome? fun (c, _) =>
    if s.isBad (Config.scratchLoc core (c * 16)) then some (BitVec.ofNat 64 (Config.scratchBase + c / 2 * 32)) else none

/-- A k-step ends and is applied (R282, R284); the command then completes, goes on, or stops at the boundary (R286). -/
def State.endStep (s : State) (core : Nat) (a : ArrayCmd) (v : Nat) : State :=
  let s := s.stepsDone a (· = a.step)
  let s := match s.stepBad core a a.step with
    | some w => s.failCmd core a (trapOf .integrity w) a.step
    | none =>
      let s := s.applyStep core a a.step
      if dscSteps a.dsc ≤ a.step + 1 then s.dropCmd core a
      else
        let a := { a with step := a.step + 1, prev := a.ends, ends := 0 }
        let s := s.modArray core a.id fun _ => a
        if s.arrayGoes core then s.beginStep core a v
        else match (s.core core).job with
          | some j => s.post 0 (.quiesceMarkerPass j (.array core))
          | none => s
  s.holdCheck a.owner

/-- The running command whose step is due to end, or one that stands at a boundary. A step whose vc a hold puts off is looked at when
that has ended. -/
def State.stepDue (s : State) (core : Nat) : State :=
  let running := (s.core core).array.filter fun a => a.start.isSome && !s.stepHeld a a.step
  match running.find? fun a => a.ends = 0 || a.ends ≤ s.clock.cc with
  | some a =>
    let v := a.start.getD 0
    if a.ends = 0 then
      if !s.arrayGoes core then s
      else (s.modArray core a.id fun b => { b with prev := Nat.max b.prev s.clock.cc }).beginStep core { a with prev := Nat.max a.prev s.clock.cc } v
    else s.endStep core a v
  | none =>
    match listMin (running.map (·.ends)) with
    | some e => s.postOnce (e - s.clock.cc) (.kStepEnd core)
    | none => s

/-- After a pause, steps whose first vc is still to come end later (R126, R282). -/
def State.retimeArrays (s : State) (x : SId) : State :=
  (s.domain x).foldl (fun t y => (t.core y.core).array.foldl (fun t a =>
    match a.start with
    | some v =>
      if a.owner = y && a.base.isNone && a.ends ≠ 0 && t.clock.cc < t.cmdCc a (a.stepVc v a.step) + 1 then
        t.beginStep y.core a v
      else if a.owner = y && a.base.isNone && a.ends = 0 then t.postOnce 0 (.kStepEnd y.core)
      else t
    | none => t) t) s

/-- MZERO_APPLY (R280, R293). -/
def State.tryZero (s : State) (core : Nat) : State :=
  let q := (s.core core).array
  match q.find? fun a => a.zero && orderReached q a && (earlierCmds q a.id).all (fun b => b.bank ≠ a.bank) with
  | some a => (s.modCore core fun k => k.clearBank a.bank).dropCmd core a
  | none => s

/-! ## Effects -/

/-- An array command enters the queue: the effect of MMA, MMAS and MZERO (R278, R284, R292). -/
def State.performArray (s : State) (x : SId) (a : ArrayCmd) : EffRes :=
  let s := s.endRegion x
  let k := s.core x.core
  if 4 ≤ k.array.length || (!a.zero && 16 ≤ k.lockEntries) then .park s .fullEmpty
  else
    let first := if a.zero then 0 else (s.strand x).regs.csr.mpx.toNat
    let a := { a with id := s.nextId, first := first, step := first }
    let a := if a.zero then a else { a with locks := a.lockRanges x.core first }
    let a := if first = 0 then a else { a with hstart := none, hseq := none }
    let s : State := { s with nextId := s.nextId + 1 }
    let s := s.modCore x.core fun k => { k with array := k.array ++ [a] }
    if a.zero then .done (s.post 0 (.mzeroApply x.core))
    else
      let s := s.setMpx x 0
      if dscSteps a.dsc ≤ first then .done (s.dropCmd x.core a)
      else .done (s.post (match a.hstart with | some n => s.ccTo x n | none => 0) (.arrayCommandStart x.core))

/-- A follow-on that has just entered the queue registers its read locks (R221, R278). -/
def State.lockFollow (s : State) (core : Nat) : State :=
  s.modCore core fun k =>
    { k with array := k.array.map fun a => if a.waitCopy.isSome && a.locks = [] then { a with locks := a.lockRanges core a.first } else a }

/-- The effect of MPREC (R245, R271, R290): checks in reason order, the conversion of the bank, which flushes nothing
(R235; notes/assumptions/62.md), and ownership. -/
def State.performMprec (s : State) (x : SId) (bank : Nat) (short : Bool) (image : Word) : EffRes :=
  let k := s.core x.core
  let old := k.prec bank
  if precOwn old && precOstr old ≠ x.strand then .fault s (operandTrap bank 1)
  else if short && (pcAfmt image = 15 || pcBfmt image = 15 || !accCodeOk (pcAcc image)) then .fault s (operandTrap bank 4)
  else if pcAcc image ≠ pcAcc old && k.bankBusy bank then .fault s (operandTrap bank 6)
  else if !precValid image then .fault s (operandTrap bank 8)
  else
    let conv (k : Core) (e : Nat) : Core :=
      k.setAcc bank e (BitVec.ofNat 64 (convert (accFmt (pcAcc image)) (accFmt (pcAcc old)) 0 0 false (k.accAt bank e).toNat))
    let k := if pcAcc image = pcAcc old then k else (List.range 1024).foldl conv k
    let k := (k.setPrec bank (precOwned image x.strand))
    .done (s.setCore x.core { k with releasing := k.releasing.filter fun b => b ≠ bank })

/-- The effect of MWRACC (R295). -/
def State.performMwracc (s : State) (x : SId) (bank : Nat) (index value : Word) : EffRes :=
  let t := accFmt (pcAcc ((s.core x.core).prec bank))
  let v := value.toNat % 2 ^ t.bits
  let v := if t ≠ .s64 && (unpack t v).isNan then t.canonNan else v
  .done (s.modCore x.core fun k => k.setAcc bank (index.toNat % 1024) (BitVec.ofNat 64 v))

/-- The release of a bank when MRDACC.rel's register lands (R269, R294). -/
def State.performRelease (s : State) (x : SId) (bank : Nat) : State :=
  s.modCore x.core fun k => if k.ownsBank x.strand bank then k.setPrec bank (precFree (k.prec bank)) else k

/-- The core's banks as the strand's deferred MPREC and MWRACC will leave them (R294). -/
def State.ahead (s : State) (x : SId) : State :=
  (s.strand x).deferred.foldl (fun t e =>
    match e.eff with
    | .mprec b sh w => (match t.performMprec x b sh w with | .done u => u | _ => t)
    | .mwracc b i v => (match t.performMwracc x b i v with | .done u => u | _ => t)
    | _ => t) s

end Sys2Proof.Machine
end

