-- ==== Sys2Proof/Machine/MapOps.lean ====
section
/-! DEFINITION. Maps (R296 to R329): the parameter block, the arena's buddy allocator, shard records and buckets in memory,
the growth work, the key operations of the home sequencer, MAPNEW, MAPGETN, MAPSCAN, MAPSTL, MAPCLR and MAPINFO. -/

namespace Sys2Proof.Machine

/-! ## Parameters (R296 to R298, R301) -/

/-- What a map's PARAM, SIZE, ARENA and SEED say. -/
structure MapParm where
  buckets : Nat
  shards : Nat
  limit : Nat
  home : Nat
  vw : Nat
  kw : Nat
  mix : Bool
  size : Nat
  arena : Nat
  seed : Nat

/-- The fields of a parameter block, whose bits 255 to 192, 167 to 128, 120 to 0 also stand in the descriptor (R296, R301). -/
def mapParm (b : Rec256) : MapParm :=
  { buckets := bitsOf b 255 224, shards := bitsOf b 223 215, limit := bitsOf b 214 212, home := bitsOf b 211 204,
    vw := bitsOf b 203 202, kw := bitsOf b 201 201, mix := bitOf b 200, size := bitsOf b 167 128, arena := bitsOf b 120 64,
    seed := bitsOf b 63 0 }

def isPow2 (n : Nat) : Bool := n ≠ 0 && 2 ^ Nat.log2 n = n

/-- Value bytes, key bytes, slots and header bytes of an entry shape (R297). -/
def MapParm.vb (p : MapParm) : Nat := match p.vw with | 0 => 0 | 1 => 8 | _ => 16
def MapParm.kb (p : MapParm) : Nat := if p.kw = 0 then 8 else 16
def MapParm.slots (p : MapParm) : Nat := if p.kw = 0 then (if p.vw = 0 then 14 else 7) else if p.vw = 1 then 4 else 3
def MapParm.hb (p : MapParm) : Nat := if p.kw = 0 then 16 else 32
def MapParm.eb (p : MapParm) : Nat := p.kb + p.vb
def shapeOk (kw vw : Nat) : Bool := (kw = 0 && vw ≤ 1) || (kw = 1 && (vw = 1 || vw = 2))

/-- The parameter block obeys R296 and R297. -/
def mapParmOk (b : Rec256) : Bool :=
  let p := mapParm b
  bitsOf b 199 192 = 0 && bitsOf b 191 168 = 0 && bitsOf b 127 121 = 0 && isPow2 p.buckets && 2 ≤ p.buckets && p.buckets ≤ 2 ^ 31 &&
    isPow2 p.shards && p.shards ≤ 256 && 1 ≤ p.limit && p.home < 256 && shapeOk p.kw p.vw && isPow2 p.size &&
    4096 ≤ p.size && p.size ≤ 2 ^ 39 && p.arena % 4096 = 0

/-! ## The allocator (R299) -/

/-- Enters a free block in ascending order. -/
def insertBlock (f : List (Nat × Nat)) (b : Nat × Nat) : List (Nat × Nat) :=
  match f with
  | [] => [b]
  | c :: cs => if b.1 < c.1 then b :: c :: cs else c :: insertBlock cs b

/-- The upper halves left when a block of 2^(k + n) granules is halved down to 2^k. -/
def halves (a k : Nat) : Nat → List (Nat × Nat)
  | 0 => []
  | n + 1 => (a + 2 ^ (k + n), k + n) :: halves a k n

/-- Takes a block of 2^k granules from the free block at the lowest address that is large enough. -/
def buddyTake (f : List (Nat × Nat)) (k : Nat) : Option (Nat × List (Nat × Nat)) :=
  match f.find? fun b => k ≤ b.2 with
  | none => none
  | some b => some (b.1, (halves b.1 k (b.2 - k)).foldl insertBlock (f.filter fun c => c ≠ b))

/-- Frees a block, merging it with its buddy while that is wholly free. -/
def buddyFree : Nat → List (Nat × Nat) → Nat → Nat → List (Nat × Nat)
  | 0, f, a, k => insertBlock f (a, k)
  | n + 1, f, a, k =>
    let b := a ^^^ 2 ^ k
    if f.contains (b, k) then buddyFree n (f.filter fun c => c ≠ (b, k)) (Nat.min a b) (k + 1) else insertBlock f (a, k)

def freeGranules (f : List (Nat × Nat)) : Nat := f.foldl (fun n b => n + 2 ^ b.2) 0

/-- log2 of a count, rounded up. -/
def ceilLog2 (n : Nat) : Nat := if n ≤ 1 then 0 else Nat.log2 (n - 1) + 1

/-! ## A map being worked on -/

/-- A step of a map's engine: the state so far, the map, its parameters, and the first bad sector met, by its address. -/
structure Mx where
  s : State
  v : LiveMap
  p : MapParm
  handle : Nat
  bad : Option Nat

def Mx.nat (m : Mx) (off n : Nat) : Nat := m.s.natAt (m.v.loc off) n
/-- The map's engine writes at the lines' home: copies that loads have taken are recalled (R168, R303). -/
def Mx.put (m : Mx) (off n x : Nat) : Mx := { m with s := m.s.homeBytes (m.v.loc off) (leBytes n x) }

/-- Verifies the line of a granule (R308). -/
def Mx.touch (m : Mx) (g : Nat) : Mx :=
  match m.bad, m.s.firstBad (m.v.loc (128 * g)) 128 with
  | none, some l => { m with bad := some (m.p.arena + 128 * g + (l - m.v.loc (128 * g))) }
  | _, _ => m

/-- A new state of the allocator, with FREE in the descriptor (R301). -/
def Mx.setFree (m : Mx) (f : List (Nat × Nat)) : Mx :=
  let s := m.s.homeSet (m.v.desc + 32) 4 (freeGranules f)
  let s := s.homeSet (m.v.desc + 36) 1 (freeGranules f / 2 ^ 32)
  { m with s := s, v := { m.v with free := f, stamp := m.v.stamp + 1 } }

def Mx.zero (m : Mx) (g : Nat) : Nat → Mx
  | 0 => m
  | n + 1 => (m.put (128 * g) 128 0).zero (g + 1) n

/-- Verifies the lines of n granules (R308). -/
def Mx.touchAll (m : Mx) (g : Nat) : Nat → Mx
  | 0 => m
  | n + 1 => (m.touch g).touchAll (g + 1) n

/-- Allocates 2^k granules, verified and then zeroed (R308); the lines of the allocator's map are touched by no step
(R317; notes/assumptions/62.md). -/
def Mx.alloc (m : Mx) (k : Nat) : Option (Nat × Mx) :=
  (buddyTake m.v.free k).map fun (g, f) => (g, ((m.touchAll g (2 ^ k)).setFree f).zero g (2 ^ k))

/-- The accumulator of a response of the map engine at a shard's home (R304, R427). -/
def Mx.bank (m : Mx) (i : Nat) : Option Nat := some (32 + sliceLocal ((m.p.home + i) % 256))

def Mx.release (m : Mx) (g k : Nat) : Mx := m.setFree (buddyFree 40 m.v.free g k)

/-! ## Shard records (R302) -/

structure Shard where
  tab : Nat
  ntab : Nat
  cur : Nat
  seq : Nat
  count : Nat
  waitg : Bool
  grow : Bool
  lgb : Nat
  home : Nat

def Mx.shard (m : Mx) (i : Nat) : Shard :=
  let w : Rec256 := BitVec.ofNat 256 (m.nat (32 * i) 32)
  { tab := bitsOf w 31 0, ntab := bitsOf w 63 32, cur := bitsOf w 95 64, seq := bitsOf w 127 96, count := bitsOf w 167 128,
    waitg := bitOf w 192, grow := bitOf w 193, lgb := bitsOf w 199 194, home := bitsOf w 207 200 }

def Shard.word (r : Shard) : Nat :=
  r.tab + r.ntab * 2 ^ 32 + r.cur * 2 ^ 64 + r.seq % 2 ^ 32 * 2 ^ 96 + r.count % 2 ^ 40 * 2 ^ 128 + r.waitg.toNat * 2 ^ 192 +
    r.grow.toNat * 2 ^ 193 + r.lgb * 2 ^ 194 + r.home * 2 ^ 200

def Mx.setShard (m : Mx) (i : Nat) (r : Shard) : Mx := m.put (32 * i) 32 r.word

/-! ## Hashing (R304) -/

def mixHash (x : Nat) : Nat :=
  let x := x ^^^ (x / 2 ^ 29)
  let x := x * 0x8F2B6D41E9C37A55 % 2 ^ 64
  let x := x ^^^ (x / 2 ^ 32)
  let x := x * 0xB45E1D07A3C96F2B % 2 ^ 64
  x ^^^ (x / 2 ^ 31)

def MapParm.hash (p : MapParm) (k : Nat) : Nat :=
  let x := (k % 2 ^ 64) ^^^ p.seed
  let x := if p.kw = 1 then x ^^^ (k / 2 ^ 64) else x
  if p.mix then mixHash x else x

def MapParm.shardOf (p : MapParm) (h : Nat) : Nat := h / 2 ^ 40 % 2 ^ 8 % p.shards

/-! ## Buckets (R305 to R307) -/

/-- An entry's slot: its granule and number. -/
abbrev SlotAt := Nat × Nat

def Mx.hdr (m : Mx) (g : Nat) : Nat := m.nat (128 * g) 16
def Mx.used (m : Mx) (g n : Nat) : Bool := m.hdr g / 2 ^ (44 + n) % 2 = 1
def Mx.cnt (m : Mx) (g : Nat) : Nat := m.hdr g / 2 ^ 40 % 16
def Mx.ovf (m : Mx) (g : Nat) : Nat := m.hdr g % 2 ^ 40
def Mx.setOvf (m : Mx) (g o : Nat) : Mx := m.put (128 * g) 16 (m.hdr g / 2 ^ 40 * 2 ^ 40 + o)
def Mx.slotOff (m : Mx) (a : SlotAt) : Nat := 128 * a.1 + m.p.hb + a.2 * m.p.eb
def Mx.keyAt (m : Mx) (a : SlotAt) : Nat := m.nat (m.slotOff a) m.p.kb
def Mx.valAt (m : Mx) (a : SlotAt) : Nat := m.nat (m.slotOff a + m.p.kb) m.p.vb

/-- Width and place of a slot's tag (R305). -/
def Mx.tagW (m : Mx) : Nat := if m.p.kw = 0 && m.p.vw = 0 then 4 else 8

/-- The granules of a bucket's chain in order (R307), each verified. -/
def Mx.chain : Nat → Mx → Nat → Mx × List Nat
  | 0, m, _ => (m, [])
  | f + 1, m, g =>
    let m := m.touch g
    if m.ovf g = 0 then (m, [g])
    else
      let (m, gs) := Mx.chain f m (m.ovf g)
      (m, g :: gs)

/-- A chain is no longer than the arena has granules. -/
def Mx.walk (m : Mx) (g : Nat) : Mx × List Nat := Mx.chain (m.v.size / 128) m g

/-- The slots of a chain in walk order. -/
def Mx.slotsOf (m : Mx) (gs : List Nat) : List SlotAt := gs.flatMap fun g => (List.range m.p.slots).map fun n => (g, n)

/-- Writes a header with one slot's bits changed. -/
def Mx.mark (m : Mx) (a : SlotAt) (on : Bool) (tag : Nat) : Mx :=
  let h := m.hdr a.1
  let tw := m.tagW
  let t := 64 + tw * a.2
  let h := h - h / 2 ^ t % 2 ^ tw * 2 ^ t + tag % 2 ^ tw * 2 ^ t
  let h := h - (m.used a.1 a.2).toNat * 2 ^ (44 + a.2) + on.toNat * 2 ^ (44 + a.2)
  m.put (128 * a.1) 16 (if on then h + 2 ^ 40 else h - 2 ^ 40)

/-- Fills a free slot (R305, R306). -/
def Mx.fill (m : Mx) (a : SlotAt) (h k v : Nat) : Mx :=
  ((m.put (m.slotOff a) m.p.kb k).put (m.slotOff a + m.p.kb) m.p.vb v).mark a true (h / 2 ^ 48 % 2 ^ 8)

/-- Inserts an entry in the chain of a bucket (R307); none where a granule is needed and cannot be had. -/
def Mx.insert (m : Mx) (bucket h k v : Nat) : Option Mx :=
  let (m, gs) := m.walk bucket
  match (m.slotsOf gs).find? fun a => !m.used a.1 a.2 with
  | some a => some (m.fill a h k v)
  | none => (m.alloc 0).map fun (g, m) => (m.setOvf (gs.getLastD bucket) g).fill (g, 0) h k v

/-- The entry with a key in the chain of a bucket, all of whose lines are verified (R308; notes/assumptions/62.md). -/
def Mx.find (m : Mx) (bucket k : Nat) : Mx × Option SlotAt :=
  let (m, gs) := m.walk bucket
  (m, (m.slotsOf gs).find? fun a => m.used a.1 a.2 && m.keyAt a = k)

/-- Removes an entry; an overflow bucket left empty is unlinked and freed (R307). -/
def Mx.remove (m : Mx) (bucket : Nat) (a : SlotAt) : Mx :=
  let m := (m.put (m.slotOff a) m.p.eb 0).mark a false 0
  if a.1 ≠ bucket && m.cnt a.1 = 0 then
    let (m, gs) := m.walk bucket
    match (gs.zip gs.tail).find? fun (_, g) => g = a.1 with
    | some (before, g) => (m.setOvf before (m.ovf g)).release g 0
    | none => m
  else m

/-! ## Growth (R310 to R312) -/

/-- Starts growth with a table of 2B granules, or marks that it waits (R310). -/
def Mx.wantTable (m : Mx) (r : Shard) : Mx × Shard :=
  match m.alloc (r.lgb + 1) with
  | some (g, m) => (m, { r with ntab := g, cur := 0, grow := true, waitg := false })
  | none => (m, { r with waitg := true })

/-- Moves the entries of old bucket CUR to its two new buckets (R312), or nothing at all. The old line stays as it stood until its
table is freed (notes/assumptions/62.md). -/
def Mx.split (m : Mx) (r : Shard) : Mx × Option Mx :=
  let (m, gs) := m.walk (r.tab + r.cur)
  let es := ((m.slotsOf gs).filter fun a => m.used a.1 a.2).map fun a => (m.keyAt a, m.valAt a)
  let up (k : Nat) : Bool := m.p.hash k / 2 ^ r.lgb % 2 = 1
  let place (b : Nat) (m? : Option Mx) (e : Nat × Nat) : Option Mx := m?.bind fun m => m.insert b (m.p.hash e.1) e.1 e.2
  let lo := (es.filter fun e => !up e.1).foldl (place (r.ntab + r.cur)) (some m)
  let hi := (es.filter fun e => up e.1).foldl (place (r.ntab + r.cur + 2 ^ r.lgb)) lo
  (m, hi.map fun m => (gs.tail).foldl (fun m g => m.release g 0) m)

/-- The pre-split (R311): whether a split was performed. -/
def Mx.presplit (m : Mx) (r : Shard) : Mx × Shard × Bool :=
  match m.split r with
  | (m, none) => (m, { r with waitg := true }, false)
  | (_, some m) =>
    let c := r.cur + 1
    if c = 2 ^ r.lgb then
      (m.release r.tab r.lgb, { r with tab := r.ntab, ntab := 0, cur := 0, lgb := r.lgb + 1, grow := false, waitg := false }, true)
    else (m, { r with cur := c, waitg := false }, true)

/-- The growth work of an operation (R311). -/
def Mx.growth (m : Mx) (r : Shard) : Mx × Shard × Bool :=
  if r.grow then m.presplit r
  else if r.waitg then
    match m.wantTable r with
    | (m, r) => if r.grow then m.presplit r else (m, r, false)
  else (m, r, false)

/-- Growth that an insert begins (R310), where COUNT stands above B × L after it (notes/assumptions/62.md). -/
def Mx.startGrowth (m : Mx) (r : Shard) : Mx × Shard :=
  let b := 2 ^ r.lgb
  if b * m.p.limit < r.count && !r.grow && !r.waitg && r.lgb ≠ 31 && 256 * b ≤ m.p.size then m.wantTable r else (m, r)

/-- The bucket that a hash uses (R311). -/
def Shard.bucket (r : Shard) (h : Nat) : Nat :=
  let i := h % 2 ^ r.lgb
  if r.grow && i < r.cur then r.ntab + h % 2 ^ (r.lgb + 1) else r.tab + i

/-! ## Finding a map -/

/-- The parameters that a descriptor holds (R301). -/
def State.descParm (s : State) (desc : Nat) : MapParm :=
  let d := s.natAt desc 48
  let w (hi lo : Nat) : Nat := d / 2 ^ lo % 2 ^ (hi + 1 - lo)
  mapParm (BitVec.ofNat 256 (w 255 192 * 2 ^ 192 + w 167 128 * 2 ^ 128 + w 120 64 * 2 ^ 64 + w 63 0))

/-- The live map whose locked descriptor stands at a location, ready to be worked on. -/
def State.openMap (s : State) (desc handle : Nat) : Option Mx :=
  match s.mem.maps.find? (·.desc = desc) with
  | some v =>
    if s.natAt (desc + 15) 1 / 128 = 1 then
      let m : Mx := { s := s, v := v, p := s.descParm desc, handle := handle, bad := none }
      match s.firstBad desc 128 with
      | some l => some { m with bad := some (handle + (l - desc)) }
      | none => some m
    else none
  | none => none

/-- The state after a step, with the map as it left it. -/
def Mx.close (m : Mx) : State :=
  m.s.modMem fun k => { k with maps := k.maps.map fun v => if v.desc = m.v.desc then m.v else v }

/-- A step that met a bad sector is not performed (R308). -/
def Mx.fault (m : Mx) : Option TrapInfo := m.bad.map fun a => trapOf .integrity (BitVec.ofNat 64 (a / 32 * 32))

def mapDesc (handle : Word) (reason : Nat) : TrapInfo := trapOf .mapdesc (handle ||| BitVec.ofNat 64 reason)

/-- Checks 1 to 4 of R317. A map operation also needs a descriptor that it may write (R403); that it does not translate is XLATER, as
R317 states for this check, where R401 names XLATEW for every write of R403 (notes/assumptions/59.md). -/
def State.mapCheck (s : State) (x : SId) (handle : Word) (q : Policy) (writes : Bool := true) : Mx ⊕ TrapInfo :=
  if !polOk q || polSpace q ≠ 0 then .inr (trapOf .operand (q.setWidth 64))
  else if handle.toNat % 128 ≠ 0 then .inr (trapOf .misalign handle)
  else match s.resolve x handle q (if writes then { Need.map with blocks := false } else Need.read) with
    | .bad t => .inr (if t.cause = .xlatew then { t with cause := .xlater } else t)
    | .blocked => .inr (trapOf .perm handle)
    | .at_ l _ => match s.openMap l handle.toNat with
      | some m => .inl m
      | none => .inr (mapDesc handle 1)

/-! ## Key operations (R308, R315 to R319) -/

/-- A sequencer operation begins: the shard's record, with its new number. -/
def Mx.accept (m : Mx) (i : Nat) : Mx × Shard :=
  let m := m.touch (i / 4)
  let r := m.shard i
  (m, { r with seq := (r.seq + 1) % 2 ^ 32 })

/-- The status and the output value of an operation, within its step: the table of R319. -/
def Mx.effect (m : Mx) (r : Shard) (op : MapOp) (h k v new : Nat) : Mx × Shard × Nat × Nat :=
  let b := r.bucket h
  let m' := m.find b k
  let m := m'.1
  match m'.2 with
  | some a =>
    let u := m.valAt a
    let set (w : Nat) : Mx := m.put (m.slotOff a + m.p.kb) m.p.vb w
    match op with
    | .prb => (m, r, 1, u)
    | .ins => (m, r, 3, u)
    | .ups => (set v, r, 1, u)
    | .del => (m.remove b a, { r with count := r.count - 1 }, 6, u)
    | .add =>
      let w := (u + v) % 2 ^ (8 * m.p.vb)
      (set w, r, 1, w)
    | .cas => if u = v then (set new, r, 1, u) else (m, r, 5, u)
  | none =>
    match op with
    | .prb | .del | .cas => (m, r, 0, 0)
    | .ins | .ups | .add =>
      match m.insert b h k v with
      | some m =>
        let (m, r) := m.startGrowth { r with count := r.count + 1 }
        (m, r, 2, v)
      | none => (m, r, 4, 0)

/-- One key operation as one step of the sequencer: its number, status and output. -/
def Mx.keyOp (m : Mx) (op : MapOp) (k v new : Nat) : Mx × Nat × Nat × Nat :=
  let h := m.p.hash k
  let i := m.p.shardOf h
  let (m, r) := m.accept i
  let n := r.seq
  let (m, r, _) := m.growth r
  let (m, r, st, out) := m.effect r op h k v new
  (m.setShard i r, n, st, out)

/-- pd of a status (R316). -/
def statusPred (st : Nat) : PWord := if st = 1 || st = 2 || st = 6 then 0xFFFF else 0

/-- Check 5 of R317: registers that R315 adds beyond the named fields. -/
def mapRegBad (part : Part) (p : MapParm) (c : MapCmd) : Option TrapInfo :=
  if p.vb = 16 && part.gregs ≤ c.d + 2 then some (trapOf .illreg (BitVec.ofNat 64 (c.d + 2)))
  else if p.kb = 16 && part.gregs ≤ c.b + 1 then some (trapOf .illreg (BitVec.ofNat 64 (c.b + 1)))
  else none

/-- Check 6 of R317 (R318). -/
def mapShapeBad (p : MapParm) (op : MapOp) : Bool := (op = .add && p.vb = 0) || (op = .cas && p.vb ≠ 8)

/-- A key operation at its sequencer, with the checks of R317: the writes that will land, or the fault. -/
def State.mapKeyAt (s : State) (x : SId) (c : MapCmd) : State × (List Dest ⊕ TrapInfo) :=
  match s.mapCheck x c.handle c.q with
  | .inr t => (s, .inr t)
  | .inl m =>
    match mapRegBad (s.core x.core).part m.p c with
    | some t => (s, .inr t)
    | none =>
      if mapShapeBad m.p c.op then (s, .inr (mapDesc c.handle 5))
      else
        let k := c.key.toNat % 2 ^ (8 * m.p.kb)
        let v := c.val.toNat % 2 ^ (8 * m.p.vb)
        let wide := m.p.vb = 16
        let (m, n, st, out) := { m with s := s.endRegion x }.keyOp c.op k v c.new.toNat
        match m.fault with
        | some t => (s.endRegion x, .inr t)
        | none =>
          (m.close, .inl ([.g c.d (BitVec.ofNat 64 out), .g (c.d + 1) (BitVec.ofNat 64 (n * 2 ^ 32 + st)), .p c.p (statusPred st)] ++
            (if wide then [.g (c.d + 2) (BitVec.ofNat 64 (out / 2 ^ 64))] else [])))

/-- The shard that a key operation goes to, by its map's descriptor. -/
def State.shardOfCmd (s : State) (x : SId) (c : MapCmd) : Option (Nat × Nat) :=
  match s.mapCheck x c.handle c.q with
  | .inl m => some (m.v.desc, m.p.shardOf (m.p.hash (c.key.toNat % 2 ^ (8 * m.p.kb))))
  | .inr _ => none

/-- The LLC slice of the package at which a map operation is performed: its shard's home, (HOME + shard) mod 256 (R304). -/
def State.mapSlice (s : State) (x : SId) (c : MapCmd) : Option Nat :=
  (s.shardOfCmd x c).map fun (desc, shard) => ((s.descParm desc).home + shard) % 256

/-! ## MAPNEW (R300, R320) -/

/-- Where an arena's pages lie, in ascending order; a fault, or with `need.blocks` a write block, otherwise. -/
def State.arenaPieces (s : State) (x : SId) (q : Policy) (need : Need) : Nat → Nat → Nat → List (Nat × Nat) ⊕ Place1
  | 0, _, _ => .inl []
  | f + 1, va, left =>
    if left = 0 then .inl []
    else match s.resolve x (BitVec.ofNat 64 va) q need with
      | .at_ l leaf =>
        let page := match leaf with | some e => pageSize (eSz e) | none => 4096
        let n := Nat.min left (page - va % page)
        match s.arenaPieces x q need f (va + n) (left - n) with
        | .inl ps => .inl ((l, n) :: ps)
        | r => r
      | p => .inr p

/-- The free blocks of an arena of 2^n granules once its allocator's map is taken at the top (R300). -/
def freshBlocks (n k : Nat) : List (Nat × Nat) :=
  ((List.range (n - k)).map fun i => (2 ^ n - 2 ^ (n - i), n - i - 1))

/-- The directory, the tables of the shards from i on, and their records (R300, R320). -/
def Mx.tables (m : Mx) : Nat → Nat → Option Mx
  | _, 0 => some m
  | i, n + 1 =>
    (m.alloc (Nat.log2 m.p.buckets)).bind fun (g, m) =>
      (m.setShard i ⟨g, 0, 0, 0, 0, false, false, Nat.log2 m.p.buckets, (m.p.home + i) % 256⟩).tables (i + 1) n

/-- Writes the descriptor at its home (R168, R301). -/
def State.writeDesc (s : State) (l job free : Nat) (b : Rec256) : State :=
  s.homeBytes l (leBytes 128 (bitsOf b 63 0 + bitsOf b 120 64 * 2 ^ 64 + 2 ^ 127 + bitsOf b 167 128 * 2 ^ 128 + bitsOf b 255 192 * 2 ^ 192 +
    free * 2 ^ 256 + job * 2 ^ 320))

/-- A page of the arena or of the descriptor is write-blocked (R320, R403): the addresses among which it lies. -/
def State.mapnewBlocked (s : State) (x : SId) (handle : Word) (p : MapParm) (q : Policy) : Option (Nat × Nat) :=
  match s.arenaPieces x q Need.write (p.size / 4096 + 1) p.arena p.size, s.resolve x handle q Need.write with
  | .inr .blocked, _ => some (p.arena, p.size)
  | _, .blocked => some (handle.toNat, 128)
  | _, _ => none

/-- MAPNEW's checks 5 to 8 and its creation (R320): a write-blocked page parks it once the checks have passed. -/
def State.performMapnew (s : State) (x : SId) (seq : Nat) (handle : Word) (b : Rec256) (q : Policy) : EffRes :=
  let p := mapParm b
  let need : Need := { Need.write with blocks := false }
  match s.arenaPieces x q need (p.size / 4096 + 1) p.arena p.size with
  | .inr (.bad t) => .fault s t
  | .inr _ => .park s .writeBlocked
  | .inl ps =>
    match s.resolve x handle q need with
    | .bad t => .fault s t
    | .blocked => .park s .writeBlocked
    | .at_ l _ =>
      let hbm := isHbm l && ps.all fun (a, n) => isHbm a && isHbm (a + n - 1)
      if !hbm || ps.any (meets l 128) then .fault s (mapDesc handle 6)
      else if ((l, 128) :: ps).any fun (a, n) => s.storeLocked a n then .fault s (mapDesc handle 2)
      else
        let s := s.endRegion x
        let lg := Nat.log2 (p.size / 128)
        let v : LiveMap := ⟨l, ps, p.size, s.jobOf x, freshBlocks lg (Nat.log2 (Nat.max 1 (p.size / 65536))), s.nextId⟩
        let m : Mx := { s := { s with nextId := s.nextId + 1 }, v := v, p := p, handle := handle.toNat, bad := none }
        let m := m.zero ((p.size - allocMapSize p.size) / 128) (allocMapSize p.size / 128)
        match (m.alloc (ceilLog2 ((p.shards + 3) / 4))).bind fun (_, m) => m.tables 0 p.shards with
        | none => .fault s (mapDesc handle 4)
        | some m => match s.mapnewBlocked x handle p q with
          | some (va, n) => .park (s.blockOn x seq va n) .writeBlocked
          | none =>
            let t := m.s.writeDesc l (s.jobOf x) (freeGranules m.v.free) b
            .done ((t.modMem fun k => { k with maps := m.v :: k.maps }).respondDelay x (m.bank 0))

/-! ## MAPGETN (R321 to R323) -/

def getnKeys (r : Rec768) : Nat := bitsOf r 56 0
def getnOut (r : Rec768) : Nat := bitsOf r 120 64
def getnCount (r : Rec768) : Nat := bitsOf r 159 128

/-- Locations of n bytes, page by page, as runs (R216, R322). -/
def State.runs (s : State) (x : SId) (write : Bool) : Nat → Nat → Nat → List (Nat × Nat) ⊕ Place1
  | 0, _, _ => .inl []
  | f + 1, va, n =>
    if n = 0 then .inl []
    else match s.resolve x (BitVec.ofNat 64 va) 0 (if write then Need.write else Need.read) with
      | .at_ l _ =>
        let k := Nat.min n (4096 - va % 4096)
        match s.runs x write f (va + k) (n - k) with
        | .inl rs => .inl ((l, k) :: rs)
        | r => r
      | p => .inr p

/-- Whole lines, or 16-byte chunks of scratch, that a run touches (R216). -/
def lockOf (r : Nat × Nat) : Nat × Nat :=
  let g := if isScratchLoc r.1 then 16 else 128
  (r.1 / g * g, (r.1 + r.2 + g - 1) / g * g - r.1 / g * g)

/-- The lowest byte of runs, the first at address va, that a map locks. -/
def State.mapLockedIn (s : State) (va : Nat) : List (Nat × Nat) → Option Nat
  | [] => none
  | (l, n) :: rs =>
    match (List.range n).find? fun i => s.mapLocked (l + i) 1 with
    | some i => some (va + i)
    | none => s.mapLockedIn (va + n) rs

/-- The pages of runs that begin at address va, each with the location of its first byte. -/
def runPages (va : Nat) : List (Nat × Nat) → List (Nat × Nat)
  | [] => []
  | (l, n) :: rs => (va / 4096, l - va % 4096) :: runPages (va + n) rs

/-- Lines of memory that runs touch. -/
def runLines (rs : List (Nat × Nat)) : List Nat :=
  (rs.filter fun r => !isScratchLoc r.1).flatMap fun r => (List.range ((r.1 + r.2 + 127) / 128 - r.1 / 128)).map (r.1 / 128 + ·)

/-- The lines of n bytes at address va that a registration reads or writes, each with an address in it, where they lie in host memory
(R411): page by page, as far as they translate, with the rest of a page or leaf that refuses or blocks the access (R419). -/
def State.runCounted (s : State) (x : SId) (need : Need) : Nat → Nat → Nat → List (Nat × Nat)
  | 0, _, _ => []
  | f + 1, va, n =>
    if n = 0 then []
    else match s.leafAt x va with
      | none => []
      | some (e, pa) =>
        let k := Nat.min n (4096 - va % 4096)
        let here := if isHost pa && !inWindow (BitVec.ofNat 64 va)
          then (List.range ((pa + k + 127) / 128 - pa / 128)).map fun i => (va + 128 * i, pa + 128 * i) else []
        let ok : Bool := match s.resolve x (BitVec.ofNat 64 va) 0 need with | .at_ _ _ => true | _ => false
        here ++ (if ok || (s.leafAt x (va + k)).any (·.1 = e) then s.runCounted x need f (va + k) (n - k) else [])

/-- Registration of a MAPGETN: its effect (R202, R322, R323). Its lines count as a copy's do (R411). -/
def State.performGetn (s : State) (x : SId) (seq : Nat) (gpc : Word) (issue : Nat) (c : CopyCmd) : EffRes :=
  let mpx := (s.strand x).regs.csr.mpx.toNat
  let n := getnCount c.record
  match (s.endRegion x).claim x 1 false with
  | (s, false) => .park s .fullEmpty
  | (s, true) => match s.mapCheck x c.third c.q false with
    | .inr t => .fault (s.dropClaims x) t
    | .inl m =>
      let kn := n * m.p.kb
      let on := n * (m.p.vb + 8)
      let nk := s.runCounted x Need.read (kn / 4096 + 2) (getnKeys c.record) kn
      let ns := nk ++ s.runCounted x Need.write (on / 4096 + 2) (getnOut c.record) on
      match s.runs x false (kn / 4096 + 2) (getnKeys c.record) kn, s.runs x true (on / 4096 + 2) (getnOut c.record) on with
      | .inr (.bad t), _ => .fault ((s.dropClaims x).countLines x seq nk) t
      | .inr _, _ => .fault ((s.dropClaims x).countLines x seq nk) (trapOf .perm (BitVec.ofNat 64 (getnKeys c.record)))
      | .inl _, .inr (.bad t) => .fault ((s.dropClaims x).countLines x seq ns) t
      | .inl _, .inr _ => .park ((s.countLines x seq ns).blockOn x seq (getnOut c.record) on (countKeys ns)) .writeBlocked
      | .inl ks, .inl os =>
        let s := s.countLines x seq ns
        match s.mapLockedIn (getnOut c.record) os with
        | some a => .fault (s.dropClaims x) (trapOf .rangelock (BitVec.ofNat 64 a))
        | none =>
          let c := if mpx = 0 then c else { c with hstart := none }
          let op := s.newCopy x gpc c false mpx
          let desc := match s.resolve x c.third c.q { kind := .read } with | .at_ l _ => [(c.third.toNat, 128, l)] | _ => []
          let pages := desc.flatMap (fun d => runPages d.1 [(d.2.2, d.2.1)]) ++ runPages (getnKeys c.record) ks ++
            runPages (getnOut c.record) os
          let op := { op with
            rlocks := (Config.scratchLoc x.core (c.obj.toNat % 0x40000), 16) :: ks.map lockOf, wlocks := os.map lockOf, pages := pages }
          let s := (s.claimed x).setMpx x 0
          if n ≤ mpx then .done (s.wakeCore x.core)
          else
            let s := ((runLines (ks ++ os)).foldl (fun t l => t.recall l) s).walkPages x issue pages
            let s : State := { s with nextId := op.id + 1 }
            let s := s.modCore x.core fun k => { k with ops := k.ops ++ [op] }
            .done (s.post (match c.hstart with | some h => s.ccTo x h | none => 0) (.copyStart x.core))

/-- The location of a byte of an address range whose translations an operation holds (R216). -/
def State.heldLoc (s : State) (o : CopyOp) (va : Nat) : Nat :=
  match o.pages.find? (·.1 = va / 4096) with | some p => s.fwdLoc (p.2 + va % 4096) | none => va

/-- The mailbox place of a MAPGETN empties once its last element has been dispatched (R203). -/
def State.getnDispatched (s : State) (core : Nat) (o : CopyOp) : State :=
  if getnCount o.cmd.record ≤ o.next then
    ((s.modOp core o.id fun p => { p with inBox := false }).wakeCore core).post 0 (.copyStart core)
  else s.post 1 (.mapgetnDispatch core o.id)

/-- A MAPGETN completes when its last result has been counted (R323). -/
def State.getnDone (s : State) (core id : Nat) : State :=
  match (s.core core).ops.find? (·.id = id) with
  | some o =>
    if o.probes = [] && getnCount o.cmd.record ≤ o.next then
      let s := s.modCore core fun k => { k with ops := k.ops.filter fun p => p.id ≠ id }
      let s := ((s.opDone id).wakeCore core).post 0 (.copyStart core)
      s.post 0 (.arrayCommandStart core)
    else s
  | none => s

/-- The fault of an element: nothing more is dispatched and the locks are released (R323). -/
def State.getnFail (s : State) (core : Nat) (o : CopyOp) (t : TrapInfo) : State :=
  let s := s.modOp core o.id fun p =>
    { p with next := getnCount o.cmd.record, inBox := false, rlocks := [], wlocks := [] }
  let s := ((s.wakeCore core).post 0 (.copyStart core)).getnDone core o.id
  if o.base.isSome then s else s.addLate o.owner { t with other := o.gpc } (some (BitVec.ofNat 64 o.next))

/-- Dispatches the next element: reads its key and probes at the key's sequencer (R322). -/
def State.getnDispatch (s : State) (core : Nat) (o : CopyOp) : State :=
  match s.openMap (s.heldLoc o o.cmd.third.toNat) o.cmd.third.toNat with
  | none => s.getnFail core o (mapDesc o.cmd.third 1)
  | some m =>
    let va := getnKeys o.cmd.record + o.next * m.p.kb
    let at_ (i : Nat) : Nat := s.heldLoc o (va + i)
    match (List.range m.p.kb).find? fun i => s.isBad (at_ i) with
    | some i => s.getnFail core o (badTrap (BitVec.ofNat 64 (va + i)))
    | none =>
      let (m, n, st, out) := m.keyOp .prb (leNat ((List.range m.p.kb).map fun i => s.byteAt (at_ i))) 0 0
      match m.fault with
      | some t => s.getnFail core o t
      | none =>
        let s := m.close
        let pr : Probe := ⟨o.next, n * 2 ^ 32 + st, BitVec.ofNat 128 out, m.p.vb⟩
        let s := s.modOp core o.id fun p => { p with next := o.next + 1, probes := p.probes ++ [pr] }
        (s.post 1 (.mapgetnResult core o.id 0)).getnDispatched core { o with next := o.next + 1 }

/-- A result is written and counted (R322). -/
def State.getnResult (s : State) (core : Nat) (o : CopyOp) (pick : Nat) : State :=
  match o.probes[pick]? with
  | none => s
  | some pr =>
    let s := s.modOp core o.id fun p => { p with probes := p.probes.eraseIdx pick }
    let va := getnOut o.cmd.record + pr.elem * (pr.vb + 8)
    let s := (leBytes (pr.vb + 8) (pr.value.toNat % 2 ^ (8 * pr.vb) + pr.status * 2 ^ (8 * pr.vb))).zipIdx.foldl (fun t (b, i) =>
      t.write (t.heldLoc o (va + i)) [b]) s
    let s := s.count (Config.scratchLoc (s.fwd core) (o.cmd.obj.toNat % 0x40000)) (pr.vb + 8) 0
    s.getnDone core o.id

/-! ## MAPSCAN (R324, R325) -/

def scanNout (r : Nat) : Nat := r / 2 ^ 128 % 2 ^ 32
def scanCap (r : Nat) : Nat := r / 2 ^ 64 % 2 ^ 32
def scanEnd (r : Nat) : Bool := r / 2 ^ 63 % 2 = 1
def scanShard (r : Nat) : Nat := r / 2 ^ 48 % 2 ^ 8
def scanLgb (r : Nat) : Nat := r / 2 ^ 42 % 2 ^ 6
def scanBkt (r : Nat) : Nat := r % 2 ^ 42
def scanBad (r : Nat) (shards : Nat) : Bool :=
  r / 2 ^ 160 ≠ 0 || r / 2 ^ 96 % 2 ^ 32 ≠ 0 || r / 2 ^ 56 % 2 ^ 7 ≠ 0 ||
    shards ≤ scanShard r || (scanLgb r ≠ 0 && 2 ^ scanLgb r ≤ scanBkt r)

/-- Entries of buckets in their order, of each bucket by slot and then by chain (R325). -/
def Mx.entries (m : Mx) : List Nat → Mx × List (Nat × Nat)
  | [] => (m, [])
  | g :: gs =>
    let (m, ch) := m.walk g
    let at_ : List SlotAt := (List.range m.p.slots).flatMap fun n => ch.map fun c => (c, n)
    let es := (at_.filter fun a => m.used a.1 a.2).map fun a => (m.keyAt a, m.valAt a)
    let (m, more) := m.entries gs
    (m, es ++ more)

/-- A bucket of a table of 2^lg may hold entries of slice b of 2^lg0 slices. -/
def sliceBucket (lg lg0 b i : Nat) : Bool := i % 2 ^ Nat.min lg lg0 = b % 2 ^ Nat.min lg lg0

/-- The entries of slice b of 2^lg0 slices: those still in the old table, then those in the new one (R325). Only buckets that may hold
them are read and verified. -/
def Mx.slice (m : Mx) (r : Shard) (lg0 b : Nat) : Mx × List (Nat × Nat) :=
  let n := 2 ^ r.lgb
  let cur := if r.grow then r.cur else 0
  let olds := ((List.range (n - cur)).map (cur + ·)).filter (sliceBucket r.lgb lg0 b)
  let news := (List.range cur ++ (List.range cur).map (n + ·)).filter (sliceBucket (r.lgb + 1) lg0 b)
  let (m, es) := m.entries (olds.map (r.tab + ·) ++ news.map (r.ntab + ·))
  (m, es.filter fun e => m.p.hash e.1 % 2 ^ lg0 = b)

/-- Stores of a strand, eight bytes each. -/
def State.storeWords (s : State) (x : SId) (seq issue : Nat) (q : Policy) : List (Nat × Nat) → EffRes
  | [] => .done s
  | (va, w) :: ws =>
    let s := s.countOnce x seq (BitVec.ofNat 64 va) q
    match s.performStore x (BitVec.ofNat 64 va) none 8 issue (BitVec.ofNat 128 w) q with
    | .done s => s.storeWords x seq issue q ws
    | .park s reason => .park (s.blockOn x seq va 1 [va]) reason
    | r => r

/-- The addresses of a step's stores, as far as one that is refused. -/
def State.storesTried (s : State) (x : SId) (issue : Nat) (q : Policy) : List (Nat × Nat) → List Nat
  | [] => []
  | (va, w) :: ws => va :: match s.performStore x (BitVec.ofNat 64 va) none 8 issue (BitVec.ofNat 128 w) q with
    | .done s => s.storesTried x issue q ws
    | _ => []

/-- Words at addresses va, va + 8 and so on. -/
def wordsAt (va : Nat) (ws : List Nat) : List (Nat × Nat) := ws.zipIdx.map fun (w, i) => (va + 8 * i, w)

/-- A step whose stores meet a write-blocked page waits as it stood before it, its blocked store counted (R419). -/
def State.blockedStep (before s : State) (x : SId) (q : Policy) : State :=
  match (s.strand x).blocked with
  | some b =>
    let t := before.countOnce x b.seq (BitVec.ofNat 64 b.va) q
    t.modStrand x fun st => { st with blocked := some b }
  | none => before

/-- What a macro's step comes to: the macro is complete, goes on, or what the step was refused with. -/
inductive MacroRes where
  | complete (s : State)
  | more (s : State)
  | fault (s : State) (t : TrapInfo)
  | blocked (s : State)

/-- One slice of MAPSCAN (R324): policy, handle and descriptor are checked first, then the buffer, then the record
(notes/assumptions/62.md). -/
def State.scanStep (s : State) (x : SId) (seq issue : Nat) (handle record buffer : Word) (q : Policy) : MacroRes :=
  match s.mapCheck x handle q with
  | .inr t => .fault s t
  | .inl _ =>
    if buffer.toNat % 8 ≠ 0 then .fault s (trapOf .misalign buffer)
    else match s.readRecord x record 32 32 with
      | (s, .inr t) => .fault s t
      | (s, .inl r) =>
        match s.mapCheck x handle q with
        | .inr t => .fault s t
        | .inl m =>
          if scanBad r m.p.shards then .fault s (trapOf .operand record)
          else if scanEnd r then .complete s
          else
            let i := scanShard r
            let before := s.endRegion x
            let (m, sh) := { m with s := before }.accept i
            let (m, sh, _) := m.growth sh
            let lg0 := if scanLgb r = 0 then sh.lgb else scanLgb r
            let (m, es) := m.slice sh lg0 (scanBkt r)
            match m.fault with
            | some t => .fault before t
            | none =>
              let s := (m.setShard i sh).close.respondDelay x (m.bank i)
              let n := es.length
              if scanCap r < scanNout r + n then
                if scanNout r = 0 then .fault before (trapOf .operand (BitVec.ofNat 64 n)) else .complete s
              else
                let words := es.flatMap fun (k, v) =>
                  ((List.range (m.p.kb / 8)).map fun j => k / 2 ^ (64 * j)) ++ (List.range (m.p.vb / 8)).map fun j => v / 2 ^ (64 * j)
                let next :=
                  if scanBkt r + 1 < 2 ^ lg0 then scanBkt r + 1 + lg0 * 2 ^ 42 + i * 2 ^ 48
                  else if i + 1 < m.p.shards then (i + 1) * 2 ^ 48
                  else 2 ^ 63
                let stores := wordsAt (buffer.toNat + m.p.eb * scanNout r) words ++ [(record.toNat + 16, scanNout r + n), (record.toNat, next)]
                match s.storeWords x seq issue q stores with
                | .fault _ t =>
                  .fault ((s.storesTried x issue q stores).foldl (fun u va => u.countOnce x seq (BitVec.ofNat 64 va) q) before) t
                | .park s _ => .blocked (before.blockedStep s x q)
                | .done s =>
                  let s := s.setMpx x ((s.strand x).regs.csr.mpx + 1)
                  if next = 2 ^ 63 then .complete s else .more s

/-! ## MAPSTL, MAPCLR and MAPINFO (R326 to R328) -/

/-- One pass of MAPSTL's inner loop on a shard (R326): the next shard, or the state once the last is done. -/
def State.settleOnce (s : State) (x : SId) (handle : Word) (i : Nat) (q : Policy) : MacroRes × Nat :=
  match s.mapCheck x handle q with
  | .inr t => (.fault s t, i)
  | .inl m =>
    if m.p.shards ≤ i then (.complete (s.setMpx x 0), i)
    else
      let m := { m with s := s.endRegion x }.touch (i / 4)
      let r := m.shard i
      if m.bad.isSome then (.fault m.s ((m.fault).getD (mapDesc handle 1)), i)
      else if !r.grow && !r.waitg then (.more m.s, i + 1)
      else
        let (m, r) := m.accept i
        let (m, r, did) := m.growth r
        match m.fault with
        | some t => (.fault s t, i)
        | none =>
          let s := (m.setShard i r).close.respondDelay x (m.bank i)
          if did then (.more (s.setMpx x ((s.strand x).regs.csr.mpx + 1)), if r.grow || r.waitg then i else i + 1)
          else (.more s, i + 1)

/-- Frees the overflow buckets of a run of primary buckets (R327). -/
def Mx.freeChains (m : Mx) (first : Nat) : Nat → Mx
  | 0 => m
  | n + 1 =>
    let (m, gs) := m.walk first
    (gs.tail.foldl (fun m g => m.release g 0) m).freeChains (first + 1) n

/-- Frees the overflow buckets of a run of primary buckets and zeroes these (R327). -/
def Mx.clearTable (m : Mx) (first : Nat) : Nat → Mx
  | 0 => m
  | n + 1 =>
    let (m, gs) := m.walk first
    let m := gs.tail.foldl (fun m g => m.release g 0) m
    (m.put (128 * first) 128 0).clearTable (first + 1) n

/-- Clears one shard (R327), after the growth work of an operation (R308): under growth the new table becomes current, and the
entries of both go. -/
def Mx.clearShard (m : Mx) (i : Nat) : Mx :=
  let (m, r) := m.accept i
  let (m, r, _) := m.growth r
  let (m, r) :=
    if r.grow then
      let n := 2 ^ r.lgb
      let m := (m.freeChains (r.tab + r.cur) (n - r.cur)).release r.tab r.lgb
      (m, { r with tab := r.ntab, ntab := 0, lgb := r.lgb + 1 })
    else (m, r)
  let m := m.clearTable r.tab (2 ^ r.lgb)
  m.setShard i { r with count := 0, cur := 0, grow := false, waitg := false }

/-- One shard of MAPCLR: MPX names it. -/
def State.clearOnce (s : State) (x : SId) (handle : Word) (q : Policy) : MacroRes :=
  match s.mapCheck x handle q with
  | .inr t => .fault s t
  | .inl m =>
    let i := (s.strand x).regs.csr.mpx.toNat
    if m.p.shards ≤ i then .complete (s.setMpx x 0)
    else
      let m := { m with s := s.endRegion x }.clearShard i
      match m.fault with
      | some t => .fault s t
      | none => .more ((m.close.respondDelay x (m.bank i)).setMpx x (BitVec.ofNat 64 (i + 1)))

/-- MAPINFO's answer (R328). -/
def Mx.info (m : Mx) : Nat :=
  let rs := (List.range m.p.shards).map m.shard
  (rs.any (·.waitg)).toNat * 2 ^ 57 + (rs.filter (·.grow)).length * 2 ^ 48 + rs.foldl (fun n r => n + r.count) 0 % 2 ^ 48

end Sys2Proof.Machine
end

