-- ==== Sys2Proof/Machine/WorkOps.lean ====
section
/-! DEFINITION. Launching and placing work (R41 to R49, R58 to R88): the checks on task, launch and counter records, their
acceptance, the deques with pops and steals, dealing, gangs, and the start of a task (R44, R80). A deque lists its bottom
record first. -/

namespace Sys2Proof.Machine

/-! ## Checks (R49, R68, R72) -/

/-- The reserved bits of each kind of record (R43, R45, R67), as (lowest, highest). -/
def taskReserved : List (Nat × Nat) := [(57, 63), (152, 159), (184, 191), (216, 223), (257, 511)]
def launchReserved : List (Nat × Nat) :=
  [(57, 63), (153, 159), (185, 191), (217, 223), (249, 255), (271, 271), (304, 319), (336, 351)]
def counterReserved : List (Nat × Nat) := [(0, 191), (258, 271), (304, 319), (416, 511)]

/-- The lowest reserved bit that is 1. -/
def reservedBit (r : Rec512) (ranges : List (Nat × Nat)) : Option Nat := ranges.findSome? fun (lo, hi) => lowestBit r hi lo

/-- A reason and the bit number of the field named. -/
abbrev Bad := Nat × Nat

/-- The first check of a list of (holds, reason, field) that fails. -/
def firstFail (cs : List (Bool × Bad)) : Option Bad := (cs.find? fun c => c.1).map (·.2)

/-- EVAL of LAUNCHRANGE (R49). -/
def launchTrap (b : Bad) : TrapInfo := trapOf .launchrange (BitVec.ofNat 64 (b.1 + b.2 * 256))

/-- R49 on a launch record. -/
def launchBad (r : Rec512) : Option Bad :=
  match reservedBit r launchReserved with
  | some b => some (3, b)
  | none =>
    let n := recCount r
    let area := recGw r * recGh r
    firstFail
      [(2 ^ 24 < n, (1, 128)), (recSx r * recSy r * recSz r ≠ n, (2, 128)), (recEntry r % 4 ≠ 0, (4, 0)),
       (recCnt r = 0, (4, 272)),
       (recCnt r = recGraphc r || (recSuccs r).any (fun c => c ≠ 0 && c = recCnt r), (4, 272)),
       (if recGang r then recGw r = 0 || 24 < recGw r || recGh r = 0 || 24 < recGh r else recGw r ≠ 0 || recGh r ≠ 0, (4, 261)),
       (recGang r && 7 * area < n, (4, 128))]

/-- R49 on a task record. -/
def taskBad (r : Rec512) : Option Bad :=
  match reservedBit r taskReserved with
  | some b => some (3, b)
  | none => firstFail [(recEntry r % 4 ≠ 0, (4, 0)), (taskLaunchId r = 0, (4, 224))]

/-- Rectangles of the partition on one die, by lower-left corner (R72 check 9, R86). -/
def Job.rects (b : Job) (w h : Nat) : List (Nat × List Nat) :=
  (b.cores.map fun c => (c, (List.range (w * h)).map fun k => coreIdOf (coreDie c) (coreY c + k / w) (coreX c + k % w))).filter
    fun (c, cs) => coreX c + w ≤ 24 && coreY c + h ≤ 24 && cs.all b.cores.contains

/-- User strands per core of a job's partition (R72 check 10). -/
def State.jobUsers (s : State) (j : Nat) : Nat := (s.core ((s.job j).cores.headD 0)).part.strands - 1

def CState.armed : CState → Bool
  | .held | .active => true
  | _ => false

/-- R72 on a launch record, after R49. Of several fields beyond NCTR the first in the order CNT, GRAPHC, SUCC0 to SUCC3 is named
(notes/assumptions/59.md). -/
def State.acceptBad (s : State) (j : Nat) (r : Rec512) : Option Bad :=
  let b := s.job j
  let beyond (n : Nat) : Bool := b.nctr < n
  firstFail
    ([(recGang r && (b.rects (recGw r) (recGh r)).isEmpty, (6, 261)),
      (recGang r && s.jobUsers j * recGw r * recGh r < recCount r, (6, 128)),
      (beyond (recCnt r), (5, 272)), (beyond (recGraphc r), (5, 352))] ++
     ((recSuccs r).zipIdx.map fun (c, i) => (beyond c, (5, 384 + 32 * i))) ++
     [((b.counter (recCnt r)).state.armed, (5, 272)),
      (recGraphc r ≠ 0 && (b.counter (recGraphc r)).state ≠ .active, (5, 352))])

/-- All checks of a launch record (R49, R72). -/
def State.launchCheck (s : State) (j : Nat) (r : Rec512) : Option Bad := (launchBad r).or (s.acceptBad j r)

/-- All checks of TSPAWN's task record (R49, R72 checks 11, 12 and 14). -/
def State.spawnCheck (s : State) (x : SId) (r : Rec512) : Option Bad :=
  let b := s.job (s.jobOf x)
  (taskBad r).or (firstFail
    [(b.nctr < taskLaunchId r, (5, 224)), ((b.counter (taskLaunchId r)).state ≠ .active, (5, 224)),
     ((s.strand x).gang.isSome, (7, 0))])

def crLevel (r : Rec512) : Nat := bitsOf r 257 256
def crExpect (r : Rec512) : Nat := bitsOf r 255 224
def crNum (r : Rec512) : Nat := bitsOf r 223 192
def crParent (r : Rec512) : Nat := bitsOf r 351 320
def crSucc (r : Rec512) (i : Nat) : Nat := bitsOf r (383 + 32 * i) (352 + 32 * i)

/-- The checks of a counter record (R68). -/
def State.counterCheck (s : State) (j : Nat) (r : Rec512) : Option Bad :=
  let b := s.job j
  let beyond (n : Nat) : Bool := b.nctr < n
  match reservedBit r counterReserved with
  | some k => some (3, k)
  | none =>
    firstFail
      [(crLevel r = 0, (4, 256)), (crExpect r = 0, (4, 224)), (crNum r = 0 || beyond (crNum r), (5, 192)),
       (beyond (crParent r), (5, 320)), (beyond (crSucc r 0), (5, 352)), (beyond (crSucc r 1), (5, 384)),
       ((b.counter (crNum r)).state.armed, (5, 192)),
       (crParent r ≠ 0 && (b.counter (crParent r)).state ≠ .active, (5, 320)), (crLevel r = 2 && b.phase = none, (5, 256))]

/-! ## Acceptance (R62, R69, R75) -/

/-- A launch record is accepted: its counter is armed, held or released (R69). A record of a killed job, or one that names a
cancelled counter as GRAPHC, is cancelled at acceptance (R75, R360). -/
def State.acceptLaunch (s : State) (j : Nat) (r : Rec512) : State :=
  let n := recCnt r
  let c := s.counter j n
  let pred := c.pred + recNpred r
  let c' : Counter :=
    { canc := false, state := .held, level := 0, pred := if pred ≤ 0 then 0 else pred, pend := recCount r, succ := recSuccs r,
      parent := recGraphc r, cancel := none, prio := recPrio r, stamp := s.nextId }
  let s := { s with nextId := s.nextId + 1 }.setCounter j n c'
  let dead := (s.job j).killed || (recGraphc r ≠ 0 && (s.counter j (recGraphc r)).cancel.isSome)
  if dead then s.cancelOne j n true else if pred ≤ 0 then s.counters j [.release n] else s

/-- A counter record is accepted (R68). It names no priority: tasks that are spawned into it come last in the order of R65
(notes/assumptions/51.md). -/
def State.acceptCounter (s : State) (j : Nat) (r : Rec512) : State :=
  let c : Counter :=
    { canc := false, state := .active, level := crLevel r, pred := 0, pend := crExpect r, succ := [crSucc r 0, crSucc r 1],
      parent := crParent r, cancel := none, prio := 7, stamp := s.nextId }
  { s with nextId := s.nextId + 1 }.setCounter j (crNum r) c

/-- Launches that a job has accepted and that have not reached DONE (R93). -/
def Job.undone (b : Job) : Nat := (b.counters.filter fun (_, c) => c.level = 0 && c.state.armed).length

/-- The dispatcher takes an accepted record (R63): the order in which it does is the order of acceptance. A launch with units waits for
its release, or is free to be dealt. -/
def State.takeLaunch (s : State) (j : Nat) (r : Rec512) (prio : Nat) : State :=
  if prio = 8 || recCount r = 0 || (Tab.find? s.jobs j).isNone then s
  else
    let c := s.counter j (recCnt r)
    let l : Launch := ⟨j, r, prio, 0, c.state = .active⟩
    let s := { s with nextId := s.nextId + 1 }.setCounter j (recCnt r) { c with prio := prio, stamp := s.nextId }
    let s := s.modDisp fun d => { d with launches := d.launches ++ [l] }
    if c.state = .active then s.redeal else s

/-! ## Deques (R76, R81, R83) -/

def Core.deque (k : Core) (hi : Bool) : List Rec512 := if hi then k.high else k.normal
def Core.setDeque (k : Core) (hi : Bool) (d : List Rec512) : Core := if hi then { k with high := d } else { k with normal := d }

/-- A core that a gang's rectangle holds (R86, R88). -/
def State.gangHolds (s : State) (c : Nat) : Bool := s.gangs.any fun (_, v) => v.cores.contains c

/-- A job's records are dealt, popped and stolen (R371, R372, R373). -/
def State.flows (s : State) (j : Nat) : Bool := (s.job j).goes

/-- A core takes work of its job: no gang holds it and it is not vacated (R86, R379). -/
def State.takesWork (s : State) (c : Nat) : Bool := (s.core c).forward.isNone && !s.gangHolds c

/-- The first core cycle after the present one that is a slot of a strand (R79). -/
def State.firstSlot (s : State) (x : SId) : Nat := nextSlot (s.rotation x) x.strand (s.clock.cc + 1)

/-- A record enters a deque, at the bottom or, for TYIELD, at the top; idle strands of the core look in their next slots (R81, R84,
R92). A record
that enters a deque of a core that a gang holds returns to the dispatcher like those that were there (R86). -/
def State.pushRecord (s : State) (c : Nat) (r : Rec512) (hi top : Bool) : State :=
  if s.gangHolds c then
    if isCancelled r then s
    else (s.modDisp fun d => { d with returned := d.returned ++ [((s.core c).job.getD 0, r)] }).postOnce 0 (.dealUnit ((s.core c).job.getD 0) (taskLaunchId r))
  else
    let s := s.modCore c fun k => k.setDeque hi (if top then k.deque hi ++ [r] else r :: k.deque hi)
    (s.userStrands c).foldl (fun t x => if (t.strand x).run = .idle then t.post (s.firstSlot x - s.clock.cc) (.pop x) else t) s

/-! ## The start of a task (R44, R80, R87) -/

/-- The slot phase of a strand whose vc 0 is at a core cycle (R122). -/
def phaseOf (n strand base : Nat) : Nat := (strand + n - base % n) % n

/-- The strand starts a task record, with vc 0 at core cycle `base`. -/
def State.startTask (s : State) (x : SId) (r : Rec512) (gang : Option Nat) (base : Nat) : State :=
  let k := s.core x.core
  let j := k.job.getD 0
  let b := s.job j
  let wmem : BitVec 24 := b.jwdef.setWidth 24 ||| (if gang.isSome then 1 else 0)
  let q : Policy := b.jqdef.setWidth 32
  let st := s.strand x
  let csr : Csrs :=
    { Csrs.reset with
      jobId := BitVec.ofNat 32 j, launchId := BitVec.ofNat 32 (taskLaunchId r), unitX := BitVec.ofNat 24 (bitsOf r 151 128),
      unitY := BitVec.ofNat 24 (bitsOf r 183 160), unitZ := BitVec.ofNat 24 (bitsOf r 215 192),
      taskArg := BitVec.ofNat 64 (recArg r), sscr := st.regs.csr.sscr, wmem := wmem,
      q := (List.range 8).foldl (fun t i => Tab.set 0 t i q) [] }
  s.setStrand x
    { Strand.reset with
      run := .running, regs := { Regs.reset with csr := csr }, pc := BitVec.ofNat 64 (recEntry r), base := base,
      phase := phaseOf k.part.strands x.strand base, gang := gang, route := st.route, brken := st.brken, stepBit := st.stepBit,
      dbgCode := st.dbgCode, lineage := recLineage r, began := base, sampled := st.sampled }



/-- A user strand that seeks a record and may take one (R81, R86, R371). -/
def State.seeks (s : State) (x : SId) : Bool :=
  let k := s.core x.core
  (s.strand x).run = .idle && x.strand < k.part.strands - 1 && s.takesWork x.core &&
    (match k.job with | some j => s.flows j | none => false)

/-- Begins a steal round (R84). -/
def State.beginRound (s : State) (x : SId) : State :=
  (s.modStrand x fun st => { st with steal := ⟨0, false, 1, 0⟩ }).post 0 (.stealRequest x)

/-- A strand that may take no record ends its round (R86, R371). -/
def State.dropRound (s : State) (x : SId) : State := s.modStrand x fun st => { st with steal := ⟨0, false, 0, 0⟩ }

/-- POP (R81): the bottom of the high deque, then of the normal one, then a steal. A cancelled record is discarded (R76). A
record that enters a deque of the core is popped also while a probe of a round is outstanding, whose answer then finds the
strand no longer seeking (notes/assumptions/51.md). -/
def State.pop (s : State) (x : SId) : State :=
  if !s.seeks x then s
  else
    let k := s.core x.core
    let hi := !k.high.isEmpty
    match k.deque hi with
    | [] => if (s.strand x).steal.round = 0 then s.beginRound x else s
    | r :: rs =>
      let s := (s.modCore x.core fun k => k.setDeque hi rs).redeal
      if isCancelled r then s.post 0 (.pop x) else s.startTask x r none (s.firstSlot x)

/-! ## Stealing (R84, R85) -/

def ringIndex (c : Nat) : Nat := if coreY c % 2 = 0 then 24 * coreY c + coreX c else 24 * coreY c + 23 - coreX c
def ringCore (die r : Nat) : Nat := coreIdOf die (r / 24) (if r / 24 % 2 = 0 then r % 24 else 23 - r % 24)

/-- What a round probes: a core, or every core of a die. -/
inductive Target where
  | core (c : Nat) | die (d : Nat)
deriving DecidableEq, Repr

/-- The targets of a round in order; cores outside the partition and vacated cores are skipped. -/
def State.stealTargets (s : State) (x : SId) : List Target :=
  match (s.core x.core).job with
  | none => []
  | some j =>
    let b := s.job j
    let r := ringIndex x.core
    let first := (List.range 10).map (2 ^ ·)
    let rest := (List.range 576).filter fun d => 3 ≤ d && !first.contains d
    let cores := ((first ++ rest).map fun d => ringCore (coreDie x.core) ((r + d) % 576)).filter fun c =>
      b.cores.contains c && (s.core c).forward.isNone
    let dies := (List.range 8).filter fun d => d ≠ coreDie x.core && b.cores.any fun c => coreDie c = d
    cores.map .core ++ dies.map .die

/-- Where a probe finds a record: the top of the high deque, else of the normal one. -/
def State.stealFrom (s : State) (x : SId) (t : Target) : Option (Nat × Bool) :=
  let cs := match t with
    | .core c => [c]
    | .die d => (s.job ((s.core x.core).job.getD 0)).cores.filter fun c => coreDie c = d && (s.core c).forward.isNone
  cs.findSome? fun c =>
    let k := s.core c
    if !k.high.isEmpty then some (c, true) else if !k.normal.isEmpty then some (c, false) else none

/-- STEAL_REQUEST: the next probe is sent; its reply comes within the bound of R85. -/
def State.stealSend (s : State) (x : SId) : State :=
  let st := s.strand x
  if !s.seeks x then s.dropRound x
  else if st.steal.round ≠ 1 || st.steal.awaiting || s.clock.cc < st.steal.due then s
  else match (s.stealTargets x)[st.steal.probe]? with
    | some t =>
      let dt := match t with | .core _ => 40 | .die _ => 200
      (s.modStrand x fun st => { st with steal := { st.steal with awaiting := true, due := s.clock.cc + dt } }).post dt (.stealReply x)
    | none => (s.modStrand x fun st => { st with steal := { st.steal with round := 2, due := s.clock.cc + 64 } }).post 64 (.stealRoundRetry x)

/-- STEAL_REPLY: the record found starts; a cancelled one is discarded and the probe goes on; an empty answer leads on. -/
def State.stealAnswer (s : State) (x : SId) : State :=
  let st := s.strand x
  if !s.seeks x then s.dropRound x
  else if !st.steal.awaiting || s.clock.cc < st.steal.due then s
  else
    let s := s.modStrand x fun st => { st with steal := { st.steal with awaiting := false } }
    match ((s.stealTargets x)[st.steal.probe]?).bind (s.stealFrom x) with
    | some (c, hi) =>
      let d := (s.core c).deque hi
      let s := (s.modCore c fun k => k.setDeque hi d.dropLast).redeal
      match d.getLast? with
      | some r => if isCancelled r then s.post 0 (.stealRequest x) else s.startTask x r none (s.firstSlot x)
      | none => s
    | none =>
      (s.modStrand x fun st => { st with steal := { st.steal with probe := st.steal.probe + 1 } }).post 0 (.stealRequest x)

/-- STEAL_ROUND_RETRY: the wait after a round has ended (R84). -/
def State.stealRetry (s : State) (x : SId) : State :=
  let st := s.strand x
  if st.run ≠ .idle || st.steal.round ≠ 2 || s.clock.cc < st.steal.due then s
  else (s.dropRound x).post 0 (.pop x)

/-! ## Dealing (R65, R82) -/

/-- The core that the next record of a job goes to. -/
def State.dealTo (s : State) (j : Nat) (hi : Bool) : Option Nat :=
  let b := s.job j
  let open_ := b.cores.filter fun c => s.takesWork c && ((s.core c).deque hi).length < 16
  let after := open_.filter fun c => match b.lastDealt with | some l => l < c | none => true
  (listMin after).or (listMin open_)

/-- An idle core: none of its user strands runs a task. -/
def State.coreIdle (s : State) (c : Nat) : Bool := (s.userStrands c).all fun x => (s.strand x).run = .idle

/-- The rectangle for a gang: the most idle cores, ties by the lowest corner. -/
def State.chooseRect (s : State) (j w h : Nat) : Option (Nat × List Nat) :=
  (((s.job j).rects w h).filter fun (_, cs) => cs.all s.takesWork).foldl (fun (m : Option (Nat × List Nat)) r =>
    match m with
    | none => some r
    | some b =>
      let n (cs : List Nat) := (cs.filter s.coreIdle).length
      if n b.2 < n r.2 || (n b.2 = n r.2 && r.1 < b.1) then some r else m) none

/-- What the dispatcher serves next: a record that a gang's rectangle returned, to a core (R86); the next unit of a launch, to
a core (R82); or a gang, which is placed (R86). -/
inductive Serve where
  | back (job : Nat) (record : Rec512) (core : Nat)
  | unit (launch : Launch) (core : Nat)
  | place (launch : Launch)
deriving DecidableEq, Repr

/-- A gang of a launch that has its rectangle and waits to start. -/
def State.placed (s : State) (j n : Nat) : Option (Nat × Gang) :=
  (s.gangs.filter fun (_, v) => v.job = j && v.counter = n && v.channel = none).head?

/-- How a launch can be served now. -/
def State.canServe (s : State) (l : Launch) : Option Serve :=
  if !l.released || !s.flows l.job then none
  else if recGang l.record then
    (if (s.placed l.job (recCnt l.record)).isSome || (s.chooseRect l.job (recGw l.record) (recGh l.record)).isNone then none
     else some (.place l))
  else (s.dealTo l.job (recLaunchHi l.record)).map (.unit l)

/-- The job and counter of what is served. -/
def Serve.of : Serve → Nat × Nat
  | .back j r _ => (j, taskLaunchId r)
  | .unit l _ | .place l => (l.job, recCnt l.record)

/-- The place of work in the order of R65: its priority, then its acceptance. A returned record stands where its launch does,
before the units of it that are still to be dealt (notes/assumptions/51.md). -/
def State.serveBefore (s : State) (a b : Serve) : Bool :=
  let c := s.counter a.of.1 a.of.2
  let d := s.counter b.of.1 b.of.2
  c.prio < d.prio || (c.prio = d.prio && c.stamp < d.stamp)

/-- The first work in dispatch order that can be served. -/
def State.nextServe (s : State) : Option Serve :=
  let back := s.disp.returned.filterMap fun e =>
    if s.flows e.1 then (s.dealTo e.1 (taskHi e.2)).map fun c => Serve.back e.1 e.2 c else none
  (back ++ s.disp.launches.filterMap s.canServe).foldl (fun (m : Option Serve) a =>
    match m with
    | none => some a
    | some b => if s.serveBefore a b then some a else m) none

/-- Deals one record to a core. -/
def State.dealRecord (s : State) (j c : Nat) (r : Rec512) : State :=
  (s.modJob j fun b => { b with lastDealt := some c }).pushRecord c r (taskHi r) false

/-- The launch's next unit has been dealt; a launch without units left has been dealt whole. -/
def Dispatcher.dealt (d : Dispatcher) (l : Launch) : Dispatcher :=
  { d with
    launches := if recCount l.record ≤ l.next + 1 then d.launches.erase l
      else d.launches.map fun m => if m = l then { m with next := m.next + 1 } else m }

/-! ## Gangs (R86 to R88) -/

/-- The rectangle is chosen and held; the records of its deques return to the dispatcher, core by core, the high deque before the
normal one and each from its top (notes/assumptions/51.md). -/
def State.placeGang (s : State) (l : Launch) : State :=
  match s.chooseRect l.job (recGw l.record) (recGh l.record) with
  | none => s
  | some (c, cs) =>
    let v : Gang :=
      { job := l.job, counter := recCnt l.record, die := coreDie c, x0 := coreX c, y0 := coreY c, w := recGw l.record,
        h := recGh l.record, record := l.record, channel := none, members := [], retired := [], quietFrom := 0 }
    let back := cs.flatMap fun c => ((s.core c).high.reverse ++ (s.core c).normal.reverse).map fun r => (l.job, r)
    let s : State := { s with gangs := Tab.put s.gangs s.nextId v, nextId := s.nextId + 1 }
    let s := cs.foldl (fun t c => t.modCore c fun k => { k with high := [], normal := [] }) s
    let s := s.modDisp fun d => { d with returned := d.returned ++ back.filter fun e => !isCancelled e.2 }
    s.redeal

/-- DEAL_UNIT: one service of the dispatcher, the first in its order (R65). -/
def State.dealOne (s : State) : State :=
  match s.nextServe with
  | none => s
  | some (.back j r c) => ((s.modDisp fun d => { d with returned := d.returned.erase (j, r) }).dealRecord j c r).redeal
  | some (.unit l c) => ((s.modDisp (·.dealt l)).dealRecord l.job c (unitRecord l.record l.next)).redeal
  | some (.place l) => s.placeGang l

/-- A die channel of the gang pool (R87): not given to a job of the die, and not to another gang; of several the lowest
(notes/assumptions/59.md). -/
def State.freeChannel (s : State) (die : Nat) : Option Nat :=
  (List.range 16).find? fun n =>
    !(s.jobs.any fun (_, b) => b.cores.any (fun c => coreDie c = die) && b.channels.any fun (l, p) => l < 16 && p = n) &&
      !(s.gangs.any fun (_, v) => v.die = die && v.channel = some (16 * die + n))

/-- The launch of a gang that waits. -/
def State.launchOf (s : State) (j n : Nat) : Option Launch := s.disp.launches.find? fun l => l.job = j && recCnt l.record = n

/-- Another gang that waits for a channel of the die comes first (R87). -/
def State.gangBefore (s : State) (v : Gang) (l : Launch) : Bool :=
  s.gangs.any fun (_, w) =>
    w.die = v.die && w.channel = none && w ≠ v && s.flows w.job && (w.cores.all s.coreIdle) &&
      (match s.launchOf w.job w.counter with | some m => s.serveBefore (.place m) (.place l) | none => false)

/-- The gang is released on every member in this core cycle (R87); gangs that stepped back for it look again. -/
def State.releaseGang (s : State) (g : Nat) (v : Gang) (l : Launch) (channel : Nat) : State :=
  let area := v.w * v.h
  let units := (List.range (recCount l.record)).map fun n => (n, (⟨v.cores.getD (n % area) 0, n / area⟩ : SId))
  let s : State := { s with gangs := Tab.put s.gangs g { v with channel := some channel, members := units.map (·.2) } }
  let s := s.modDisp fun d => { d with launches := d.launches.erase l }
  (units.foldl (fun t (n, x) => t.startTask x (unitRecord l.record n) (some g) s.clock.cc) s).gangsLook

/-- GANG_START: places the gang when it is the first in order, or starts it once its rectangle is idle and a channel is
free. -/
def State.tryGang (s : State) (j n : Nat) : State :=
  match s.launchOf j n with
  | none => s
  | some l =>
    if !l.released || !recGang l.record || !s.flows j then s
    else match s.placed j n with
      | none => match s.nextServe with
        | none => s
        | some a => if a = .place l then s.placeGang l else s.postOnce 0 (.dealUnit a.of.1 a.of.2)
      | some (g, v) =>
        if !v.cores.all s.coreIdle || s.gangBefore v l then s
        else match s.freeChannel v.die with
          | none => s
          | some c =>
            let S := (s.core (v.cores.headD 0)).part.strands
            if s.clock.cc % S ≠ 0 then s.post (S - s.clock.cc % S) (.gangStart j n)
            else s.releaseGang g v l (16 * v.die + c)

/-! ## Cancellation's end (R74) -/

/-- No task counted by a counter, or by one below it, is running, nor an engine operation of one (R71, R74). -/
def State.cancelReady (s : State) (j n : Nat) : Bool :=
  let b := s.job j
  (Job.closure (b.counters.length + 1) b [n] [n]).all fun m =>
    (s.counted j m).isEmpty && s.disp.retiring.all fun r => r.job ≠ j || r.counter ≠ m

/-- CANCEL_COMPLETE: the counter reaches DONE with CANC = 1, its PRED and PEND as they stand (notes/assumptions/59.md). A phase counter
whose barrier is in progress has completed. -/
def State.finishCancel (s : State) (j n : Nat) : State :=
  let c := s.counter j n
  if c.state.armed && c.cancel.isSome && !(s.job j).phaseOf.contains n && s.cancelReady j n then
    let s := s.setCounter j n { c with state := .active }
    let s := s.counters j [.complete n]
    if c.parent ≠ 0 then s.post 0 (.cancelComplete j c.parent) else s
  else s

/-! ## Effects (R91 to R93, R96, R97, R158) -/

def predWord (b : Bool) : PWord := if b then 1 else 0

/-- TSPAWN's effect. Records of a launch that is being cancelled are discarded as they are pushed (R74). -/
def State.performTspawn (s : State) (x : SId) (seq issue : Nat) (r : Rec512) (p : Nat) : EffRes :=
  match s.spawnCheck x r with
  | some b => .fault s (launchTrap b)
  | none =>
    let s := s.endRegion x
    let land (s : State) (b : Bool) : State := s.modStrand x fun st => st.land (issue + 1) seq [.p p (predWord b)]
    if 256 ≤ ((s.core x.core).deque (taskHi r)).length then .done (land s false)
    else
      let j := s.jobOf x
      let c := s.counter j (taskLaunchId r)
      let s := s.setCounter j (taskLaunchId r) { c with pend := (c.pend + 1) % 2 ^ 32 }
      .done ((land s true).pushRecord x.core (if c.cancel.isSome then cancelMark r else r) (taskHi r) false)

/-- The end of a task by TEND or TYIELD, which a cancellation may have waited for (R74). -/
def State.finishTask (s : State) (x : SId) : State :=
  let j := s.jobOf x
  let n := (s.strand x).regs.csr.launchId.toNat
  let s := s.endTask x
  if (s.counter j n).cancel.isSome then s.post 0 (.cancelComplete j n) else s

/-- TYIELD's effect. A unit's engine operations that are outstanding hold back its retirement wherever it goes on (R73). -/
def State.performTyield (s : State) (x : SId) (seq issue : Nat) (entry : Word) (p : Nat) : EffRes :=
  let s := s.endRegion x
  let c := (s.strand x).regs.csr
  if 256 ≤ (s.core x.core).normal.length then .done (s.modStrand x fun st => st.land (issue + 1) seq [.p p 0])
  else
    let r := taskRecord entry.toNat c.taskArg.toNat c.unitX.toNat c.unitY.toNat c.unitZ.toNat c.launchId.toNat false
    let r := if (s.counter (s.jobOf x) c.launchId.toNat).cancel.isSome then cancelMark r else r
    let old := (s.strand x).lineage
    let (s, n) := if s.opsOf x = [] then (s, old) else
      let n := if old = 0 then s.nextId else old
      ({ s with nextId := s.nextId + 1 }.retire x .yielded n, n)
    .done ((s.finishTask x).pushRecord x.core (withLineage r n) false true)

/-- LAUNCH's effect. -/
def State.performLaunch (s : State) (x : SId) (seq issue : Nat) (r : Rec512) (p : Nat) : EffRes :=
  let s := s.endRegion x
  let j := s.jobOf x
  let land (s : State) (b : Bool) : State := s.modStrand x fun st => st.land (issue + 1) seq [.p p (predWord b)]
  match s.launchCheck j r with
  | some b => .fault s (launchTrap b)
  | none =>
    if 4096 ≤ (s.job j).undone then .done (land s false)
    else
      let s := (land s true).acceptLaunch j r
      if (s.counter j (recCnt r)).cancel.isSome then .done s
      else .done ((s.modDisp fun d => { d with fromTasks := d.fromTasks ++ [(j, r)] }).post 0 (.dispatcherTake none))

/-- The state that REPART needs (R97). -/
def State.coreQuiet (s : State) (x : SId) : Bool :=
  let k := s.core x.core
  (s.userStrands x.core).all (fun y => y = x || (s.strand y).run = .idle) && k.high.isEmpty && k.normal.isEmpty &&
    k.ops.isEmpty && k.inbox.isEmpty && k.array.isEmpty

/-- REPART's change: the partition, and every register that strand 0 does not keep (R97). The other user strands seek
records (R81). -/
def State.repart (s : State) (x : SId) (part : Part) : State :=
  let s := s.modCore x.core fun k =>
    { k with part := part, strands := k.strands.map fun (n, st) => (n, if n = 0 then st else { st with regs := Regs.reset }) }
  let s := (s.userStrands x.core).foldl (fun t y => if (t.strand y).run = .idle then t.post 0 (.pop y) else t) s
  s.modStrand x fun st =>
    { st with
      regs := { st.regs with g := st.regs.g.filter fun (n, _) => n < 32, v := st.regs.v.filter fun (n, _) => n < 16 },
      phase := phaseOf part.strands x.strand st.base }

/-- REPART's effect, in the state that it needs also where it is performed late (R97, R133). -/
def State.performRepart (s : State) (x : SId) (part : Part) : EffRes :=
  if s.coreQuiet x then .done (s.repart x part) else .fault s (trapOf .operand 1)

/-- TEND's effect: the unit retires and the task ends (R73, R158). -/
def State.performTend (s : State) (x : SId) : State := (s.retire x .unit (s.strand x).lineage).finishTask x

end Sys2Proof.Machine
end

