-- ==== Sys2Proof/Machine/SyncOps.lean ====
section
/-! DEFINITION. Barrier objects as instructions reach them (R205, R223, R224), messages (R210, R225), streams (R261 to R263),
link ports (R249 to R253) and the waits of Woad instructions (R331 to R334, R337). -/

namespace Sys2Proof.Machine

/-! ## Barrier objects -/

/-- An object address that is misaligned or outside the window (R220, R223). -/
def objectBad (o : Word) : Option TrapInfo :=
  if o.toNat % 16 ≠ 0 then some (trapOf .misalign o) else if !inWindow o then some (trapOf .operand o) else none

def objectLoc (core : Nat) (o : Word) : Nat := Config.scratchLoc core (o.toNat % 0x40000)

/-- A core identifier in a register names a core (R16, R225, R263). -/
def targetOk (w : Word) : Bool := w.toNat < 8192 && coreIdOk w.toNat

/-- BARINIT's image (R223). -/
def barinitBad (w : Word) : Bool := bitsOf w 47 45 ≠ 0 || (bitOf w 63 && !coreIdOk (bitsOf w 44 32))

/-- BARINIT's effect (R207, R223). It is no access of a region (R341, R345). -/
def State.performBarinit (s : State) (x : SId) (o image : Word) : EffRes :=
  let l := objectLoc x.core o
  if s.storeLocked l 16 then .fault s (trapOf .rangelock o)
  else .done ((s.settleOwn x l 16).write l (leBytes 16 image.toNat))

/-- BARADD's effect (R206, R223): one step of the object, behind the steps of it that wait (R209). -/
def State.performBaradd (s : State) (x : SId) (o change : Word) : EffRes :=
  let l := objectLoc x.core o
  let s := s.settleOwn x l 16
  let d : Int := signedField 32 (change.toNat % 2 ^ 32)
  let e : Int := (objExpect s l : Int) + (s.core (locCore l)).heldChange l + d
  if e < 0 || 2 ^ 32 ≤ e then .fault s (trapOf .operand change) else .done (s.count l 0 d)

/-! ## Messages -/

/-- A core's partition is a strand's own (R225, R253, R263). -/
def State.inPartition (s : State) (x : SId) (c : Nat) : Bool := (s.job (s.jobOf x)).cores.contains c

/-- MSGSEND's effect (R225): a release at package scope. It waits behind a message that its core's engine holds for the target
(R210), and counts as the strand's class-0 request until it has reached the queue (R177). -/
def State.performMsgsend (s : State) (x : SId) (target payload : Word) : EffRes :=
  let s := s.endRegion x
  if s.inboxRoom (s.fwd target.toNat) && !(s.core x.core).heldTo.contains target.toNat then
    .done ((s.postMsg x.core target.toNat ⟨payload, 0, x.core, x.strand⟩).modStrand x fun st => { st with msgOut := true })
  else .park s .message

/-- The registers of a received message (R226). -/
def msgWrites (d : Nat) (m : Msg) : List Dest :=
  [.g d m.payload, .g (d + 1) (BitVec.ofNat 64 (m.kind * 65536 + m.sender))]

/-- An entry has left the inbound queue: what waits for room goes on (R209, R225). -/
def State.inboxFreed (s : State) (c : Nat) : State :=
  let s := s.wake fun _ p => p.reason = .message && p.on = .effect
  s.cores.foldl (fun t (d, k) => if k.heldTo.any fun e => s.fwd e = c then t.post 0 (.heldFlipApply d) else t) s

/-- Pops the oldest message (R226). -/
def State.popMsg (s : State) (c : Nat) : Option (Msg × State) :=
  match (s.core c).inbox with
  | [] => none
  | m :: ms => some (m, (s.modCore c fun k => { k with inbox := ms }).inboxFreed c)

/-! ## Streams -/

def State.streamRoom (s : State) (c : Nat) : Bool := (s.core c).streamIn.length + (s.core c).streamTransit.length < 16

/-- A word or the closing marker is sent on a route (R262). -/
def State.sendStream (s : State) (target : Nat) (e : StreamEntry) : State :=
  let c := s.fwd target
  (s.modCore c fun k => { k with streamTransit := k.streamTransit ++ [e] }).post 0 (.streamWordArrival c)

/-- SOPEN's effect (R263): granted at once where the target is free, else it waits in the target's order. -/
def State.performSopen (s : State) (x : SId) (target : Word) : EffRes :=
  let c := s.fwd target.toNat
  let s := s.endRegion x
  if (s.strand x).route.isSome then .fault s (trapOf .operand 0)
  else
    let k := s.core c
    if k.routeHolder.isNone && k.routeWait.isEmpty then
      .done ((s.modCore c fun k => { k with routeHolder := some x }).modStrand x fun st => { st with route := some target.toNat })
    else
      .park (s.modCore c fun k => { k with routeWait := if k.routeWait.contains x then k.routeWait else k.routeWait ++ [x] }) .stream

/-- SSEND's effect (R263). -/
def State.performSsend (s : State) (x : SId) (v : VWord) : EffRes :=
  match (s.strand x).route with
  | none => .fault s (trapOf .operand 0)
  | some c => if s.streamRoom (s.fwd c) then .done (s.sendStream c (some v)) else .park s .stream

/-- Sends the closing marker of a strand's open route: SCLOSE, or the end of its task (R263). -/
def State.closeRoute (s : State) (x : SId) : State :=
  match (s.strand x).route with
  | none => s
  | some c => (s.sendStream c none).modStrand x fun st => { st with route := none }

/-- SCLOSE's effect (R263): a release at package scope. -/
def State.performSclose (s : State) (x : SId) : EffRes :=
  if (s.strand x).route.isNone then .fault s (trapOf .operand 0) else .done ((s.endRegion x).closeRoute x)

/-- Pops the head of the stream queue (R263); the closing marker is an acquire. -/
def State.popStream (s : State) (x : SId) : Option (VWord × State) :=
  match (s.core x.core).streamIn with
  | [] => none
  | e :: es =>
    let s := s.modCore x.core fun k => { k with streamIn := es }
    let s := (s.wake fun _ p => p.reason = .stream && p.on = .effect).post 0 (.streamWordArrival x.core)
    some (e.getD 0, if e.isNone then s.endRegion x else s)

/-- STREAM_WORD_ARRIVAL: the next entry on its way enters where there is room; a marker releases the inbound route. -/
def State.streamArrive (s : State) (c : Nat) : State :=
  let k := s.core c
  match k.streamTransit with
  | [] => s
  | e :: es =>
    if 16 ≤ k.streamIn.length then s
    else
      let s := s.modCore c fun k => { k with streamTransit := es, streamIn := k.streamIn ++ [e] }
      let s := s.wake fun y p => y.core = c && (match p.on with | .stream _ => true | _ => false)
      let s := if es = [] then s else s.post 0 (.streamWordArrival c)
      if e.isNone then (s.modCore c fun k => { k with routeHolder := none }).post 0 (.routeGrant c) else s

/-! ## Link ports (R249 to R253) -/

/-- Port number of a link code: 0 NL, 1 EL, 2 SL, 3 WL (R100). -/
def linkPort (f : RField) : Option Nat := if 60 ≤ f.toNat then some (f.toNat - 60) else none
def opposite (p : Nat) : Nat := (p + 2) % 4

/-- The neighbour of a core through a port. -/
def neighbour (c p : Nat) : Option Nat :=
  let x := coreX c
  let y := coreY c
  match p with
  | 0 => if y < 23 then some (coreIdOf (coreDie c) (y + 1) x) else none
  | 1 => if x < 23 then some (coreIdOf (coreDie c) y (x + 1)) else none
  | 2 => if 0 < y then some (coreIdOf (coreDie c) (y - 1) x) else none
  | _ => if 0 < x then some (coreIdOf (coreDie c) y (x - 1)) else none

/-- The fault of a port that leads out of the die or the partition (R253). -/
def State.portBad (s : State) (x : SId) (p : Nat) : Option TrapInfo :=
  match neighbour x.core p with
  | none => some (trapOf .operand (BitVec.ofNat 64 (60 + p)))
  | some c => if s.inPartition x c then none else some (trapOf .perm (BitVec.ofNat 64 c))

/-- Onward ports of pops that LINKCFG forwards (R252). -/
def onward (cfg : BitVec 4) (pops : List Nat) : List Nat := (pops.filter fun p => bitOf cfg p).map opposite

def Core.linkWords (k : Core) (p : Nat) : List VWord := Tab.get [] k.links p
def Core.linkComing (k : Core) (p : Nat) : List (Nat × SId × VWord) := Tab.get [] k.linkTransit p

/-- The queues hold the words to pop, and the neighbours' queues have places for the words to push (R250). -/
def State.linkReady (s : State) (x : SId) (pops pushes : List Nat) : Bool :=
  (List.range 4).all fun p =>
    pops.count p ≤ ((s.core x.core).linkWords p).length &&
      (pushes.count p = 0 || match neighbour x.core p with
        | some c =>
          let k := s.core c
          (k.linkWords (opposite p)).length + (k.linkComing (opposite p)).length + pushes.count p ≤ 4
        | none => false)

/-- Strands parked at a link operation look again. -/
def State.wakeLinks (s : State) : State := s.wake fun _ p => match p.on with | .link _ _ => true | _ => false

/-- Pushes a word through a port, to enter at a core cycle and be present 4 cc later (R250). -/
def State.pushLink (s : State) (x : SId) (p enter : Nat) (v : VWord) : State :=
  match neighbour x.core p with
  | none => s
  | some c =>
    (s.modCore c fun k => { k with linkTransit := Tab.put k.linkTransit (opposite p) (k.linkComing (opposite p) ++ [(enter, x, v)]) }).post
      (enter + 4 - s.clock.cc) (.linkWordArrival c (opposite p))

/-- Pops the oldest word of a port; LINKCFG may forward it (R250, R252). -/
def State.popLink (s : State) (x : SId) (p : Nat) : VWord × State :=
  match (s.core x.core).linkWords p with
  | [] => (0, s)
  | v :: vs =>
    let s := s.modCore x.core fun k => { k with links := Tab.put k.links p vs }
    (v, if bitOf (s.strand x).regs.csr.linkcfg p then s.pushLink x (opposite p) s.clock.cc v else s)

/-- The core cycle after the last vc that a stopped strand has reached, which its words do not enter their queues at (R250, R369). -/
def Strand.stoppedCc (st : Strand) : Option Nat := if st.run = .drained then some (st.ccOf (st.drainT.getD 0) + 1) else none

/-- A word has entered its queue at core cycle e and is present 4 cc later; one whose vc its sender's held or stopped domain has not
reached has not entered (R126, R250, R369). -/
def State.linkPresent (s : State) (e : Nat) (x : SId) : Bool :=
  let st := s.strand x
  e + 4 ≤ s.clock.cc && !(st.held ≠ 0 && st.ccOf st.held ≤ e) && !st.stoppedCc.any (· ≤ e)

/-- LINK_WORD_ARRIVAL: the words that have come to be present, in push order, which is issue order (R249; notes/assumptions/62.md). -/
def State.linkArrive (s : State) (c p : Nat) : State :=
  let now := ((s.core c).linkComing p).takeWhile fun w => s.linkPresent w.1 w.2.1
  let left := ((s.core c).linkComing p).drop now.length
  let s := if now = [] then s else
    (s.modCore c fun k =>
      { k with linkTransit := Tab.put k.linkTransit p left, links := Tab.put k.links p (k.linkWords p ++ now.map (·.2.2)) }).wakeLinks
  match left with
  | [] => s
  | (e, x, _) :: _ =>
    if (s.strand x).stoppedCc.any (· ≤ e) then s else s.postOnce (Nat.max 1 (e + 4 - s.clock.cc)) (.linkWordArrival c p)

/-- The words that a strand has pushed are looked at again. -/
def State.wordsLook (s : State) (x : SId) : State :=
  s.cores.foldl (fun t (c, k) => k.linkTransit.foldl (fun t (p, es) =>
    if es.any (·.2.1 = x) then t.postOnce 0 (.linkWordArrival c p) else t) t) s

/-! ## Woad (R331 to R337) -/

/-- OPERAND of a Woad instruction (R337). -/
def woadTrap (ch reason : Nat) : TrapInfo := trapOf .operand (BitVec.ofNat 64 (ch * 256 + reason))

/-- The channel of which the strand is a member under a logical number. -/
def State.memberOf (s : State) (x : SId) (ch : Nat) : Option Nat :=
  if isMemberBit (s.strand x) ch then s.physChannel x ch else none

/-- Every earlier access of the strand has been performed (R334), apart from instruction seq itself. -/
def State.quietFor (s : State) (x : SId) (seq : Nat) : Bool :=
  let st := s.strand x
  st.storeBuf.isEmpty && st.inflight.all (fun e => seq ≤ e.seq) && st.deferred.all fun e => seq ≤ e.seq

/-- How a member resumes on a result (R333, R337). -/
def woadWrites (d : Option Nat) (r : BitVec 32) : List Dest := match d with | some d => [.g d (r.setWidth 64)] | none => []

/-- A wait on a channel is over: the result lands at the resumption slot, or the mismatch is taken there. -/
def State.woadDone (s : State) (x : SId) (ch : Nat) (d : Option Nat) (r : BitVec 32 × Bool) : State :=
  let s := s.breakRegion x
  if r.2 && d.isSome then s.makeReady x 0 [] (some (woadTrap ch 2)) else s.makeReady x 0 (woadWrites d r.1) none

/-- An arrival of a strand that is parked at its instruction and may now be sent: it waits for the release of its pending
bit, waits for earlier accesses, is sent, or turns out to have no channel (R331, R334). `next` is how the strand goes on
where the form waits no further. -/
def State.woadTry (s : State) (x : SId) (phys ch : Nat) (a : Arrival) (waits : Bool) (d : Option Nat)
    (next : State → State) : State :=
  match (s.strand x).park with
  | none => s
  | some p =>
    let repark (s : State) (reason : ParkReason) (on : ParkOn) : State :=
      (s.modStrand x fun st => st.turnPark reason on s.clock.cc).gangMark x
    if s.memberOf x ch ≠ some phys then s.makeReady x 0 [] (some (woadTrap ch 1))
    else if s.woadPending x phys then repark s .woad p.on
    else if !s.quietFor x p.seq then (if p.reason = .woad then repark s .serial p.on else s)
    else
      let s := s.endRegion x
      if waits then (repark s .woad (.woad phys ch true d)).arrive phys a else next (s.arrive phys a)

/-- Strands whose park a release of a channel may end. -/
def State.woadWaiters (s : State) (phys : Nat) : List (SId × Park) :=
  s.allStrands.filterMap fun x => ((s.strand x).park.filter fun p => match p.on with
    | .woad c _ _ _ | .arrival c _ _ _ _ => c = phys
    | _ => false).map fun p => (x, p)

/-- WOAD_RELEASE: a closed generation of a channel is released in its core cycle (R331, R332). -/
def State.woadRelease (s : State) (phys : Nat) : State :=
  let ch := s.channel phys
  match ch.closed.find? fun g => g.1 ≤ s.clock.cc with
  | none => s
  | some (cc, as) =>
      let r := woadResult as
      let waiting := s.woadWaiters phys
      let s := (s.setChannel phys { ch with closed := ch.closed.erase (cc, as) }).wake fun _ p => p.on = .effect && p.reason = .woad
      let s := as.foldl (fun t a =>
        if (t.strand a.sid).regs.csr.status.wdone then
          t.modStrand a.sid fun st => { st with woadGot := Tab.put st.woadGot phys r }
        else t) s
      waiting.foldl (fun t (x, p) => match p.on with
        | .woad _ c _ d => if as.any (·.sid = x) then t.woadDone x c d r else t
        | .arrival _ c a w d =>
          if (t.strand x).held = 0 && (t.strand x).ccOf (t.parkSlot x .woad) = t.clock.cc && p.reason = .woad then
            t.woadTry x phys c a w d fun u => u.makeReady x 0 [] none
          else t.post 0 (.woadArrival x)
        | _ => t) s

end Sys2Proof.Machine
end

