-- ==== Sys2Proof/Machine/StopOps.lean ====
section
/-! DEFINITION. Pre-emption of a job (R368 to R376), live migration (R377 to R380), debug stops (R382 to R386) and TLBINV
(R417). -/

namespace Sys2Proof.Machine

/-! ## Stop points (R134) -/

/-- Every instruction issued has passed its fault point, and the strand stands at a group boundary. -/
def Strand.passed (st : Strand) : Bool := st.group.isEmpty && st.inflight.isEmpty && st.deferred.isEmpty

/-- The conditions of R134. -/
def Strand.quiet (st : Strand) : Bool := st.passed && st.pending.isEmpty && st.park.isNone

/-- The strands of a domain that issue. -/
def State.runners (s : State) (x : SId) : List SId := (s.domain x).filter fun y => (s.strand y).run = .running

/-- A supervisor handler in progress is not stopped (R373). -/
def Status.handling (t : Status) : Bool := t.priv && t.inh

/-- Strands that run a task of a job. -/
def State.tasksOf (s : State) (j : Nat) : List SId :=
  s.allStrands.filter fun x => (s.strand x).run.isTask && s.jobOf x = j

/-- The vc of the last write still to land. -/
def Strand.lastLanding (st : Strand) : Nat := st.pending.foldl (fun m p => Nat.max m p.vc) 0

/-! ## Stopping (R368 to R372) -/

/-- The engines into whose queues markers go (R371): a step of the job that another die's collective engine runs holds a marker back
too (R416). -/
def State.stopEngines (s : State) (j : Nat) : List Engine :=
  let b := s.job j
  let maps := (s.mem.maps.filter (·.job = j)).flatMap fun v =>
    let p := s.descParm v.desc
    (List.range p.shards).map fun i => Engine.map ((p.home + i) % 256)
  let steps := s.coll.filterMap fun (d, c) => if c.running.any fun r => bitsOf r.1 207 176 = j then some d else none
  b.cores.map .copy ++ b.cores.map .array ++ maps.dedup ++ (b.cores.map coreDie ++ steps).dedup.map .collective ++ [.dispatcher]

/-- QUIESCE in stop mode: the signal goes to every strand, the markers to every engine. -/
def State.beginStop (s : State) (j : Nat) : State :=
  if (s.job j).run = JobRun.running then
    let es := s.stopEngines j
    let s := s.modJob j fun b => { b with run := .stopping, markers := es }
    let s := (s.tasksOf j).foldl (fun t x => t.post 0 (.quiesceSignalArrival x)) s
    es.foldl (fun t e => t.post 0 (.quiesceMarkerPass j e)) s
  else s

/-- The job is stopped when no strand of it issues and every marker has passed (R372): QUIESCE completes (R393). -/
def State.stopCheck (s : State) (j : Nat) : State :=
  let b := s.job j
  if b.run = JobRun.stopping && (s.tasksOf j).all fun x => (s.strand x).run ≠ .running then
    if b.markers = [] then
      (s.modJob j fun b => { b with run := .stopped }).wake fun _ p => p.on = .quiesce j
    else b.markers.foldl (fun t e => t.postOnce 0 (.quiesceMarkerPass j e)) s
  else s

/-- QUIESCE_SIGNAL_ARRIVAL: the stop vc of the strand's domain (R368); a domain with a handler in progress waits for its
ERET (R373). -/
def State.signal (s : State) (x : SId) : State :=
  let st := s.strand x
  let S := s.rotation x
  if (s.job (s.jobOf x)).run ≠ JobRun.stopping || st.run ≠ .running || st.drainT.isSome then s
  else if (s.runners x).any fun y => (s.strand y).regs.csr.status.handling then
    s.modStrand x fun st => { st with drainCc := s.clock.cc + 24 }
  else
    let next := nextSlot S st.phase (if st.base ≤ s.clock.cc then st.vcAt s.clock.cc + 1 else 0)
    let d := s.clock.cc + 24
    let t := if st.gang.isNone || st.drainCc ≠ 0 then next else roundUp S (d - st.base)
    let stop (st : Strand) : Strand := { st with drainT := some t, drainCc := if st.drainCc = 0 then d else 0 }
    let s := (s.runners x).foldl (fun u y => u.modStrand y stop) s
    s.post (s.ccTo x t) (.domainStop x)

/-- A strand that is parked at its stop vc abandons its park, unless what it waits for must come first (R370, R435). -/
def State.stopPark (s : State) (x : SId) : State :=
  match (s.waitDue x).or (s.strand x).park with
  | some p => if s.abandons x p true then s.abandon x p else s
  | none => s

/-- VSHIFT grows (R369, R384). -/
def Regs.shift (r : Regs) (n : Nat) : Regs := { r with csr := { r.csr with vshift := r.csr.vshift + BitVec.ofNat 64 n } }

/-- The domain holds vc v as long as it is stopped; VSHIFT counts from the vc at which each strand stopped issuing (R368, R369). -/
def State.drained (s : State) (ys : List SId) (v : Nat) : State :=
  ys.foldl (fun u y => (u.endRegion y).modStrand y fun st =>
    { st with run := .drained, drainT := some v, drainCc := 0, slot := Nat.max st.slot v, held := 0,
              regs := st.regs.shift (v - st.drainT.getD v) }) s

/-- A domain whose strands have writes still to land is looked at again when they have. -/
def State.awaitLandings (s : State) (x : SId) (ys : List SId) : State :=
  let w := ys.foldl (fun m y =>
    if (s.strand y).pending = [] then m else Nat.max m ((s.strand y).ccOf (s.strand y).lastLanding)) 0
  if s.clock.cc < w then s.postOnce (w - s.clock.cc) (.domainStop x) else s

/-- The strands of a domain as they stand now: writes landed, parks abandoned that a stop abandons (R128, R370). -/
def State.standStill (s : State) (ys : List SId) : State :=
  ys.foldl (fun u y => (u.modStrand y fun st => st.settle (st.vcAt u.clock.cc)).stopPark y) s

/-- A kill ends the tasks of a domain together, once every strand of it meets R134 (R74). A parked strand's park is abandoned as
R370 abandons it for pre-emption (notes/assumptions/24.md). -/
def State.killStop (s : State) (x : SId) : State :=
  let ys := s.runners x
  let s := s.standStill ys
  if ys.all fun y => (s.strand y).quiet then
    let zs := (s.domain x).filter fun y => (s.strand y).run.isTask && (s.strand y).run ≠ .halted
    (zs.foldl (fun t y => (t.retire y .killed (t.strand y).lineage).endTask y) s).post 0 (.cancelComplete (s.jobOf x) (s.strand x).regs.csr.launchId.toNat)
  else s.awaitLandings x ys

/-- DOMAIN_STOP: from its stop vc on a domain drains; it stops at the first vc at which every strand meets R134 (R369). A
domain that a kill has reached ends as soon as every strand does. -/
def State.stopDomain (s : State) (x : SId) : State :=
  let st := s.strand x
  if st.dying && st.run.isTask then s.killStop x
  else match st.drainT with
  | none => s.stopCheck (s.jobOf x)
  | some t =>
    if st.run ≠ .running then s
    else if st.held ≠ 0 then s
    else if s.clock.cc < st.ccOf t then s.postOnce (s.ccTo x t) (.domainStop x)
    else
      let ys := s.runners x
      let s := s.standStill ys
      let t := ys.foldl (fun m y => Nat.max m ((s.strand y).drainT.getD 0)) t
      if ys.all fun y => (s.strand y).quiet then
        let v := roundUp (s.rotation x) (Nat.max t ((s.strand x).vcAt s.clock.cc))
        if s.clock.cc < (s.strand x).ccOf v then s.postOnce (s.ccTo x v) (.domainStop x)
        else (s.drained ys v).stopCheck (s.jobOf x)
      else s.awaitLandings x ys

/-- The condition under which a marker passes (R371). The copy engine goes on starting requests until every domain of the
job has stopped (R435); a request whose rows or keys wait, for its strand or for locks, has completed as far as it can. -/
def State.markerReady (s : State) (j : Nat) (e : Engine) : Bool :=
  match e with
  | .copy c =>
    (s.core c).ops.all (fun o => !o.started || o.cmd.kind = .mapgetn || (o.todo = [] && (o.open_ || o.rows ≠ []))) &&
      (s.tasksOf j).all fun x => (s.strand x).run ≠ .running
  | .array c => (s.core c).array.all fun a => a.start.isNone || a.ends = 0
  | .collective d => (Tab.get Collective.idle s.coll d).running.isNone
  | .map _ | .dispatcher => true

/-- QUIESCE_MARKER_PASS. -/
def State.passMarker (s : State) (j : Nat) (e : Engine) : State :=
  let b := s.job j
  if b.run = JobRun.stopping && b.markers.contains e && s.markerReady j e then
    (s.modJob j fun b => { b with markers := b.markers.erase e }).stopCheck j
  else s

/-- The engines of a core have come to a point at which markers may pass. -/
def State.markersLook (s : State) (core : Nat) : State :=
  match (s.core core).job with
  | some j => if (s.job j).run = JobRun.stopping then s.postAll [.quiesceMarkerPass j (.copy core), .quiesceMarkerPass j (.array core)] else s
  | none => s

/-! ## Resuming and delivering (R374, R376) -/

/-- A drained strand goes on at the vc it holds, which begins at core cycle cc; its slot phase stays (R122, R374). Words that it has
pushed enter their queues at their vcs (R250). -/
def State.restart (s : State) (y : SId) (cc : Nat) : State :=
  let st := s.strand y
  let s := match st.stoppedCc with | some e => s.delayWords [y] e (cc - st.drainT.getD 0 - st.base) | none => s
  (s.modStrand y fun st =>
    { st with run := if st.run = .drained then .running else st.run, base := cc - st.drainT.getD 0, drainT := none,
              slot := Nat.max st.slot (st.drainT.getD 0) }).wordsLook y

/-- The corner of a gang's rectangle as its members stand, where they keep their relative places (R374). -/
def Gang.corner (v : Gang) : Option Nat :=
  match v.members with
  | [] => none
  | m :: _ =>
    let c := m.core
    let fits := v.members.zipIdx.all fun (y, n) =>
      let k := n % (v.w * v.h)
      coreDie y.core = coreDie c && coreX y.core = coreX c + k % v.w && coreY y.core = coreY c + k / v.w
    if fits && coreX c + v.w ≤ 24 && coreY c + v.h ≤ 24 then some c else none

def State.gangsOf (s : State) (j : Nat) : List (Nat × Gang) := s.gangs.filter fun (_, v) => v.job = j && v.members ≠ []

/-- The core cycle at which the gangs of a job restart: the next rotation boundary. -/
def State.restartCc (s : State) (j : Nat) : Nat := roundUp (s.jobUsers j + 1) (s.clock.cc + 1)

/-- The engines of a job's cores go on with their queues, its idle strands seek records and the dispatcher deals (R373, R374). -/
def State.enginesGo (s : State) (j : Nat) : State :=
  let b := s.job j
  let s := b.cores.foldl (fun t c =>
    let t := t.postAll [.copyStart c, .kStepEnd c, .arrayCommandStart c, .mzeroApply c, .heldFlipApply c]
    let t := (t.core c).ops.foldl (fun t o =>
      if o.started && o.cmd.kind = .mapgetn then t.post 0 (.mapgetnDispatch c o.id)
      else if o.started then t.post 0 (.byteLanding c o.id 0) else t) t
    (t.userStrands c).foldl (fun t x => if (t.strand x).run = .idle then (t.dropRound x).post 0 (.pop x) else t) t) s
  (b.cores.map coreDie).dedup.foldl (fun t d => t.post 0 (.collectiveStepStart d)) s.redeal

/-- CANCEL's effect (R75, R96). A kill of a stopped job lets its engines run on and its strands take records (R373). -/
def State.performCancel (s : State) (j n : Nat) (kill : Bool) : State :=
  let t := (s.cancel j n kill)
  if kill && (s.job j).run ≠ JobRun.running && (s.counter j n).state.armed then
    (t.modJob j fun b => { b with freed := true }).enginesGo j
  else t

/-- Start vcs of queued commands that have passed count as reached (R286). -/
def State.startsPast (s : State) (core : Nat) : State :=
  s.modCore core fun k =>
    { k with array := k.array.map fun a =>
        if a.start.isNone && a.hstart.any (fun n => n < s.cmdVc a) then { a with hstart := none } else a }

/-- The strands that a resumption of their job restarts. -/
def State.stoppedOf (s : State) (j : Nat) : List SId := (s.tasksOf j).filter fun y => (s.strand y).drainT.isSome

/-- The core cycle at which a stopped strand goes on: a gang's members together, others each in their first slot (R374). -/
def State.goesOnCc (s : State) (j : Nat) (y : SId) : Nat :=
  if (s.gangsOf j).any fun (g, v) => v.members.contains y && (s.strand y).gang = some g then s.restartCc j else s.firstSlot y

/-- The core cycle by which every domain of a job that is resumed has restarted (R393). -/
def State.resumedCc (s : State) (j : Nat) : Nat := (s.stoppedOf j).foldl (fun m y => Nat.max m (s.goesOnCc j y)) s.clock.cc

/-- QUIESCE in resume mode. The launch releases that counters have caused meanwhile follow (R372). -/
def State.resumeJob (s : State) (j : Nat) : State :=
  let ys := (s.stoppedOf j).map fun y => (y, s.goesOnCc j y)
  let s := (s.job j).cores.foldl (fun t c => t.startsPast c) s
  let s := (s.gangsOf j).foldl (fun t (g, v) =>
    let c := v.corner.getD (coreIdOf v.die v.y0 v.x0)
    { t with gangs := Tab.put t.gangs g { v with die := coreDie c, x0 := coreX c, y0 := coreY c } }) s
  let s := ys.foldl (fun t (y, cc) => t.restart y cc) s
  let s := (s.modJob j fun b => { b with run := .running, markers := [], freed := false }).enginesGo j
  s.counters j ((s.job j).owed.map .release)

/-- QUIESCE in deliver mode (R376). -/
def State.deliver (s : State) (j : Nat) : State :=
  (s.tasksOf j).foldl (fun t x =>
    if (t.strand x).run = .running && !(t.strand x).regs.csr.status.priv then
      t.addLate x (trapOf .preempt (BitVec.ofNat 64 j)) none
    else t) s

/-! ## QUIESCE and MIGRATE as instructions (R393, R394, R396) -/

def quiesceJob (w : Word) : Nat := w.toNat % 2 ^ 32
def quiesceMode (w : Word) : Nat := w.toNat / 2 ^ 32 % 4

/-- The reason of R396 that QUIESCE meets first. -/
def State.quiesceBad (s : State) (x : SId) (w : Word) : Option Nat :=
  let j := quiesceJob w
  let resume := quiesceMode w = 1
  if w.toNat / 2 ^ 34 ≠ 0 || quiesceMode w = 3 || (Tab.find? s.jobs j).isNone || j = s.jobOf x then some 1
  else if resume != ((s.job j).run = JobRun.stopped : Bool) then some 2
  else if resume && (s.gangsOf j).any (fun (_, v) => v.corner.isNone) then some 3
  else none

/-- A strand that has die channel bits set in WMEM (R378). -/
def State.onDieChannel (s : State) (x : SId) : Bool := (s.strand x).regs.csr.wmem.toNat % 2 ^ 16 ≠ 0

/-- The reason of R396 that MIGRATE meets first. A core that still forwards is not free (R379). -/
def State.migrateBad (s : State) (a b : Word) : Option Nat :=
  let src := s.core a.toNat
  let dst := s.core b.toNat
  if !targetOk a || !targetOk b || a = b then some 4
  else match src.job with
    | none => some 5
    | some j =>
      let idle := (List.range dst.part.strands).all fun n => (s.strand ⟨b.toNat, n⟩).run = .idle
      if (s.job j).run ≠ JobRun.stopped then some 5
      else if dst.forward.isSome || (dst.job.isSome && (dst.job ≠ some j || !idle || !dst.high.isEmpty || !dst.normal.isEmpty ||
          dst.part ≠ src.part)) then some 6
      else if coreDie a.toNat ≠ coreDie b.toNat && (List.range 8).any (fun n => s.onDieChannel ⟨a.toNat, n⟩) then some 7
      else none

/-! ## The move (R377 to R380) -/

/-- A strand's name after a move from core a to core b. -/
def moveSid (a b : Nat) (x : SId) : SId := if x.core = a then ⟨b, x.strand⟩ else x
def moveLoc (a b l : Nat) : Nat := if isScratchLoc l && locCore l = a then Config.scratchLoc b (locOff l) else l
def moveRange (a b : Nat) (r : Nat × Nat) : Nat × Nat := (moveLoc a b r.1, r.2)

def CopyOp.move (a b : Nat) (o : CopyOp) : CopyOp :=
  let core (c : Nat) : Nat := if c = a then b else c
  { o with
    owner := moveSid a b o.owner, todo := o.todo.map fun l => { l with core := core l.core, loc := l.loc.map (moveLoc a b) },
    slots := o.slots.map fun (c, n) => (core c, n), rlocks := o.rlocks.map (moveRange a b), wlocks := o.wlocks.map (moveRange a b),
    pages := o.pages.map fun (p, l) => (p, moveLoc a b l),
    sides := o.sides.foldl (fun t (c, w) => Tab.put t (moveLoc a b (c * 16) / 16) w) [],
    landed := o.landed.foldl (fun t (c, w) => Tab.put t (moveLoc a b (c * 32) / 32) w) [],
    rows := o.rows.map fun r =>
      { r with lands := r.lands.map fun l => { l with core := core l.core, loc := l.loc.map (moveLoc a b) },
               rlocks := r.rlocks.map (moveRange a b), wlocks := r.wlocks.map (moveRange a b) } }

def ArrayCmd.move (a b : Nat) (c : ArrayCmd) : ArrayCmd :=
  { c with owner := moveSid a b c.owner, locks := c.locks.map (moveRange a b) }

/-- What any core holds that names a strand or a scratch byte of the core that moves. -/
def Core.renamed (a b : Nat) (k : Core) : Core :=
  { k with
    ops := k.ops.map (·.move a b), array := k.array.map (·.move a b), routeHolder := k.routeHolder.map (moveSid a b),
    flips := k.flips.map fun f => (moveLoc a b f.1, f.2),
    routeWait := k.routeWait.map (moveSid a b), claims := k.claims.map fun e => (moveSid a b e.1, e.2),
    linkTransit := k.linkTransit.map fun (p, es) => (p, es.map fun e => (e.1, moveSid a b e.2.1, e.2.2)) }

def Gang.renamed (a b : Nat) (v : Gang) : Gang :=
  { v with members := v.members.map (moveSid a b), retired := v.retired.map (moveSid a b) }

def Channel.renamed (a b : Nat) (c : Channel) : Channel :=
  let f (x : Arrival) : Arrival := { x with sid := moveSid a b x.sid }
  { open_ := c.open_.map f, closed := c.closed.map fun (t, xs) => (t, xs.map f) }

/-- An acknowledgement on its way to a strand that moves finds it at its new place (R377). -/
def Due.renamed (a b : Nat) (d : Due) : Due :=
  match d.what with
  | .storePerformed x n => { d with what := .storePerformed (moveSid a b x) n }
  | _ => d

/-- MIGRATION_COMPLETE: the whole context stands on core b, and core a forwards to it. What belongs to the place stays: SVEC
and the delay counters. -/
def State.moveContext (s : State) (a b : Nat) : State :=
  let s : State :=
    { s with
      cores := s.cores.map fun (c, k) => (c, k.renamed a b), gangs := s.gangs.map fun (g, v) => (g, v.renamed a b),
      woad := s.woad.map fun (n, c) => (n, c.renamed a b),
      agenda := s.agenda.map fun d => d.renamed a b,
      mem := { s.mem with shadow := s.mem.shadow.map fun (l, x) => (l, moveSid a b x) } }
  let k := s.core a
  let old := s.core b
  let s := s.setCore b { k with svec := old.svec, delays := old.delays, forward := none }
  let s := s.setCore a { Core.reset with part := k.part, job := k.job, svec := k.svec, delays := k.delays, forward := some b }
  let s := (List.range k.part.strands).foldl (fun t n =>
    let y : SId := ⟨b, n⟩
    let st := t.strand y
    if st.route.isSome && !st.run.isTask then t.post 0 (.routeAutoClose y) else t) s
  let s := k.transit.foldl (fun t _ => t.post 0 (.messageArrival b 0)) s
  let s := k.streamTransit.foldl (fun t _ => t.post 0 (.streamWordArrival b)) s
  let s := k.linkTransit.foldl (fun t (p, _) => t.post 4 (.linkWordArrival b p)) s
  let s := [0, 1].foldl (fun t n => if k.releasing.contains n then t.post 0 (.bankRelease b (BitVec.ofNat 1 n)) else t) s
  s.post 0 (.routeGrant b)

/-- The destination joins the job's partition with the source's PART.MODE (R377, R378). -/
def State.joinPartition (s : State) (a b : Nat) : State :=
  match (s.core a).job with
  | some j =>
    (s.modCore b fun k => { k with job := some j, part := (s.core a).part }).modJob j fun v =>
      { v with cores := if v.cores.contains b then v.cores else v.cores ++ [b] }
  | none => s

/-- MIGRATION_COMPLETE. A core that forwards already has no context left to move, and its entry stays (notes/assumptions/59.md). -/
def State.migrate (s : State) (a b : Nat) : State :=
  let t := if (s.core a).forward.isSome then s else s.moveContext a b
  (t.joinPartition a b).wake fun _ p => p.on = .migrate a b

/-! ## TLBINV (R417) -/

/-- Clusters that a scope reaches from a cluster, and whether it reaches their die's translation cache. -/
def tlbReach (scope cluster : Nat) (e : TlbEntry) : Bool :=
  if scope < 3 then e.cluster = some cluster
  else if scope = 3 then e.die = clusterDie cluster
  else true

def tlbOverlap (base len : Nat) (e : TlbEntry) : Bool := e.va < base + len && base < e.va + e.size

/-- The entries that TLBINV removes. -/
def State.tlbHit (s : State) (x : SId) (base len scope : Nat) : List TlbEntry :=
  s.mem.tlb.filter fun e => tlbReach scope (clusterOf x.core) e && tlbOverlap base len e

/-- The addresses whose translations go with a TLBINV's range: the range itself, the whole of what each removed entry maps, and the
pages at the range's ends as the jobs' tables stand, for accesses whose walk no cache holds. -/
def State.tlbAreas (s : State) (hit : List TlbEntry) (base len : Nat) : List (Nat × Nat) :=
  let pages := s.jobs.flatMap fun (j, _) => [base, base + len - 1].filterMap fun va =>
    (s.walk j va).bind fun es => es.head?.map fun e => (e.2.1, e.2.2)
  (base, len) :: hit.map (fun e => (e.va, e.size)) ++ pages

/-- Registered operations that hold translations of the areas. -/
def State.tlbOps (s : State) (areas : List (Nat × Nat)) : List Nat :=
  s.cores.flatMap fun (_, k) => (k.ops.filter fun o => o.pages.any fun p => areas.any (meets (p.1 * 4096) 4096)).map (·.id)

/-- The address that a request translated when it was sent. -/
def Request.translated (r : Request) : Option Word :=
  match r with
  | .load ea _ _ _ _ | .fe _ ea _ _ _ _ | .atomic _ _ ea _ _ _ _ _ _ => some ea
  | .mapKey c => some c.handle
  | .counter _ _ | .sfu _ _ _ _ _ _ => none

/-- The address that a deferred store has translated at its issue. -/
def Effect.translated (f : Effect) : Option Word :=
  match f with
  | .store ea (some _) _ _ _ | .stn ea (some _) _ _ _ => some ea
  | _ => none

/-- An instruction in flight has translated an address and is not performed: a request that is sent, refused or waits at its word, and
what is deferred behind fault points. -/
def Strand.translated (st : Strand) (e : Inflight) : Option Word :=
  match e.req with
  | some (r, .sent _) | some (r, .waiting) => r.translated
  | _ => (st.deferred.find? (·.seq = e.seq)).bind (·.eff.translated)

/-- Instructions that have translated an address of the areas and are not performed. -/
def State.tlbReqs (s : State) (areas : List (Nat × Nat)) : List (SId × Nat) :=
  s.allStrands.flatMap fun y => ((s.strand y).inflight.filter fun e =>
    ((s.strand y).translated e).any fun ea => areas.any (meets ea.toNat 1)).map fun e => (y, e.seq)

/-- Stores to the areas that open regions hold back, or will once they are no longer deferred, by their issue vcs (R342, R417). -/
def State.tlbHeld (s : State) (areas : List (Nat × Nat)) : List (SId × Nat) :=
  s.allStrands.flatMap fun y =>
    (((s.strand y).region.held.filter fun h => areas.any (meets h.va 1)).map fun h => (y, h.issue)).dedup ++
      ((s.strand y).deferred.filter fun d => d.eff.translated.any fun ea => areas.any (meets ea.toNat 1)).map fun d => (y, d.issue)

/-- TLBINV's removal, once the strand's earlier stores have been performed: what it then waits for (R417). -/
def State.tlbRemove (s : State) (x : SId) (base len scope : Nat) : State × ParkOn :=
  let hit := s.tlbHit x base len scope
  let areas := s.tlbAreas hit base len
  let t := s.endRegion x
  (t.modMem fun m => { m with tlb := m.tlb.filter fun e => !hit.contains e },
   .tlbinv (base, len) (t.tlbOps areas) (t.tlbReqs areas) (t.tlbHeld areas))

/-- Nothing that a TLBINV waits for is left: copies, accesses, and stores that open regions hold back. -/
def State.tlbClear (s : State) (ops : List Nat) (reqs held : List (SId × Nat)) : Bool :=
  (s.cores.all fun (_, k) => k.ops.all fun o => !ops.contains o.id) &&
    (reqs.all fun r => (s.strand r.1).inflight.all fun e => e.seq ≠ r.2 || ((s.strand r.1).translated e).isNone) &&
    held.all fun r => (s.strand r.1).region.held.all fun h => h.issue ≠ r.2

/-! ## Debug (R383 to R386) -/

/-- A park at which the strand stands at a group boundary. -/
def Strand.standing (st : Strand) : Bool :=
  st.passed && st.pending.isEmpty && (match st.park with | none => true | some p => p.on.reissues)

/-- STOP of DBGCTL: the strand stops at its next stop point; one that is stopped for a pre-emption does once it goes on. -/
def State.askStop (s : State) (x : SId) : State :=
  s.modStrand x fun st =>
    if st.run = .running || st.run = .drained then { st with stopAsked := true, stepping := false, dbgCode := 0 } else st

def State.setDbg (s : State) (x : SId) (v : Word) : State :=
  s.modStrand x fun st => { st with brken := bitOf v 3, stepBit := bitOf v 2 }

/-- The strand leaves the rotation (R384). A gang's domain is held at the vc of the stop point. -/
def State.stopStrand (s : State) (x : SId) : State :=
  let s := s.modStrand x fun st => st.settle (st.vcAt s.clock.cc)
  let st := s.strand x
  if st.run ≠ .running || !st.stopAsked || !st.standing then s
  else
    let v := s.issueVc x
    let s := s.endRegion x
    let s := if st.gang.isSome then s.noteLate x .stop v else s
    s.modStrand x fun st => { (st.unpark s.clock.cc) with
      run := .debugStopped, stopAsked := false, brkAt := none, slot := v, resumed := false,
      dbgCode := if st.stepping then 0x15 else st.dbgCode, stepping := false }

/-- A strand that goes on in a job that is stopped waits for the job's resumption. -/
def State.goStopped (s : State) (x : SId) : State :=
  let st := s.strand x
  if st.run = .running && (s.job (s.jobOf x)).run = JobRun.stopped && !(s.job (s.jobOf x)).killed then
    let v := roundUp (s.rotation x) (st.vcAt s.clock.cc + 1)
    s.modStrand x fun st => { st with run := .drained, drainT := some v }
  else s.post 0 (.quiesceSignalArrival x)

/-- The arrays of a strand's job go on from a debug stop of the job (R286). -/
def State.arraysGo (s : State) (x : SId) : State :=
  (s.job (s.jobOf x)).cores.foldl (fun t c =>
    if (t.core c).array = [] then t else t.postAll [.kStepEnd c, .arrayCommandStart c, .mzeroApply c]) s

/-- GO of DBGCTL (R383, R385); a halted strand discards its context and seeks a record (R360). -/
def State.goOn (s : State) (x : SId) : State :=
  let st := s.strand x
  match st.run with
  | .debugStopped =>
    let r := s.resumeSlot x
    if st.gang.isSome then
      (s.modStrand x fun st =>
        { (st.itemsHere (· = .stop)) with run := .running, stepping := st.stepBit, slot := Nat.max st.slot r }).gangMark x |>.holdCheck x
    else
      let v := nextSlot (s.rotation x) st.phase (st.vcAt s.clock.cc + 1)
      s.modStrand x fun st => { st with run := .running, stepping := st.stepBit, slot := Nat.max r v, regs := st.regs.shift (Nat.max r v - st.slot) }
  | .halted => s.endTask x
  | _ => s

def State.go (s : State) (x : SId) : State :=
  let t := (s.goOn x).goStopped x
  if s.debugStop (s.jobOf x) then t.arraysGo x else t

end Sys2Proof.Machine
end

