-- ==== Sys2Proof/Machine/Effects.lean ====
section
/-! DEFINITION. Performing effects (R131 to R133, R432): at issue where every earlier instruction has passed its fault point,
else in program order once they have; and the parks and faults of effects performed late. -/

namespace Sys2Proof.Machine

/-- A request that writes through a write-blocked leaf must wait (R403): an atomic by its address, a map operation by its
handle. The address on which it waits. -/
def State.requestBlocked (s : State) (x : SId) (r : Request) : Option Nat :=
  match r with
  | .atomic _ _ ea _ _ _ _ _ q => if s.resolve x ea q Need.both = .blocked then some ea.toNat else none
  | .mapKey c => if s.resolve x c.handle c.q Need.map = .blocked then some c.handle.toNat else none
  | _ => none

/-- The walk of a request: an atomic translates as its effect is performed, and counts then, once where it waits for its page (R403,
R411, R419). -/
def State.requestWalk (s : State) (x : SId) (seq : Nat) (r : Request) : State :=
  match r with
  | .atomic _ _ ea _ _ _ _ _ q => s.countOnce x seq ea q
  | _ => s

/-- The fault that an atomic's walk finds. -/
def State.requestBad (s : State) (x : SId) (r : Request) : Option TrapInfo :=
  match r with
  | .atomic _ _ ea _ _ _ _ _ q => (match s.resolve x ea q Need.both with | .bad t => some t | _ => none)
  | _ => none

/-- A request as it is sent: an atomic goes to the place of its walk (R404). -/
def State.requestPlaced (s : State) (x : SId) (r : Request) : Request :=
  match r with
  | .atomic op n ea none y c d mode q =>
    .atomic op n ea (match s.resolve x ea q Need.both with | .at_ l leaf => some (l, leaf) | _ => none) y c d mode q
  | r => r

/-- The vc before which a request does not issue: an answer that must wait for a fault point at or after its own landing vc could
not come by it, however long the domain paused (R124, R131, R133; notes/assumptions/52.md). -/
def State.laterVc (s : State) (c : Ctx) (e : Inflight) : Option Nat :=
  let t := (s.strand c.sid).orderVc e
  if t < e.faultVc then none else some (c.vc + (t - e.faultVc) + 1)

/-- A request is posted to its home (R166, R308, R352), or its walk has found a fault. Its landing stands (R133). -/
def State.performRequest (s : State) (x : SId) (seq : Nat) (r : Request) : State :=
  match s.requestBad x r with
  | some t => s.serve x seq [] (some t)
  | none =>
    let s := s.modStrand x fun st =>
      { st with inflight := st.inflight.map fun e => if e.seq = seq then { e with req := some (s.requestPlaced x r, .sent 0) } else e }
    s.post 0 (match r with | .mapKey _ => .sequencerAccept x seq | _ => .homeSliceRequest x seq none)

/-- An effect that parks on a write-blocked page waits for a TLBINV that covers its address (R403). -/
def EffRes.blockedAt (r : EffRes) (x : SId) (seq va : Nat) : EffRes :=
  match r with
  | .park s .writeBlocked => .park (s.blockOn x seq va 1) .writeBlocked
  | r => r

/-- A strand that waits for its own effect waits on, for what the effect has begun. -/
def State.waitOn (s : State) (x : SId) (seq : Nat) (reason : ParkReason) (on : ParkOn) : State :=
  let cc := s.clock.cc
  (s.modStrand x fun st => if st.park.any fun p => p.seq = seq && p.on = .effect then st.turnPark reason on cc else st).gangMark x

/-- QUIESCE's effect (R393): a stop waits until the job is stopped, a resume until every domain of the job has restarted. -/
def State.performQuiesce (s : State) (x : SId) (seq job mode : Nat) : State :=
  let s := s.endRegion x
  match mode with
  | 0 => ((s.beginStop job).waitOn x seq .barrierPhase (.quiesce job)).post 0 (.parkResume x)
  | 1 =>
    let cc := s.resumedCc job
    ((s.resumeJob job).waitOn x seq .barrierPhase (.ready 0 [] none)).post (cc - s.clock.cc) (.parkResume x)
  | _ => s.deliver job

/-- TLBINV's effect (R417). A range of length 0 has none. -/
def State.performTlbinv (s : State) (x : SId) (seq : Nat) (base len : Word) (scope : Nat) : State :=
  let r := s.tlbRemove x base.toNat len.toNat scope
  (r.1.waitOn x seq .serial r.2).post 0 (.tlbinvComplete x)

/-- WWAIT's effect (R337): a region break; it waits where the strand's arrival has not been released. -/
def State.performWwait (s : State) (x : SId) (ch : Nat) : EffRes :=
  let s := s.endRegion x
  if (s.memberOf x ch).any (s.woadPending x) then .park s .woad else .done s

/-- Performs one effect (R133). -/
def State.performEffect (s : State) (x : SId) (e : Deferred) : EffRes :=
  match e.eff with
  | .store ea p n v q => (s.performStore x ea p n e.issue v q).blockedAt x e.seq ea.toNat
  | .stn ea p hi v q => (s.performStn x ea p hi v e.issue q).blockedAt x e.seq ea.toNat
  | .request r =>
    let t := s.requestWalk x e.seq r
    match s.requestBlocked x r with
    | some va => .park (t.blockOn x e.seq va 1 [va]) .writeBlocked
    | none => .done (t.performRequest x e.seq r)
  | .copy c =>
    if c.kind = .mapgetn then s.performGetn x e.seq e.gpc e.issue c
    else match s.performCopy x e.seq e.gpc e.issue c with
      | .done t => .done (if c.follow.isSome then t.lockFollow x.core else t)
      | r => r
  | .barinit o w => s.performBarinit x o w
  | .baradd o w => s.performBaradd x o w
  | .msgsend c w => s.performMsgsend x c w
  | .sopen c => s.performSopen x c
  | .ssend v => s.performSsend x v
  | .sclose => s.performSclose x
  | .mprec bank short w => s.performMprec x bank short w
  | .array a => s.performArray x a
  | .mwracc bank i v => s.performMwracc x bank i v
  | .release bank land =>
    let st := s.strand x
    if st.vcAt s.clock.cc < land then .park s .serial else .done (s.performRelease x bank)
  | .csr f n w =>
    let v := f.apply (s.csrRead x e.issue n) w
    .done (if n = 0x019 then s.setWmem x (v.setWidth 24) else s.writeJobCsr x.core (s.jobOf x) n v)
  | .cancel kill n => .done ((s.endRegion x).performCancel (s.jobOf x) n kill)
  | .tspawn r p => s.performTspawn x e.seq e.issue r p
  | .tyield w p => s.performTyield x e.seq e.issue w p
  | .launch r p => s.performLaunch x e.seq e.issue r p
  | .repart p => s.performRepart x p
  | .quiesce j m => .done (s.performQuiesce x e.seq j m)
  | .migrate a b => .done (((s.endRegion x).waitOn x e.seq .barrierPhase (.migrate a b)).post 0 (.migrationComplete a b))
  | .tlbinv b n c => if !(s.strand x).storeBuf.isEmpty then .park s .serial else .done (s.performTlbinv x e.seq b n c)
  | .wwait ch => s.performWwait x ch
  | .regionEnd => .done (s.endRegion x)
  | .eret => .done (s.leave x)
  | .tend => .done (s.performTend x)



def State.addDeferred (s : State) (c : Ctx) (eff : Effect) (stuck : Option ParkReason) : State :=
  s.modStrand c.sid fun st => { st with deferred := st.deferred ++ [⟨c.seq, c.vc, c.gpc, eff, stuck⟩] }

/-- An effect waits, and lets its strand go on, while a class-0 request of it is outstanding and it would be another (R177). -/
def Strand.effectHeld (st : Strand) (e : Effect) : Bool :=
  match e with | .msgsend _ _ => st.msgOut || st.storeBuf.any (·.zero) | _ => false

/-- A wait for the strand's own stores or landings ends without a wake. -/
def stuckFor (reason : ParkReason) : Option ParkReason := if reason = .serial then none else some reason

/-- An instruction whose effect is `eff` and which goes on at `next` (R133, R432). -/
def emit (s : State) (c : Ctx) (eff : Effect) (next : Word) : Act :=
  let later (s : State) (stuck : Option ParkReason) : State :=
    (s.addFlight c (c.flight c.vc none none)).addDeferred c eff stuck
  if s.clear c.sid && !(s.strand c.sid).effectHeld eff then
    match s.performEffect c.sid ⟨c.seq, c.vc, c.gpc, eff, none⟩ with
    | .done t => .go t next
    | .fault t f => .faultIn t f
    | .park t reason => .wait (later t (stuckFor reason)) reason .effect
  else .go (later s none) next

/-- An instruction whose effect is a request for a register result, which lands at issue + lat (R131, R352). -/
def emitRequest (s : State) (c : Ctx) (lat : Nat) (r : Request) : Act :=
  let e := c.flight (c.vc + lat) (some (r, .unsent)) none
  let t := s.addFlight c e
  match s.laterVc c e with
  | some v => .later v
  | none =>
    if !s.clear c.sid then .go (t.addDeferred c (.request r) none) c.next
    else
      let t := t.requestWalk c.sid c.seq r
      match s.requestBlocked c.sid r with
      | some va => .wait ((t.addDeferred c (.request r) (some .writeBlocked)).blockOn c.sid c.seq va 1 [va]) .writeBlocked .effect
      | none => .go (t.performRequest c.sid c.seq r) c.next

/-- An instruction that ends the group's sequence: the strand issues nothing until its effect has been performed. `act` says
how it ends when it is performed at issue. -/
def emitStop (s : State) (c : Ctx) (eff : Effect) (act : State → Act) : Act :=
  if s.clear c.sid then
    match s.performEffect c.sid ⟨c.seq, c.vc, c.gpc, eff, none⟩ with
    | .done t => act t
    | .fault t f => .faultIn t f
    | .park t reason =>
      .wait ((t.addFlight c (c.flight c.vc none none)).addDeferred c eff (stuckFor reason)) reason .effect
  else .wait ((s.addFlight c (c.flight c.vc none none)).addDeferred c eff none) .serial .effect

/-- An instruction that reads a record at its issue (R42): the read is an access of the strand, after every earlier one that orders it
(R340, R348), so that the instruction issues once those have been performed (notes/assumptions/12.md). -/
def withRecord (s : State) (c : Ctx) (entry : Act) : Act :=
  if (s.strand c.sid).nextWaits false then .again .serial (.order false) else entry

/-- The head of the deferred effects, where every earlier instruction has passed its fault point (R133), and for TLBINV's
release every store has been performed; a message waits for the strand's class-0 request (R177). -/
def Strand.headEffect (st : Strand) : Option Deferred :=
  match st.deferred with
  | [] => none
  | e :: _ =>
    let held := match e.eff with | .tlbinv _ _ _ => !st.storeBuf.isEmpty | f => st.effectHeld f
    if held || st.inflight.any fun f => f.seq < e.seq then none else some e

/-- An effect has been performed: it leaves the list, and a strand that was parked for it goes on. -/
def State.effectDone (s : State) (x : SId) (seq : Nat) : State :=
  let cc := s.clock.cc
  let slot := s.resumeSlot x
  let at_ := s.parkSlot x (match (s.strand x).park with | some p => if p.seq = seq then p.reason else .serial | none => .serial)
  s.modStrand x fun st =>
    let tried : Bool := st.deferred.any fun e => e.seq = seq && e.stuck.isSome
    let st := { st with deferred := st.deferred.filter fun e => e.seq ≠ seq }
    match st.park with
    | some p =>
      if p.on = .effect && p.seq = seq then { (st.unpark cc).faultFrom seq at_ with slot := slot }
      else if tried then (st.surface cc).faultFrom seq at_ else st
    | none => st

/-- Performs the head effect late: DEFERRED_EFFECT, and the second try of an effect that found no room (R133, R432). -/
def State.performHead (s : State) (x : SId) : State :=
  match (s.strand x).headEffect with
  | none => s
  | some e =>
    match s.performEffect x e with
    | .done t => t.effectDone x e.seq
    | .fault t f =>
      match (t.strand x).inflight.find? (·.seq = e.seq) with
      | some i => t.raise x i f ((t.strand x).vcAt t.clock.cc)
      | none => t
    | .park t reason =>
      if reason = .serial then t
      else
        let cc := t.clock.cc
        let waited : Bool := (s.strand x).parks.any fun p => p.seq = e.seq && p.reason = reason
        let t := t.modStrand x fun (st : Strand) =>
          let st : Strand := { st with deferred := st.deferred.map fun d => if d.seq = e.seq then { d with stuck := some reason } else d }
          match st.park with
          | some p =>
            if p.seq = e.seq then st.turnPark reason p.on cc
            else if p.reason = .serial then { st with under := st.under.or (some cc) } else st
          | none => { st with park := some ⟨reason, .effect, e.gpc, e.seq, e.issue, cc⟩ }
        if waited then t else t.gangMark x

/-- The core cycle from which the head effect may be performed: MRDACC's release waits for its landing (R294). -/
def Strand.effectCc (st : Strand) (e : Deferred) : Nat := match e.eff with | .release _ land => st.ccOf land | _ => 0

/-- The head effect is due at once, one that must wait when something wakes it. -/
def Strand.effectDue (st : Strand) : Option Deferred :=
  st.headEffect.filter fun e => e.stuck.isNone && (match e.eff with | .release _ land => st.reaches land | _ => true)

/-- A waiting head effect is tried again, one on a write-blocked page once it may walk again (R403). -/
def State.retryHead (s : State) (x : SId) : State :=
  if (s.strand x).headEffect.any fun e => (s.strand x).blockedBy e.seq then s
  else (s.modStrand x fun st => { st with deferred := st.deferred.map fun d => { d with stuck := none } }).performHead x

end Sys2Proof.Machine
end

