-- ==== Sys2Proof/Machine/LoadStore.lean ====
section
/-! DEFINITION. Loads and stores (R190 to R194), full/empty marks (R195), nibble stores (R196) and PREF (R197). -/

namespace Sys2Proof.Machine

/-! ## Shared entries -/

/-- Checks 1 and 2 of R190. -/
def accessBad (q : Policy) (ea : Word) (n : Nat) : Option TrapInfo :=
  if !polOk q then some (trapOf .operand (q.setWidth 64)) else if ea.toNat % n ≠ 0 then some (trapOf .misalign ea) else none

/-- Check 4 of R190: the tag of the slot that holds a scratch address (R139). -/
def State.hseqBad (s : State) (c : Ctx) (l : Nat) : Option TrapInfo :=
  c.h.seq.bind fun t => if s.tagAt l = t then none else some (scheduleTrap (locOff l / 4096) (s.tagAt l) t)

/-- A fault that an instruction raises at issue + lat (R131). -/
def trapLater (s : State) (c : Ctx) (lat : Nat) (t : TrapInfo) : Act :=
  .go (s.addFlight c (c.flight (c.vc + lat) none (some t))) c.next

/-- A load of n bytes (R190, R192, R193): in scratch it is performed at issue, once every earlier operation that orders it has
been performed (R164, R348; notes/assumptions/12.md); elsewhere at its home. -/
def loadEntry (n : Nat) (dest : LoadDest) (b : RField) (qn : QField) (o : BitVec 11) (s : State) (c : Ctx) : Act :=
  let ea := c.ea b o n
  let q := c.q qn
  let lat := if toScratch ea q then 6 else 96
  match accessBad q ea n with
  | some t => trapLater s c lat t
  | none => match s.resolve c.sid ea q { Need.read with dev := n = 8 } with
    | .bad t => trapLater (s.countWalk c.sid ea q) c lat t
    | .blocked => trapLater s c lat (trapOf .perm ea)
    | .at_ l leaf =>
      if isScratchLoc l then
        match s.hseqBad c l with
        | some t => trapLater s c lat t
        | none =>
         if (s.strand c.sid).nextWaits (isSync q) then .again .serial (.order (isSync q))
         else match s.loadAt c.sid ea l n q with
          | (t, .inr f) => trapLater t c lat f
          | (t, .inl bs) =>
            .go ((t.addFlight c (c.flight (c.vc + lat) none none)).results c lat (dest.writes (s.overlay c.sid c.seq l bs))) c.next
      else
        let e := c.flight (c.vc + lat) (some (.load ea l n dest q, .sent 0)) none
        match s.laterVc c e with
        | some v => .later v
        | none =>
          let s := s.countLeaf (s.jobOf c.sid) leaf ea.toNat l 1
          .go ((s.addFlight c e).post 0 (.homeSliceRequest c.sid c.seq none)) c.next

/-- A store of n bytes (R190, R192, R193): the checks at issue, then the effect. -/
def storeEntry (n : Nat) (v : VWord) (b : RField) (qn : QField) (o : BitVec 11) (s : State) (c : Ctx) : Act :=
  let ea := c.ea b o n
  let q := c.q qn
  match accessBad q ea n with
  | some t => .fault t
  | none =>
    let t := s.countWalk c.sid ea q
    match s.resolve c.sid ea q { Need.write with dev := n = 8 } with
    | .bad f => .faultIn t f
    | .blocked => emit t c (.store ea none n v q) c.next
    | .at_ l leaf => emit (t.walkLate c.sid ea l (c.vc + 1)) c (.store ea (some (l, leaf)) n v q) c.next

/-- What an M-format access of a policy accepts: HPOL and HSCOPE, and HSEQ for a load (R104). -/
def loadHints : Attach := { pol := true, scope := true, seq := true }
def policyHints : Attach := { pol := true, scope := true }

/-- LD (R192). -/
def load (n : Nat) (signed : Bool) (d b : RField) (qn : QField) (o : BitVec 11) (s : State) :
    Host.Outcome State Fault Refusal :=
  issue s loadHints [gD d, gA b] false fun s c => loadEntry n (.g (c.h.x (gD d)) signed) b qn o s c

/-- ST (R192). -/
def store (n : Nat) (d b : RField) (qn : QField) (o : BitVec 11) (s : State) : Host.Outcome State Fault Refusal :=
  issue s policyHints [gD d, gA b] false fun s c => storeEntry n ((c.g (gD d)).setWidth 128) b qn o s c

/-- LD.b8 (R192). -/
def execLdB8 (d b : RField) (q : QField) (o : BitVec 11) (s : State) : Host.Outcome State Fault Refusal :=
  load 1 false d b q o s

/-- LD.b16 (R192). -/
def execLdB16 (d b : RField) (q : QField) (o : BitVec 11) (s : State) : Host.Outcome State Fault Refusal :=
  load 2 false d b q o s

/-- LD.b32 (R192). -/
def execLdB32 (d b : RField) (q : QField) (o : BitVec 11) (s : State) : Host.Outcome State Fault Refusal :=
  load 4 false d b q o s

/-- LD.b64 (R192). -/
def execLdB64 (d b : RField) (q : QField) (o : BitVec 11) (s : State) : Host.Outcome State Fault Refusal :=
  load 8 false d b q o s

/-- LD.s8 (R192). -/
def execLdS8 (d b : RField) (q : QField) (o : BitVec 11) (s : State) : Host.Outcome State Fault Refusal :=
  load 1 true d b q o s

/-- LD.s16 (R192). -/
def execLdS16 (d b : RField) (q : QField) (o : BitVec 11) (s : State) : Host.Outcome State Fault Refusal :=
  load 2 true d b q o s

/-- LD.s32 (R192). -/
def execLdS32 (d b : RField) (q : QField) (o : BitVec 11) (s : State) : Host.Outcome State Fault Refusal :=
  load 4 true d b q o s

/-- ST.b8 (R192). -/
def execStB8 (d b : RField) (q : QField) (o : BitVec 11) (s : State) : Host.Outcome State Fault Refusal :=
  store 1 d b q o s

/-- ST.b16 (R192). -/
def execStB16 (d b : RField) (q : QField) (o : BitVec 11) (s : State) : Host.Outcome State Fault Refusal :=
  store 2 d b q o s

/-- ST.b32 (R192). -/
def execStB32 (d b : RField) (q : QField) (o : BitVec 11) (s : State) : Host.Outcome State Fault Refusal :=
  store 4 d b q o s

/-- ST.b64 (R192). -/
def execStB64 (d b : RField) (q : QField) (o : BitVec 11) (s : State) : Host.Outcome State Fault Refusal :=
  store 8 d b q o s

/-- LDPR (R193). -/
def execLdpr (d : EField) (b : RField) (q : QField) (o : BitVec 11) (s : State) : Host.Outcome State Fault Refusal :=
  issue s loadHints [gPair d, gA b] false fun s c => loadEntry 16 (.pair (c.h.x (gPair d))) b q o s c
/-- LDV (R193). -/
def execLdv (d b : RField) (q : QField) (o : BitVec 11) (s : State) : Host.Outcome State Fault Refusal :=
  issue s loadHints [vD d, gA b] false fun s c => loadEntry 16 (.v d.toNat) b q o s c
/-- STV (R193). -/
def execStv (d b : RField) (q : QField) (o : BitVec 11) (s : State) : Host.Outcome State Fault Refusal :=
  issue s policyHints [vD d, gA b] false fun s c => storeEntry 16 (c.v d) b q o s c

/-! ## Full/empty operations (R188, R194, R195, R433) -/

/-- Registers a waiter in acceptance order (R188). -/
def State.addWaiter (s : State) (x : SId) (seq : Nat) (op : FeOp) (l : Nat) (v : Word) (d : Nat) : State :=
  s.modMem fun m => { m with waiters := m.waiters ++ [⟨x, seq, op, l, v, d⟩] }



/-- LDF, LDFP and STF once every earlier instruction has passed its fault point. -/
def feEntry (op : FeOp) (v : Word) (d : Nat) (ea : Word) (q : Policy) (s : State) (c : Ctx) : Act :=
  let reads := op ≠ .stf
  let lat := if !reads then 0 else if toScratch ea q then 6 else 96
  let bad (s : State) (t : TrapInfo) : Act := if reads then trapLater s c lat t else .faultIn s t
  match accessBad q ea 8 with
  | some t => bad s t
  | none =>
    let s := s.countOnce c.sid c.seq ea q
    match s.resolve c.sid ea q (Need.fullEmpty reads) with
    | .bad t => bad s t
    | .blocked => .stay (s.blockOn c.sid c.seq ea.toNat 1 [ea.toNat]) .writeBlocked .again
    | .at_ l _ =>
      let s := s.endRegion c.sid
      let req (g : Stage) : Inflight := c.flight (c.vc + lat) (some (.fe op ea l v d q, g)) none
      if isScratchLoc l then
        match (if reads then s.hseqBad c l else none).or (s.feTrap c.sid op ea l q) with
        | some t => bad s t
        | none =>
          if op.fits (s.isEmpty l) then
            let (t, ds) := s.feStep op l v d
            let t := t.serveWord l
            .go (if reads then (t.addFlight c (c.flight (c.vc + lat) none none)).results c lat ds else t) c.next
          else
            let t := ((s.addFlight c (req .waiting)).addWaiter c.sid c.seq op l v d).stallFrom c.sid (c.vc + lat)
            if reads then .go t c.next else .wait t .fullEmpty (.home c.seq)
      else
        let t := (s.addFlight c (req (.sent 0))).post 0 (.homeSliceRequest c.sid c.seq none)
        if reads then .go t c.next else .wait t .fullEmpty (.home c.seq)

/-- A full/empty load or store (R194). -/
def fullEmpty (op : FeOp) (d b : RField) (qn : QField) (o : BitVec 11) (s : State) : Host.Outcome State Fault Refusal :=
  issue s (if op = .stf then policyHints else loadHints) [gD d, gA b] false fun s c =>
    if !s.clear c.sid then .again .fullEmpty .again
    else feEntry op (c.g (gD d)) (c.h.x (gD d)) (c.ea b o 8) (c.q qn) s c

/-- LDF (R194). -/
def execLdf (d b : RField) (q : QField) (o : BitVec 11) (s : State) : Host.Outcome State Fault Refusal := fullEmpty .ldf d b q o s
/-- STF (R194). -/
def execStf (d b : RField) (q : QField) (o : BitVec 11) (s : State) : Host.Outcome State Fault Refusal := fullEmpty .stf d b q o s
/-- LDFP (R194). -/
def execLdfp (d b : RField) (q : QField) (o : BitVec 11) (s : State) : Host.Outcome State Fault Refusal := fullEmpty .ldfp d b q o s

/-- FEMARK (R195): one step at the word's home; a waiter that the new state satisfies is served in its turn. -/
def femark (op : FeOp) (a : RField) (qn : QField) (s : State) : Host.Outcome State Fault Refusal :=
  issue s policyHints [gA a] false fun s c =>
    if !s.clear c.sid then .again .fullEmpty .again
    else if polTc (c.q qn) = 0 && !toScratch (c.g (gA a)) (c.q qn) && (s.strand c.sid).zeroOut then .again .serial .again
    else
      let ea := c.g (gA a)
      match accessBad (c.q qn) ea 8 with
      | some t => .fault t
      | none =>
        let s := s.countOnce c.sid c.seq ea (c.q qn)
        match s.resolve c.sid ea (c.q qn) (Need.fullEmpty false) with
        | .bad t => .faultIn s t
        | .blocked => .stay (s.blockOn c.sid c.seq ea.toNat 1 [ea.toNat]) .writeBlocked .again
        | .at_ l _ =>
          let s := s.endRegion c.sid
          match s.feTrap c.sid op ea l (c.q qn) with
          | some t => .faultIn s t
          | none =>
            .go ((((s.passHome c.sid ea l (c.q qn) true).feStep op l 0 0).1).serveWord l |>.respondDelay c.sid (lineBank l)) c.next

/-- FEMARK.e (R195). -/
def execFemarkE (a : RField) (q : QField) (s : State) : Host.Outcome State Fault Refusal := femark .markE a q s
/-- FEMARK.f (R195). -/
def execFemarkF (a : RField) (q : QField) (s : State) : Host.Outcome State Fault Refusal := femark .markF a q s

/-! ## STN and PREF (R196, R197) -/

/-- STN (R196). -/
def storeNibble (hi : Bool) (d a : RField) (qn : QField) (s : State) : Host.Outcome State Fault Refusal :=
  issue s policyHints [gD d, gA a] false fun s c =>
    let ea := c.g (gA a)
    let q := c.q qn
    match accessBad q ea 1 with
    | some t => .fault t
    | none =>
      let t := s.countWalk c.sid ea q
      match s.resolve c.sid ea q Need.write with
      | .bad f => .faultIn t f
      | .blocked => emit t c (.stn ea none hi ((c.g (gD d)).setWidth 4) q) c.next
      | .at_ l leaf => emit (t.walkLate c.sid ea l (c.vc + 1)) c (.stn ea (some (l, leaf)) hi ((c.g (gD d)).setWidth 4) q) c.next

/-- STN.lo (R196). -/
def execStnLo (d a : RField) (q : QField) (s : State) : Host.Outcome State Fault Refusal := storeNibble false d a q s
/-- STN.hi (R196). -/
def execStnHi (d a : RField) (q : QField) (s : State) : Host.Outcome State Fault Refusal := storeNibble true d a q s

/-- PREF (R197): the line enters the cluster's L1 with the class of the policy; what would fault is dropped, a line that a load may
not read for a lock among it (R190, R216). -/
def execPref (a : RField) (qn : QField) (s : State) : Host.Outcome State Fault Refusal :=
  issue s policyHints [gA a] false fun s c =>
    let ea := c.g (gA a)
    let q := c.q qn
    .go (if !polOk q then s else match s.resolve c.sid ea q Need.read with
      | .at_ l _ => if s.loadLocked l 1 then s else s.pass c.sid ea l q false
      | _ => s) c.next

end Sys2Proof.Machine
end

