-- ==== Sys2Proof/Machine/Atomic.lean ====
section
/-! DEFINITION. Atomics (R351, R352) and FENCE (R353). -/

namespace Sys2Proof.Machine

/-- LAT_ATM (R135). -/
def latAtm : Nat := 160

/-- An atomic (R351, R352): every fault is raised at the landing vc; the effect is deferred by R133, and the address translates with
it, as the program of chapter 20 has it (R404, R419): a TLBINV does not wait for an atomic behind earlier fault points. -/
def atomicEntry (op : AOp) (n mode : Nat) (d a b : RField) (qn : QField) (s : State) (c : Ctx) : Act :=
  let ea := c.g (gA a)
  let q := c.q qn
  match accessBad q ea n with
  | some t => trapLater s c latAtm t
  | none => emitRequest s c latAtm (.atomic op n ea none (c.g (gB b)) (c.g (gD d)) (c.h.x (gD d)) mode q)

/-- An integer atomic; z is 1 for 8 bytes. -/
def atomicOp (op : AOp) (d a b : RField) (qn : QField) (z : Bool) (s : State) : Host.Outcome State Fault Refusal :=
  issue s policyHints [gD d, gA a, gB b] false fun s c => atomicEntry op (if z then 8 else 4) 0 d a b qn s c

/-- AADD (R351). -/
def execAadd (d a b : RField) (q : QField) (z : Bool) (s : State) : Host.Outcome State Fault Refusal :=
  atomicOp .add d a b q z s
/-- AAND (R351). -/
def execAand (d a b : RField) (q : QField) (z : Bool) (s : State) : Host.Outcome State Fault Refusal :=
  atomicOp .and d a b q z s
/-- AOR (R351). -/
def execAor (d a b : RField) (q : QField) (z : Bool) (s : State) : Host.Outcome State Fault Refusal :=
  atomicOp .or d a b q z s
/-- AXOR (R351). -/
def execAxor (d a b : RField) (q : QField) (z : Bool) (s : State) : Host.Outcome State Fault Refusal :=
  atomicOp .xor d a b q z s
/-- AMIN (R351). -/
def execAmin (d a b : RField) (q : QField) (z : Bool) (s : State) : Host.Outcome State Fault Refusal :=
  atomicOp .min d a b q z s
/-- AMAX (R351). -/
def execAmax (d a b : RField) (q : QField) (z : Bool) (s : State) : Host.Outcome State Fault Refusal :=
  atomicOp .max d a b q z s
/-- AMINZ (R351). -/
def execAminz (d a b : RField) (q : QField) (z : Bool) (s : State) : Host.Outcome State Fault Refusal :=
  atomicOp .minz d a b q z s
/-- AMAXZ (R351). -/
def execAmaxz (d a b : RField) (q : QField) (z : Bool) (s : State) : Host.Outcome State Fault Refusal :=
  atomicOp .maxz d a b q z s
/-- AXCHG (R351). -/
def execAxchg (d a b : RField) (q : QField) (z : Bool) (s : State) : Host.Outcome State Fault Refusal :=
  atomicOp .xchg d a b q z s
/-- ACAS (R351). -/
def execAcas (d a b : RField) (q : QField) (z : Bool) (s : State) : Host.Outcome State Fault Refusal :=
  atomicOp .cas d a b q z s

/-- AFADD (R351, R352): rounded in the mode of R119, without SR. -/
def execAfadd (d a b : RField) (q : QField) (z : Bool) (s : State) : Host.Outcome State Fault Refusal :=
  issue s { policyHints with rnd := some false } [gD d, gA a, gB b] false fun s c =>
    match c.mode false with
    | none => trapLater s c latAtm c.badMode
    | some m => atomicEntry .fadd (if z then 8 else 4) (m + (if c.ftz then 8 else 0)) d a b q s c

/-- What a fence of a kind waits for (R340, R353): earlier fault points, and for every kind but acquire the store buffer. -/
def State.fenceReady (s : State) (x : SId) (seq : Nat) (acquire : Bool) : Bool :=
  let st := s.strand x
  st.inflight.all (fun e => seq ≤ e.seq) && st.deferred.all (fun e => seq ≤ e.seq) && (acquire || st.storeBuf.isEmpty)

/-- FENCE (R353): a region break; the strand issues nothing else until it completes. -/
def execFence (k : Order) (_ : Scope) (s : State) : Host.Outcome State Fault Refusal :=
  issue s { scope := true } [] false fun s c =>
    if s.clear c.sid then
      let t := s.endRegion c.sid
      if (t.strand c.sid).storeBuf.isEmpty || k = .acquire then .go t c.next else .wait t .serial (.fence false)
    else .wait s .serial (.fence (k = .acquire))

end Sys2Proof.Machine
end

