-- ==== Sys2Proof/Machine/Branch.lean ====
section
/-! DEFINITION. Control transfer (R153 to R157) and hints (R101 to R104). A taken branch sends the strand's next group to the
target. -/

namespace Sys2Proof.Machine

/-- A branch of B format (R154). -/
def branchOn (taken : Ctx → Bool) (o : BitVec 22) (s : State) : Host.Outcome State Fault Refusal :=
  issue s { imm := 2 } [] false fun s c => .go s (if taken c then c.target (c.off22 o) else c.next)

/-- BRP (R154). -/
def execBrp (p : PField) (o : BitVec 22) (s : State) : Host.Outcome State Fault Refusal := branchOn (fun c => predBit (c.p p)) o s
/-- BRP.n (R154). -/
def execBrpN (p : PField) (o : BitVec 22) (s : State) : Host.Outcome State Fault Refusal :=
  branchOn (fun c => !predBit (c.p p)) o s
/-- BR (R154): BRP on p0, which reads as all ones. -/
def execBr (o : BitVec 22) (s : State) : Host.Outcome State Fault Refusal := branchOn (fun c => predBit (c.p 0)) o s

/-- CALL (R155). -/
def execCall (o : BitVec 22) (s : State) : Host.Outcome State Fault Refusal :=
  issue s { imm := 2 } [] false fun s c => .go (s.results c 1 [.g 31 c.next]) (c.target (c.off22 o))

/-- A branch to a register's value; a target that is no multiple of 4 raises MISALIGN (R156). -/
def branchTo (t : Word) (s : State) : Act := if t.toNat % 4 ≠ 0 then .fault (trapOf .misalign t) else .go s t

/-- BRR (R156). -/
def execBrr (a : RField) (s : State) : Host.Outcome State Fault Refusal :=
  issue s {} [gA a] false fun s c => branchTo (c.g (gA a)) s
/-- CALLR (R156): the target is read before the link is written. -/
def execCallr (a : RField) (s : State) : Host.Outcome State Fault Refusal :=
  issue s {} [gA a] false fun s c => branchTo (c.g (gA a)) (s.results c 1 [.g 31 c.next])
/-- RET (R156). -/
def execRet (s : State) : Host.Outcome State Fault Refusal := issue s {} [] false fun s c => branchTo (c.regs.readG 31) s

/-- LOOP (R157): the decision uses n at issue. -/
def execLoop (d : RField) (i : BitVec 14) (s : State) : Host.Outcome State Fault Refusal :=
  issue s { imm := 3 } [gD d] false fun s c =>
    let n := c.g (gD d) - 1
    .go (s.results c 1 [.g (c.h.x (gD d)) n]) (if n ≠ 0 then c.target (c.imm14 i) else c.next)

/-! ## Hints -/

/-- The word of a hint of a kind (R98, R104). -/
def hintWord (kind payload : Nat) : IWord := BitVec.ofNat 32 (0x3F * 2 ^ 26 + kind % 16 * 2 ^ 22 + payload % 2 ^ 22)

/-- HIMM (R105). -/
def execHimm (i : BitVec 22) (s : State) : Host.Outcome State Fault Refusal := issueHint s (hintWord 0 i.toNat)
/-- HDLY (R104). -/
def execHdly (n : BitVec 16) (s : State) : Host.Outcome State Fault Refusal := issueHint s (hintWord 1 n.toNat)
/-- HXREG (R104). -/
def execHxreg (d a b : Bool) (s : State) : Host.Outcome State Fault Refusal :=
  issueHint s (hintWord 2 (d.toNat * 4 + a.toNat * 2 + b.toNat))
/-- HSTART (R104, R137). -/
def execHstart (v : BitVec 22) (s : State) : Host.Outcome State Fault Refusal := issueHint s (hintWord 3 v.toNat)
/-- HSEQ (R104, R139). -/
def execHseq (t : BitVec 16) (s : State) : Host.Outcome State Fault Refusal := issueHint s (hintWord 4 t.toNat)
/-- HPOL (R104). -/
def execHpol (p : BitVec 13) (s : State) : Host.Outcome State Fault Refusal := issueHint s (hintWord 5 p.toNat)
/-- HSCOPE (R104). -/
def execHscope (k : Scope) (s : State) : Host.Outcome State Fault Refusal := issueHint s (hintWord 6 k.code)
/-- HRND (R104). -/
def execHrnd (m : BitVec 3) (s : State) : Host.Outcome State Fault Refusal := issueHint s (hintWord 7 m.toNat)

end Sys2Proof.Machine
end

