-- ==== Sys2Proof/Machine/CacheOps.lean ====
section
/-! DEFINITION. The range operations FLUSH, INVAL and FILL (R198 to R201). -/

namespace Sys2Proof.Machine

/-- A range operation: the policy image is checked at issue; a range of length 0 is complete at once (R198). -/
def rangeEntry (op : RangeOp) (d a : RField) (qn : QField) (s : State) (c : Ctx) : Act :=
  let q := c.q qn
  if !polOk q then .fault (trapOf .operand (q.setWidth 64))
  else
    if c.g (gD d) = 0 then .go ((s.breakAt c.sid c.seq).results c 0 [.csr 0x00C 0]) c.next
    else .wait (s.post 0 (.rangeStep c.sid)) .serial (.rangeMacro op (c.g (gA a)) (c.g (gD d)) q)

/-- FLUSH (R198, R200). -/
def execFlush (d a : RField) (q : QField) (s : State) : Host.Outcome State Fault Refusal :=
  issue s policyHints [gD d, gA a] false fun s c => rangeEntry .flush d a q s c
/-- INVAL (R198, R200). -/
def execInval (d a : RField) (q : QField) (s : State) : Host.Outcome State Fault Refusal :=
  issue s policyHints [gD d, gA a] false fun s c => rangeEntry .inval d a q s c
/-- FILL (R198, R200). -/
def execFill (d a : RField) (q : QField) (s : State) : Host.Outcome State Fault Refusal :=
  issue s policyHints [gD d, gA a] false fun s c => rangeEntry .fill d a q s c

/-! ## One line -/

/-- The caches of a scope from which INVAL removes tracked copies (R199). -/
def invalReaches (scope cluster : Nat) (p : Place) : Bool :=
  match scope, p with
  | 3, .l1 k => clusterDie k = clusterDie cluster
  | 3, .gateway d _ => d = clusterDie cluster
  | 4, .llc => false
  | 4, _ => true
  | 5, _ => true
  | _, .l1 k => k = cluster
  | _, _ => false

/-- FLUSH's write-back (R199, R200): the issuing cluster's untracked copy, and the tracked copies down to the level of the scope. -/
def State.writeBackLine (s : State) (cluster line scope : Nat) : State :=
  let s := match s.untracked cluster line with | some e => s.writeBack e | none => s
  s.modMem fun m => m.flushLine line fun p => placeLevel p < (if scope < 4 then 2 else if scope = 4 then 3 else 4)

/-- INVAL (R199, R200): an untracked copy of the issuing cluster is dropped, dirty or not; of tracked copies, FLUSH's write-back
comes first. -/
def State.invalLine (s : State) (cluster line scope : Nat) : State :=
  let s := match s.untracked cluster line with
    | some _ => s.modMem fun m => m.uncache (·.is (.l1 cluster) line)
    | none => s
  (s.writeBackLine cluster line scope).modMem fun m => m.recallLine line (invalReaches scope cluster)

/-- FILL's step (R199, R200): the line is read and takes its place, or, where it stands there, its class. -/
def State.fillLine (s : State) (x : SId) (va : Word) (pa : Nat) (q : Policy) : State :=
  let line := pa / 128
  let c := evictClass q va.toNat
  if !s.cacheable x va then s
  else if polScope q < 3 then s.pass x va pa q false
  else
    let die := clusterDie (clusterOf x.core)
    let place : Place := if polScope q = 3 then homePlace die pa else if isHbm pa then .llc else .l2 (homeDie pa)
    if (s.mem.cached place line).isSome then s.install place line c
    else if polScope q = 3 then s.nearAccess die line c
    else if isHbm pa then (s.modMem fun m => m.flushLine line fun p => placeLevel p < 3).fillPath line c [.llc]
    else s.homeAccess line c false

/-- What a range operation needs of a line's translation (R198). INVAL needs write permission and is no write under R403 or R408. -/
def RangeOp.need (op : RangeOp) : Need := match op with | .inval => { kind := .write, writes := false } | _ => Need.read

/-- The walker's step at one line (R198 to R200). -/
def State.rangeLine (s : State) (x : SId) (op : RangeOp) (base line : Word) (q : Policy) : State ⊕ TrapInfo :=
  let at_ := if line.toNat < base.toNat then base else line
  if toScratch line q then .inl s
  else match s.resolve x line q op.need with
    | .bad t => .inr { t with eval := at_ }
    | .blocked => .inl s
    | .at_ l _ =>
      let locked := match op with | .inval => s.storeLocked l 128 | _ => s.writeLocked l 128
      if locked then .inr (trapOf .rangelock at_)
      else
        let cl := clusterOf x.core
        .inl (match op with
          | .flush => s.writeBackLine cl (l / 128) (polScope q)
          | .inval => s.invalLine cl (l / 128) (polScope q)
          | .fill => s.fillLine x line l q)

/-- Lines of a range. -/
def rangeLines (base len : Word) : Nat := (base.toNat + len.toNat - 1) / 128 - base.toNat / 128 + 1

end Sys2Proof.Machine
end

