-- ==== Sys2Proof/Machine/Woad.lean ====
section
/-! DEFINITION. The Woad instructions (R330 to R334, R337). -/

namespace Sys2Proof.Machine

/-- A write to the strand's WMEM is still deferred (R133, R389): membership is not yet what the strand's Woad instructions are to
find. -/
def Strand.joining (st : Strand) : Bool := st.deferred.any fun e => match e.eff with | .csr _ n _ => n = 0x019 | _ => false

/-- Arrive of R337 and, where the form waits, its wait: at issue where that can be, else parked at the instruction. -/
def arriveEntry (ch : Nat) (k : WKind) (v : BitVec 32) (waits : Bool) (d : Option Nat) (s : State) (c : Ctx) : Act :=
  if (s.strand c.sid).joining then .again .serial .again
  else match s.memberOf c.sid ch with
  | none => .fault (woadTrap ch 1)
  | some phys =>
    let a : Arrival := ⟨c.sid, k, v⟩
    if s.woadPending c.sid phys then .wait s .woad (.arrival phys ch a waits d)
    else if !s.quietFor c.sid c.seq then .wait s .serial (.arrival phys ch a waits d)
    else
      let t := (s.endRegion c.sid).arrive phys a
      if waits then .wait t .woad (.woad phys ch true d) else .go t c.next

/-- WDONE is set: the form performs only its wait and its result (R370). -/
def resumeEntry (ch : Nat) (d : Option Nat) (s : State) (c : Ctx) : Act :=
  let u := (s.breakAt c.sid c.seq).modStrand c.sid fun st => st.modCsrNow fun r => { r with status := { r.status with wdone := false } }
  match u.physChannel c.sid ch with
  | some phys =>
    if u.woadPending c.sid phys then .wait u .woad (.woad phys ch true d)
    else match Tab.find? (u.strand c.sid).woadGot phys with
      | some r =>
        if r.2 && d.isSome then .fault (woadTrap ch 2)
        else .go ((u.modStrand c.sid fun st => { st with woadGot := [] }).results c 0 (woadWrites d r.1)) c.next
      | none => .go u c.next
  | none => .go u c.next

/-- A form that arrives and waits: WBAR, WRECV and WRED. -/
def arriveWait (ch : BitVec 5) (k : WKind) (v : BitVec 32) (d : Option Nat) (s : State) (c : Ctx) : Act :=
  if (s.strand c.sid).regs.csr.status.wdone then resumeEntry ch.toNat d s c else arriveEntry ch.toNat k v true d s c

/-- WARV (R337). -/
def execWarv (ch : BitVec 5) (s : State) : Host.Outcome State Fault Refusal :=
  issue s {} [] false fun s c => arriveEntry ch.toNat .plain 0 false none s c

/-- WWAIT (R337): an effect, which parks the strand where its arrival has not been released (R133, R432). -/
def execWwait (ch : BitVec 5) (s : State) : Host.Outcome State Fault Refusal :=
  issue s {} [] false fun s c => emit s c (.wwait ch.toNat) c.next

/-- WBAR (R337). -/
def execWbar (ch : BitVec 5) (s : State) : Host.Outcome State Fault Refusal :=
  issue s {} [] false fun s c => arriveWait ch .plain 0 none s c

/-- WSEND (R337). -/
def execWsend (a : RField) (ch : BitVec 5) (s : State) : Host.Outcome State Fault Refusal :=
  issue s {} [gA a] false fun s c => arriveEntry ch.toNat .send ((c.g (gA a)).setWidth 32) false none s c

/-- WRECV (R337). -/
def execWrecv (d : RField) (ch : BitVec 5) (s : State) : Host.Outcome State Fault Refusal :=
  issue s {} [gD d] false fun s c => arriveWait ch .recv 0 (some (c.h.x (gD d))) s c

/-- WRED (R337). -/
def woadReduce (k : WKind) (d a : RField) (ch : BitVec 5) (s : State) : Host.Outcome State Fault Refusal :=
  issue s {} [gD d, gA a] false fun s c => arriveWait ch k ((c.g (gA a)).setWidth 32) (some (c.h.x (gD d))) s c

/-- WRED.add (R337). -/
def execWredAdd (d a : RField) (ch : BitVec 5) (s : State) : Host.Outcome State Fault Refusal := woadReduce .add d a ch s
/-- WRED.min (R337). -/
def execWredMin (d a : RField) (ch : BitVec 5) (s : State) : Host.Outcome State Fault Refusal := woadReduce .min d a ch s
/-- WRED.max (R337). -/
def execWredMax (d a : RField) (ch : BitVec 5) (s : State) : Host.Outcome State Fault Refusal := woadReduce .max d a ch s
/-- WRED.or (R337). -/
def execWredOr (d a : RField) (ch : BitVec 5) (s : State) : Host.Outcome State Fault Refusal := woadReduce .or d a ch s

end Sys2Proof.Machine
end

