-- ==== Sys2Proof/Machine/Stream.lean ====
section
/-! DEFINITION. The stream instructions (R261 to R263) and the message instructions (R225, R226). -/

namespace Sys2Proof.Machine

/-- SOPEN (R263). -/
def execSopen (a : RField) (s : State) : Host.Outcome State Fault Refusal :=
  issue s {} [gA a] false fun s c =>
    let w := c.g (gA a)
    if !targetOk w then .fault (trapOf .operand w)
    else if !s.inPartition c.sid w.toNat then .fault (trapOf .perm w)
    else emit s c (.sopen w) c.next

/-- SSEND (R263). -/
def execSsend (a : RField) (s : State) : Host.Outcome State Fault Refusal :=
  issue s {} [vA a] false fun s c => emit s c (.ssend (c.v a)) c.next

/-- SRECV (R263, R433). -/
def execSrecv (d : RField) (s : State) : Host.Outcome State Fault Refusal :=
  issue s {} [vD d] false fun s c =>
    if !s.clear c.sid then .again .stream .again
    else match s.popStream c.sid with
      | some (v, t) => .go (t.results c 2 [.v d.toNat v]) c.next
      | none => .wait s .stream (.stream d.toNat)

/-- What SPOLL writes (R263). -/
def spollValue (q : List StreamEntry) : PWord :=
  match q with
  | [] => 0
  | some _ :: _ => 0xFFFF
  | none :: _ => 0xFF00

/-- SPOLL (R263). -/
def execSpoll (d : PField) (s : State) : Host.Outcome State Fault Refusal :=
  issue s {} [] false fun s c => .go (s.results c 1 [.p d.toNat (spollValue (s.core c.sid.core).streamIn)]) c.next

/-- SCLOSE (R263). -/
def execSclose (s : State) : Host.Outcome State Fault Refusal := issue s {} [] false fun s c => emit s c .sclose c.next

/-! ## Messages -/

/-- MSGSEND (R225). -/
def execMsgsend (a b : RField) (s : State) : Host.Outcome State Fault Refusal :=
  issue s {} [gA a, gB b] false fun s c =>
    let w := c.g (gA a)
    if !targetOk w then .fault (trapOf .operand w)
    else if !s.inPartition c.sid w.toNat then .fault (trapOf .perm w)
    else emit s c (.msgsend w (c.g (gB b))) c.next

/-- MSGRECV (R226, R433). -/
def execMsgrecv (d : EField) (s : State) : Host.Outcome State Fault Refusal :=
  issue s {} [gPair d] false fun s c =>
    if !s.clear c.sid then .again .message .again
    else match s.popMsg c.sid.core with
      | some (m, t) => .go ((t.endRegion c.sid).results c 4 (msgWrites (c.h.x (gPair d)) m)) c.next
      | none => .wait s .message (.message (some (c.h.x (gPair d))))

/-- WAITMSG (R226, R433). -/
def execWaitmsg (s : State) : Host.Outcome State Fault Refusal :=
  issue s {} [] false fun s c =>
    if !s.clear c.sid then .again .message .again
    else if (s.core c.sid.core).inbox.isEmpty then .wait s .message (.message none) else .go (s.endRegion c.sid) c.next

end Sys2Proof.Machine
end

