-- ==== Sys2Proof/Machine/Copy.lean ====
section
/-! DEFINITION. The copy instructions and barrier objects as instructions (R219 to R224), with the timing checks that engine
commands make at issue (R137, R140). -/

namespace Sys2Proof.Machine

/-- Checks 1 and 2 of R140 at issue, against ISSUE - VSHIFT (R375). -/
def timingBad (s : State) (c : Ctx) : Option TrapInfo :=
  c.h.start.bind fun n =>
    let st := s.strand c.sid
    if n < c.vc - st.regs.csr.vshift.toNat then some (timingTrap 0 0)
    else if st.inflight.any (fun e => n < e.faultVc) then some (timingTrap 3 0)
    else none

/-- The start vc of a command (R137, R375). -/
def startVc (c : Ctx) : Option Nat := c.h.start.map fun n => Nat.max n c.vc

/-- The strand remembers the start vcs that TEND checks (R143). -/
def State.noteStart (s : State) (c : Ctx) : State :=
  match startVc c with
  | some n => s.modStrand c.sid fun st => { st with starts := st.starts ++ [(n, c.gpc, c.seq)] }
  | none => s

/-- What the copy forms check of the record's address and contents, and of the object (R220 checks 1 to 3). -/
def copyChecks (s : State) (c : Ctx) (ra obj : Word) : State × (Rec768 ⊕ TrapInfo) :=
  match s.readRecord c.sid ra 32 96 with
  | (s, .inr t) => (s, .inr t)
  | (s, .inl n) =>
    let r : Rec768 := BitVec.ofNat 768 n
    match layoutBad r with
    | some b => (s, .inr (trapOf .layoutrsv (BitVec.ofNat 64 b)))
    | none => match objectBad obj with
      | some t => (s, .inr t)
      | none => (s, .inl r)

/-- The follow-on's record (R221). -/
def followCmd (s : State) (c : Ctx) (w : Nat) (r : Rec768) (gd : Word) : ArrayCmd ⊕ TrapInfo :=
  let dword (i : Nat) : Word := BitVec.ofNat 64 (w / 2 ^ (64 * i))
  let bank := (dword 3).toNat % 2
  let k := s.core c.sid.core
  if 4 ≤ (dword 3).toNat || layMeshd r ≠ 0 || !k.ownsBank c.sid.strand bank then .inr (trapOf .operand gd)
  else match mmaBad k c.sid.strand bank (dword 2) (dword 0) (dword 1) with
    | some n => .inr (operandTrap bank n)
    | none => .inl
      { zero := false, clear := bitOf (dword 3) 1, bank := bank, prec := k.prec bank, dsc := dword 2, pa := dword 0,
        pb := dword 1, step := 0, first := 0, owner := c.sid, gpc := c.gpc, hstart := none, hseq := c.h.seq, skip := [],
        locks := [], id := 0, waitCopy := none, handAt := 0, start := none, prev := 0, ends := 0, base := none }

/-- The forms' own checks (R220 check 4, R221, R222), with what they read. -/
def formChecks (k : CopyKind) (s : State) (c : Ctx) (r : Rec768) (gd : Word) : State × (Option ArrayCmd ⊕ TrapInfo) :=
  match k with
  | .cpyx =>
    if layMeshd r ≠ 0 then (s, .inr (trapOf .operand gd))
    else match s.readRecord c.sid gd 32 32 with
      | (s, .inr t) => (s, .inr t)
      | (s, .inl w) => match followCmd s c w r gd with
        | .inl a => (s, .inl (some a))
        | .inr t => (s, .inr t)
  | .gath | .scat =>
    let n := layWin r (layRank r - 1)
    if layMeshd r ≠ 0 || (layQ4 r && layRank r = 1) || !inWindow gd ||
        Config.scratchBase + 0x40000 < gd.toNat + 4 * n then (s, .inr (trapOf .operand gd))
    else if gd.toNat % 4 ≠ 0 then (s, .inr (trapOf .misalign gd))
    else (s, .inl none)
  | _ => (s, .inl none)

/-- A copy form (R220): its checks at issue, then registration as its effect. A macro that has begun goes on from MPX. -/
def copyEntry (k : CopyKind) (a b : RField) (d : Option RField) (s : State) (c : Ctx) : Act :=
  let obj := c.g (gB b)
  let gd := match d with | some d => c.g (gD d) | none => 0
  withRecord s c <| match copyChecks s c (c.g (gA a)) obj with
  | (t, .inr f) => .faultIn t f
  | (t, .inl r) => match formChecks k t c r gd with
    | (t, .inr f) => .faultIn t f
    | (t, .inl follow) => match timingBad t c with
      | some f => .faultIn t f
      | none =>
        let cmd : CopyCmd :=
          { kind := k, record := r, obj := obj, third := gd, q := 0, hstart := startVc c, hseq := c.h.seq, follow := follow }
        emit (t.noteStart c) c (.copy cmd) c.next

/-- CPY (R220). -/
def execCpy (a b : RField) (s : State) : Host.Outcome State Fault Refusal :=
  issue s { start := true } [gA a, gB b] false fun s c => copyEntry .cpy a b none s c
/-- CPYM (R212, R220). -/
def execCpym (a b : RField) (s : State) : Host.Outcome State Fault Refusal :=
  issue s { start := true } [gA a, gB b] false fun s c => copyEntry .cpym a b none s c
/-- CPYX (R221). -/
def execCpyx (d a b : RField) (s : State) : Host.Outcome State Fault Refusal :=
  issue s { start := true, seq := true } [gD d, gA a, gB b] false fun s c => copyEntry .cpyx a b (some d) s c
/-- GATH (R222). -/
def execGath (d a b : RField) (s : State) : Host.Outcome State Fault Refusal :=
  issue s { start := true } [gD d, gA a, gB b] false fun s c => copyEntry .gath a b (some d) s c
/-- SCAT (R222). -/
def execScat (d a b : RField) (s : State) : Host.Outcome State Fault Refusal :=
  issue s { start := true } [gD d, gA a, gB b] false fun s c => copyEntry .scat a b (some d) s c

/-! ## Barrier objects -/

/-- BARINIT (R223). -/
def execBarinit (a b : RField) (s : State) : Host.Outcome State Fault Refusal :=
  issue s {} [gA a, gB b] false fun s c =>
    match objectBad (c.g (gA a)) with
    | some t => .fault t
    | none =>
      if barinitBad (c.g (gB b)) then .fault (trapOf .operand (c.g (gB b)))
      else emit s c (.barinit (c.g (gA a)) (c.g (gB b))) c.next

/-- BARADD (R223). -/
def execBaradd (a b : RField) (s : State) : Host.Outcome State Fault Refusal :=
  issue s {} [gA a, gB b] false fun s c =>
    match objectBad (c.g (gA a)) with
    | some t => .fault t
    | none => emit s c (.baradd (c.g (gA a)) (c.g (gB b))) c.next

/-- WAITPH (R224): on the object as it stands at issue. -/
def execWaitph (a : RField) (n : Bool) (s : State) : Host.Outcome State Fault Refusal :=
  issue s {} [gA a] false fun s c =>
    let o := c.g (gA a)
    match objectBad o with
    | some t => .fault t
    | none =>
      let s := s.breakAt c.sid c.seq
      let l := objectLoc c.sid.core o
      if objPhase s l = n.toNat then .go s c.next else .wait s .barrierPhase (.phase l n)

end Sys2Proof.Machine
end

