-- ==== Sys2Proof/Machine/Csr.lean ====
section
/-! DEFINITION. The control-register instructions (R387 to R389). -/

namespace Sys2Proof.Machine

/-- CSRR (R389): the register as it stands at issue, landing at ISSUE + LAT_ALU. -/
def execCsrr (d : RField) (n : BitVec 12) (s : State) : Host.Outcome State Fault Refusal :=
  issue s {} [gD d] (csrGuard n.toNat = some false) fun s c =>
    .go (s.results c 1 [.g (c.h.x (gD d)) (s.csrRead c.sid c.vc n.toNat)]) c.next

/-- CSRW, CSRS and CSRC (R389): WMEM and registers of job scope are written as effects, on the value that they have then; the
others land. A task's write to a read-only register has no effect (R387). -/
def csrWrite (f : CsrForm) (a : RField) (n : BitVec 12) (s : State) : Host.Outcome State Fault Refusal :=
  issue s {} [gA a] (csrGuard n.toNat).isSome fun s c =>
    let k := n.toNat
    let x := c.g (gA a)
    if k = 0x019 || csrIsJob k then emit s c (.csr f k x) c.next
    else if csrReadOnly k && !c.regs.csr.status.priv then .go s c.next
    else .go (s.results c 1 [.csr k (f.apply (s.csrRead c.sid c.vc k) x)]) c.next

/-- CSRW (R389). -/
def execCsrw (a : RField) (n : BitVec 12) (s : State) : Host.Outcome State Fault Refusal := csrWrite .write a n s
/-- CSRS (R389). -/
def execCsrs (a : RField) (n : BitVec 12) (s : State) : Host.Outcome State Fault Refusal := csrWrite .set a n s
/-- CSRC (R389). -/
def execCsrc (a : RField) (n : BitVec 12) (s : State) : Host.Outcome State Fault Refusal := csrWrite .clear a n s

end Sys2Proof.Machine
end

