-- ==== Sys2Proof/Decode.lean ====
section
/-! DEFINITION. The decoder of R107 and the encoding tables of R98 to R117, total on any word; the encoder from the same
tables. A word that is no instruction decodes to none: the step then raises ILLEGAL (R107). -/

namespace Sys2Proof

/-- Major opcode 0x00 (R145, R146, R147, R148, R149, R150, R159; map R108 to R117). -/
def decodeMajor00 (d a b fn : Nat) : Option Instr :=
  match fn / 8 with
  | 8 => some (.csel (BitVec.ofNat 6 (d)) (BitVec.ofNat 6 (a)) (BitVec.ofNat 6 (b)) (BitVec.ofNat 3 (fn % 8)))
  | _ =>
    match fn with
    | 0 => if d = 0 ∧ a = 0 ∧ b = 0 then some .nop else none
    | 1 => some (.add (BitVec.ofNat 6 (d)) (BitVec.ofNat 6 (a)) (BitVec.ofNat 6 (b)))
    | 2 => some (.sub (BitVec.ofNat 6 (d)) (BitVec.ofNat 6 (a)) (BitVec.ofNat 6 (b)))
    | 3 => some (.mul (BitVec.ofNat 6 (d)) (BitVec.ofNat 6 (a)) (BitVec.ofNat 6 (b)))
    | 4 => some (.mulhs (BitVec.ofNat 6 (d)) (BitVec.ofNat 6 (a)) (BitVec.ofNat 6 (b)))
    | 5 => some (.mulhz (BitVec.ofNat 6 (d)) (BitVec.ofNat 6 (a)) (BitVec.ofNat 6 (b)))
    | 6 => some (.div (BitVec.ofNat 6 (d)) (BitVec.ofNat 6 (a)) (BitVec.ofNat 6 (b)))
    | 7 => some (.divz (BitVec.ofNat 6 (d)) (BitVec.ofNat 6 (a)) (BitVec.ofNat 6 (b)))
    | 8 => some (.rem (BitVec.ofNat 6 (d)) (BitVec.ofNat 6 (a)) (BitVec.ofNat 6 (b)))
    | 9 => some (.remz (BitVec.ofNat 6 (d)) (BitVec.ofNat 6 (a)) (BitVec.ofNat 6 (b)))
    | 10 => some (.and (BitVec.ofNat 6 (d)) (BitVec.ofNat 6 (a)) (BitVec.ofNat 6 (b)))
    | 11 => some (.or (BitVec.ofNat 6 (d)) (BitVec.ofNat 6 (a)) (BitVec.ofNat 6 (b)))
    | 12 => some (.xor (BitVec.ofNat 6 (d)) (BitVec.ofNat 6 (a)) (BitVec.ofNat 6 (b)))
    | 13 => some (.andn (BitVec.ofNat 6 (d)) (BitVec.ofNat 6 (a)) (BitVec.ofNat 6 (b)))
    | 14 => some (.orn (BitVec.ofNat 6 (d)) (BitVec.ofNat 6 (a)) (BitVec.ofNat 6 (b)))
    | 15 => some (.shl (BitVec.ofNat 6 (d)) (BitVec.ofNat 6 (a)) (BitVec.ofNat 6 (b)))
    | 16 => some (.shr (BitVec.ofNat 6 (d)) (BitVec.ofNat 6 (a)) (BitVec.ofNat 6 (b)))
    | 17 => some (.sar (BitVec.ofNat 6 (d)) (BitVec.ofNat 6 (a)) (BitVec.ofNat 6 (b)))
    | 18 => some (.rol (BitVec.ofNat 6 (d)) (BitVec.ofNat 6 (a)) (BitVec.ofNat 6 (b)))
    | 19 => some (.ror (BitVec.ofNat 6 (d)) (BitVec.ofNat 6 (a)) (BitVec.ofNat 6 (b)))
    | 20 => some (.min (BitVec.ofNat 6 (d)) (BitVec.ofNat 6 (a)) (BitVec.ofNat 6 (b)))
    | 21 => some (.max (BitVec.ofNat 6 (d)) (BitVec.ofNat 6 (a)) (BitVec.ofNat 6 (b)))
    | 22 => some (.minz (BitVec.ofNat 6 (d)) (BitVec.ofNat 6 (a)) (BitVec.ofNat 6 (b)))
    | 23 => some (.maxz (BitVec.ofNat 6 (d)) (BitVec.ofNat 6 (a)) (BitVec.ofNat 6 (b)))
    | 24 => some (.slt (BitVec.ofNat 6 (d)) (BitVec.ofNat 6 (a)) (BitVec.ofNat 6 (b)))
    | 25 => some (.sltz (BitVec.ofNat 6 (d)) (BitVec.ofNat 6 (a)) (BitVec.ofNat 6 (b)))
    | 26 => some (.seq (BitVec.ofNat 6 (d)) (BitVec.ofNat 6 (a)) (BitVec.ofNat 6 (b)))
    | 32 => if b = 0 then some (.clz (BitVec.ofNat 6 (d)) (BitVec.ofNat 6 (a))) else none
    | 33 => if b = 0 then some (.ctz (BitVec.ofNat 6 (d)) (BitVec.ofNat 6 (a))) else none
    | 34 => if b = 0 then some (.popc (BitVec.ofNat 6 (d)) (BitVec.ofNat 6 (a))) else none
    | 35 => if b = 0 then some (.bswp (BitVec.ofNat 6 (d)) (BitVec.ofNat 6 (a))) else none
    | 36 => if b = 0 then some (.sxtS8 (BitVec.ofNat 6 (d)) (BitVec.ofNat 6 (a))) else none
    | 37 => if b = 0 then some (.sxtS16 (BitVec.ofNat 6 (d)) (BitVec.ofNat 6 (a))) else none
    | 38 => if b = 0 then some (.sxtS32 (BitVec.ofNat 6 (d)) (BitVec.ofNat 6 (a))) else none
    | 40 => if b = 0 then some (.zxtB8 (BitVec.ofNat 6 (d)) (BitVec.ofNat 6 (a))) else none
    | 41 => if b = 0 then some (.zxtB16 (BitVec.ofNat 6 (d)) (BitVec.ofNat 6 (a))) else none
    | 42 => if b = 0 then some (.zxtB32 (BitVec.ofNat 6 (d)) (BitVec.ofNat 6 (a))) else none
    | 80 => if d / 8 = 0 ∧ a / 8 = 0 ∧ b / 8 = 0 then some (.pand (BitVec.ofNat 3 (d % 8)) (BitVec.ofNat 3 (a % 8)) (BitVec.ofNat 3 (b % 8))) else none
    | 81 => if d / 8 = 0 ∧ a / 8 = 0 ∧ b / 8 = 0 then some (.por (BitVec.ofNat 3 (d % 8)) (BitVec.ofNat 3 (a % 8)) (BitVec.ofNat 3 (b % 8))) else none
    | 82 => if d / 8 = 0 ∧ a / 8 = 0 ∧ b / 8 = 0 then some (.pxor (BitVec.ofNat 3 (d % 8)) (BitVec.ofNat 3 (a % 8)) (BitVec.ofNat 3 (b % 8))) else none
    | 83 => if d / 8 = 0 ∧ a / 8 = 0 ∧ b = 0 then some (.pnot (BitVec.ofNat 3 (d % 8)) (BitVec.ofNat 3 (a % 8))) else none
    | 84 => if a / 8 = 0 ∧ b = 0 then some (.movpGP (BitVec.ofNat 6 (d)) (BitVec.ofNat 3 (a % 8))) else none
    | 85 => if d / 8 = 0 ∧ b = 0 then some (.movpPG (BitVec.ofNat 3 (d % 8)) (BitVec.ofNat 6 (a))) else none
    | 88 => if d / 8 = 0 then some (.pcmpEq (BitVec.ofNat 3 (d % 8)) (BitVec.ofNat 6 (a)) (BitVec.ofNat 6 (b))) else none
    | 89 => if d / 8 = 0 then some (.pcmpNe (BitVec.ofNat 3 (d % 8)) (BitVec.ofNat 6 (a)) (BitVec.ofNat 6 (b))) else none
    | 90 => if d / 8 = 0 then some (.pcmpLt (BitVec.ofNat 3 (d % 8)) (BitVec.ofNat 6 (a)) (BitVec.ofNat 6 (b))) else none
    | 91 => if d / 8 = 0 then some (.pcmpGe (BitVec.ofNat 3 (d % 8)) (BitVec.ofNat 6 (a)) (BitVec.ofNat 6 (b))) else none
    | 92 => if d / 8 = 0 then some (.pcmpLtu (BitVec.ofNat 3 (d % 8)) (BitVec.ofNat 6 (a)) (BitVec.ofNat 6 (b))) else none
    | 93 => if d / 8 = 0 then some (.pcmpGeu (BitVec.ofNat 3 (d % 8)) (BitVec.ofNat 6 (a)) (BitVec.ofNat 6 (b))) else none
    | 94 => if d / 8 = 0 then some (.pcmpTst (BitVec.ofNat 3 (d % 8)) (BitVec.ofNat 6 (a)) (BitVec.ofNat 6 (b))) else none
    | _ => none

/-- Major opcode 0x01 (R151; map R108 to R117). -/
def decodeMajor01 (d a b fn : Nat) : Option Instr :=
  some (.addi (BitVec.ofNat 6 (d)) (BitVec.ofNat 6 (a)) (BitVec.ofNat 14 ((b) * 256 + fn)))

/-- Major opcode 0x02 (R151; map R108 to R117). -/
def decodeMajor02 (d a b fn : Nat) : Option Instr :=
  if a = 0 then some (.movi (BitVec.ofNat 6 (d)) (BitVec.ofNat 14 ((b) * 256 + fn))) else none

/-- Major opcode 0x03 (R151; map R108 to R117). -/
def decodeMajor03 (d a b fn : Nat) : Option Instr :=
  if a = 0 then some (.lea (BitVec.ofNat 6 (d)) (BitVec.ofNat 14 ((b) * 256 + fn))) else none

/-- Major opcode 0x04 (R152; map R108 to R117). -/
def decodeMajor04 (d a b fn : Nat) : Option Instr :=
  match b / 16 with
  | 0 => some (.bfx (BitVec.ofNat 6 (d)) (BitVec.ofNat 6 (a)) (BitVec.ofNat 6 ((b % 16) * 4 + fn / 64)) (BitVec.ofNat 6 (fn % 64)))
  | 1 => some (.bfxS (BitVec.ofNat 6 (d)) (BitVec.ofNat 6 (a)) (BitVec.ofNat 6 ((b % 16) * 4 + fn / 64)) (BitVec.ofNat 6 (fn % 64)))
  | _ => none

/-- Major opcode 0x05 (R152; map R108 to R117). -/
def decodeMajor05 (d a b fn : Nat) : Option Instr :=
  if b / 16 = 0 then some (.bfi (BitVec.ofNat 6 (d)) (BitVec.ofNat 6 (a)) (BitVec.ofNat 6 ((b % 16) * 4 + fn / 64)) (BitVec.ofNat 6 (fn % 64))) else none

/-- Major opcode 0x06 (R157; map R108 to R117). -/
def decodeMajor06 (d a b fn : Nat) : Option Instr :=
  if a = 0 then some (.loop (BitVec.ofNat 6 (d)) (BitVec.ofNat 14 ((b) * 256 + fn))) else none

/-- Major opcode 0x07 (R389; map R108 to R117). -/
def decodeMajor07 (d a b fn : Nat) : Option Instr :=
  match b / 16 with
  | 0 => if a = 0 then some (.csrr (BitVec.ofNat 6 (d)) (BitVec.ofNat 12 ((b % 16) * 256 + fn))) else none
  | 1 => if d = 0 then some (.csrw (BitVec.ofNat 6 (a)) (BitVec.ofNat 12 ((b % 16) * 256 + fn))) else none
  | 2 => if d = 0 then some (.csrs (BitVec.ofNat 6 (a)) (BitVec.ofNat 12 ((b % 16) * 256 + fn))) else none
  | 3 => if d = 0 then some (.csrc (BitVec.ofNat 6 (a)) (BitVec.ofNat 12 ((b % 16) * 256 + fn))) else none
  | _ => none

/-- Major opcode 0x08 (R192; map R108 to R117). -/
def decodeMajor08 (d a b fn : Nat) : Option Instr :=
  some (.ldB8 (BitVec.ofNat 6 (d)) (BitVec.ofNat 6 (a)) (BitVec.ofNat 3 (b / 8)) (BitVec.ofNat 11 ((b % 8) * 256 + fn)))

/-- Major opcode 0x09 (R192; map R108 to R117). -/
def decodeMajor09 (d a b fn : Nat) : Option Instr :=
  some (.ldB16 (BitVec.ofNat 6 (d)) (BitVec.ofNat 6 (a)) (BitVec.ofNat 3 (b / 8)) (BitVec.ofNat 11 ((b % 8) * 256 + fn)))

/-- Major opcode 0x0a (R192; map R108 to R117). -/
def decodeMajor0A (d a b fn : Nat) : Option Instr :=
  some (.ldB32 (BitVec.ofNat 6 (d)) (BitVec.ofNat 6 (a)) (BitVec.ofNat 3 (b / 8)) (BitVec.ofNat 11 ((b % 8) * 256 + fn)))

/-- Major opcode 0x0b (R192; map R108 to R117). -/
def decodeMajor0B (d a b fn : Nat) : Option Instr :=
  some (.ldB64 (BitVec.ofNat 6 (d)) (BitVec.ofNat 6 (a)) (BitVec.ofNat 3 (b / 8)) (BitVec.ofNat 11 ((b % 8) * 256 + fn)))

/-- Major opcode 0x0c (R192; map R108 to R117). -/
def decodeMajor0C (d a b fn : Nat) : Option Instr :=
  some (.ldS8 (BitVec.ofNat 6 (d)) (BitVec.ofNat 6 (a)) (BitVec.ofNat 3 (b / 8)) (BitVec.ofNat 11 ((b % 8) * 256 + fn)))

/-- Major opcode 0x0d (R192; map R108 to R117). -/
def decodeMajor0D (d a b fn : Nat) : Option Instr :=
  some (.ldS16 (BitVec.ofNat 6 (d)) (BitVec.ofNat 6 (a)) (BitVec.ofNat 3 (b / 8)) (BitVec.ofNat 11 ((b % 8) * 256 + fn)))

/-- Major opcode 0x0e (R192; map R108 to R117). -/
def decodeMajor0E (d a b fn : Nat) : Option Instr :=
  some (.ldS32 (BitVec.ofNat 6 (d)) (BitVec.ofNat 6 (a)) (BitVec.ofNat 3 (b / 8)) (BitVec.ofNat 11 ((b % 8) * 256 + fn)))

/-- Major opcode 0x0f (R193; map R108 to R117). -/
def decodeMajor0F (d a b fn : Nat) : Option Instr :=
  if d % 2 = 0 then some (.ldpr (BitVec.ofNat 5 (d / 2)) (BitVec.ofNat 6 (a)) (BitVec.ofNat 3 (b / 8)) (BitVec.ofNat 11 ((b % 8) * 256 + fn))) else none

/-- Major opcode 0x10 (R192; map R108 to R117). -/
def decodeMajor10 (d a b fn : Nat) : Option Instr :=
  some (.stB8 (BitVec.ofNat 6 (d)) (BitVec.ofNat 6 (a)) (BitVec.ofNat 3 (b / 8)) (BitVec.ofNat 11 ((b % 8) * 256 + fn)))

/-- Major opcode 0x11 (R192; map R108 to R117). -/
def decodeMajor11 (d a b fn : Nat) : Option Instr :=
  some (.stB16 (BitVec.ofNat 6 (d)) (BitVec.ofNat 6 (a)) (BitVec.ofNat 3 (b / 8)) (BitVec.ofNat 11 ((b % 8) * 256 + fn)))

/-- Major opcode 0x12 (R192; map R108 to R117). -/
def decodeMajor12 (d a b fn : Nat) : Option Instr :=
  some (.stB32 (BitVec.ofNat 6 (d)) (BitVec.ofNat 6 (a)) (BitVec.ofNat 3 (b / 8)) (BitVec.ofNat 11 ((b % 8) * 256 + fn)))

/-- Major opcode 0x13 (R192; map R108 to R117). -/
def decodeMajor13 (d a b fn : Nat) : Option Instr :=
  some (.stB64 (BitVec.ofNat 6 (d)) (BitVec.ofNat 6 (a)) (BitVec.ofNat 3 (b / 8)) (BitVec.ofNat 11 ((b % 8) * 256 + fn)))

/-- Major opcode 0x14 (R193; map R108 to R117). -/
def decodeMajor14 (d a b fn : Nat) : Option Instr :=
  some (.ldv (BitVec.ofNat 6 (d)) (BitVec.ofNat 6 (a)) (BitVec.ofNat 3 (b / 8)) (BitVec.ofNat 11 ((b % 8) * 256 + fn)))

/-- Major opcode 0x15 (R193; map R108 to R117). -/
def decodeMajor15 (d a b fn : Nat) : Option Instr :=
  some (.stv (BitVec.ofNat 6 (d)) (BitVec.ofNat 6 (a)) (BitVec.ofNat 3 (b / 8)) (BitVec.ofNat 11 ((b % 8) * 256 + fn)))

/-- Major opcode 0x16 (R194; map R108 to R117). -/
def decodeMajor16 (d a b fn : Nat) : Option Instr :=
  some (.ldf (BitVec.ofNat 6 (d)) (BitVec.ofNat 6 (a)) (BitVec.ofNat 3 (b / 8)) (BitVec.ofNat 11 ((b % 8) * 256 + fn)))

/-- Major opcode 0x17 (R194; map R108 to R117). -/
def decodeMajor17 (d a b fn : Nat) : Option Instr :=
  some (.stf (BitVec.ofNat 6 (d)) (BitVec.ofNat 6 (a)) (BitVec.ofNat 3 (b / 8)) (BitVec.ofNat 11 ((b % 8) * 256 + fn)))

/-- Major opcode 0x18 (R194; map R108 to R117). -/
def decodeMajor18 (d a b fn : Nat) : Option Instr :=
  some (.ldfp (BitVec.ofNat 6 (d)) (BitVec.ofNat 6 (a)) (BitVec.ofNat 3 (b / 8)) (BitVec.ofNat 11 ((b % 8) * 256 + fn)))

/-- Major opcode 0x19 (R195, R196, R197, R198; map R108 to R117). -/
def decodeMajor19 (d a b fn : Nat) : Option Instr :=
  match fn with
  | 0 => if b / 8 = 0 then some (.stnLo (BitVec.ofNat 6 (d)) (BitVec.ofNat 6 (a)) (BitVec.ofNat 3 (b % 8))) else none
  | 1 => if b / 8 = 0 then some (.stnHi (BitVec.ofNat 6 (d)) (BitVec.ofNat 6 (a)) (BitVec.ofNat 3 (b % 8))) else none
  | 2 => if d = 0 ∧ b / 8 = 0 then some (.femarkE (BitVec.ofNat 6 (a)) (BitVec.ofNat 3 (b % 8))) else none
  | 3 => if d = 0 ∧ b / 8 = 0 then some (.femarkF (BitVec.ofNat 6 (a)) (BitVec.ofNat 3 (b % 8))) else none
  | 4 => if d = 0 ∧ b / 8 = 0 then some (.pref (BitVec.ofNat 6 (a)) (BitVec.ofNat 3 (b % 8))) else none
  | 5 => if b / 8 = 0 then some (.flush (BitVec.ofNat 6 (d)) (BitVec.ofNat 6 (a)) (BitVec.ofNat 3 (b % 8))) else none
  | 6 => if b / 8 = 0 then some (.inval (BitVec.ofNat 6 (d)) (BitVec.ofNat 6 (a)) (BitVec.ofNat 3 (b % 8))) else none
  | 7 => if b / 8 = 0 then some (.fill (BitVec.ofNat 6 (d)) (BitVec.ofNat 6 (a)) (BitVec.ofNat 3 (b % 8))) else none
  | _ => none

/-- Major opcode 0x1a (R351, R353; map R108 to R117). -/
def decodeMajor1A (d a b fn : Nat) : Option Instr :=
  match fn % 16 with
  | 0 => some (.aadd (BitVec.ofNat 6 (d)) (BitVec.ofNat 6 (a)) (BitVec.ofNat 6 (b)) (BitVec.ofNat 3 (fn / 32)) ((fn / 16 % 2) == 1))
  | 1 => some (.aand (BitVec.ofNat 6 (d)) (BitVec.ofNat 6 (a)) (BitVec.ofNat 6 (b)) (BitVec.ofNat 3 (fn / 32)) ((fn / 16 % 2) == 1))
  | 2 => some (.aor (BitVec.ofNat 6 (d)) (BitVec.ofNat 6 (a)) (BitVec.ofNat 6 (b)) (BitVec.ofNat 3 (fn / 32)) ((fn / 16 % 2) == 1))
  | 3 => some (.axor (BitVec.ofNat 6 (d)) (BitVec.ofNat 6 (a)) (BitVec.ofNat 6 (b)) (BitVec.ofNat 3 (fn / 32)) ((fn / 16 % 2) == 1))
  | 4 => some (.amin (BitVec.ofNat 6 (d)) (BitVec.ofNat 6 (a)) (BitVec.ofNat 6 (b)) (BitVec.ofNat 3 (fn / 32)) ((fn / 16 % 2) == 1))
  | 5 => some (.amax (BitVec.ofNat 6 (d)) (BitVec.ofNat 6 (a)) (BitVec.ofNat 6 (b)) (BitVec.ofNat 3 (fn / 32)) ((fn / 16 % 2) == 1))
  | 6 => some (.aminz (BitVec.ofNat 6 (d)) (BitVec.ofNat 6 (a)) (BitVec.ofNat 6 (b)) (BitVec.ofNat 3 (fn / 32)) ((fn / 16 % 2) == 1))
  | 7 => some (.amaxz (BitVec.ofNat 6 (d)) (BitVec.ofNat 6 (a)) (BitVec.ofNat 6 (b)) (BitVec.ofNat 3 (fn / 32)) ((fn / 16 % 2) == 1))
  | 8 => some (.axchg (BitVec.ofNat 6 (d)) (BitVec.ofNat 6 (a)) (BitVec.ofNat 6 (b)) (BitVec.ofNat 3 (fn / 32)) ((fn / 16 % 2) == 1))
  | 9 => some (.acas (BitVec.ofNat 6 (d)) (BitVec.ofNat 6 (a)) (BitVec.ofNat 6 (b)) (BitVec.ofNat 3 (fn / 32)) ((fn / 16 % 2) == 1))
  | 10 => some (.afadd (BitVec.ofNat 6 (d)) (BitVec.ofNat 6 (a)) (BitVec.ofNat 6 (b)) (BitVec.ofNat 3 (fn / 32)) ((fn / 16 % 2) == 1))
  | 15 => if d / 8 = 0 ∧ a / 8 = 0 ∧ b = 0 ∧ fn / 16 = 0 then (Order.ofCode (d % 8)).bind fun k' => (Scope.ofCode (a % 8)).bind fun s' => some (.fence k' s') else none
  | _ => none

/-- Major opcode 0x1b (R337; map R108 to R117). -/
def decodeMajor1B (d a b fn : Nat) : Option Instr :=
  match fn with
  | 0 => if d = 0 ∧ a = 0 ∧ b / 32 = 0 then some (.warv (BitVec.ofNat 5 (b % 32))) else none
  | 1 => if d = 0 ∧ a = 0 ∧ b / 32 = 0 then some (.wwait (BitVec.ofNat 5 (b % 32))) else none
  | 2 => if d = 0 ∧ a = 0 ∧ b / 32 = 0 then some (.wbar (BitVec.ofNat 5 (b % 32))) else none
  | 3 => if d = 0 ∧ b / 32 = 0 then some (.wsend (BitVec.ofNat 6 (a)) (BitVec.ofNat 5 (b % 32))) else none
  | 4 => if a = 0 ∧ b / 32 = 0 then some (.wrecv (BitVec.ofNat 6 (d)) (BitVec.ofNat 5 (b % 32))) else none
  | 5 => if b / 32 = 0 then some (.wredAdd (BitVec.ofNat 6 (d)) (BitVec.ofNat 6 (a)) (BitVec.ofNat 5 (b % 32))) else none
  | 6 => if b / 32 = 0 then some (.wredMin (BitVec.ofNat 6 (d)) (BitVec.ofNat 6 (a)) (BitVec.ofNat 5 (b % 32))) else none
  | 7 => if b / 32 = 0 then some (.wredMax (BitVec.ofNat 6 (d)) (BitVec.ofNat 6 (a)) (BitVec.ofNat 5 (b % 32))) else none
  | 8 => if b / 32 = 0 then some (.wredOr (BitVec.ofNat 6 (d)) (BitVec.ofNat 6 (a)) (BitVec.ofNat 5 (b % 32))) else none
  | _ => none

/-- Major opcode 0x1c (R263; map R108 to R117). -/
def decodeMajor1C (d a b fn : Nat) : Option Instr :=
  match fn with
  | 0 => if d = 0 ∧ b = 0 then some (.sopen (BitVec.ofNat 6 (a))) else none
  | 1 => if d = 0 ∧ b = 0 then some (.ssend (BitVec.ofNat 6 (a))) else none
  | 2 => if a = 0 ∧ b = 0 then some (.srecv (BitVec.ofNat 6 (d))) else none
  | 3 => if d / 8 = 0 ∧ a = 0 ∧ b = 0 then some (.spoll (BitVec.ofNat 3 (d % 8))) else none
  | 4 => if d = 0 ∧ a = 0 ∧ b = 0 then some .sclose else none
  | _ => none

/-- Major opcode 0x1d (R212, R220, R221, R222, R223, R224, R225, R226; map R108 to R117). -/
def decodeMajor1D (d a b fn : Nat) : Option Instr :=
  match fn with
  | 0 => if d = 0 then some (.cpy (BitVec.ofNat 6 (a)) (BitVec.ofNat 6 (b))) else none
  | 1 => if d = 0 then some (.cpym (BitVec.ofNat 6 (a)) (BitVec.ofNat 6 (b))) else none
  | 2 => some (.cpyx (BitVec.ofNat 6 (d)) (BitVec.ofNat 6 (a)) (BitVec.ofNat 6 (b)))
  | 3 => some (.gath (BitVec.ofNat 6 (d)) (BitVec.ofNat 6 (a)) (BitVec.ofNat 6 (b)))
  | 4 => some (.scat (BitVec.ofNat 6 (d)) (BitVec.ofNat 6 (a)) (BitVec.ofNat 6 (b)))
  | 5 => if d = 0 then some (.barinit (BitVec.ofNat 6 (a)) (BitVec.ofNat 6 (b))) else none
  | 6 => if d = 0 then some (.baradd (BitVec.ofNat 6 (a)) (BitVec.ofNat 6 (b))) else none
  | 7 => if d = 0 ∧ b / 2 = 0 then some (.waitph (BitVec.ofNat 6 (a)) ((b % 2) == 1)) else none
  | 8 => if d = 0 then some (.msgsend (BitVec.ofNat 6 (a)) (BitVec.ofNat 6 (b))) else none
  | 9 => if d % 2 = 0 ∧ a = 0 ∧ b = 0 then some (.msgrecv (BitVec.ofNat 5 (d / 2))) else none
  | 10 => if d = 0 ∧ a = 0 ∧ b = 0 then some .waitmsg else none
  | _ => none

/-- Major opcode 0x1e (R255; map R108 to R117). -/
def decodeMajor1E (d a b fn : Nat) : Option Instr :=
  match fn / 16 with
  | 0 => (Fmt.ofCode (fn % 16)).bind fun t' => some (.vadd (BitVec.ofNat 6 (d)) (BitVec.ofNat 6 (a)) (BitVec.ofNat 6 (b)) t')
  | 1 => (Fmt.ofCode (fn % 16)).bind fun t' => some (.vsub (BitVec.ofNat 6 (d)) (BitVec.ofNat 6 (a)) (BitVec.ofNat 6 (b)) t')
  | 2 => (Fmt.ofCode (fn % 16)).bind fun t' => some (.vmul (BitVec.ofNat 6 (d)) (BitVec.ofNat 6 (a)) (BitVec.ofNat 6 (b)) t')
  | 3 => (Fmt.ofCode (fn % 16)).bind fun t' => some (.vmulh (BitVec.ofNat 6 (d)) (BitVec.ofNat 6 (a)) (BitVec.ofNat 6 (b)) t')
  | 4 => (Fmt.ofCode (fn % 16)).bind fun t' => some (.vfma (BitVec.ofNat 6 (d)) (BitVec.ofNat 6 (a)) (BitVec.ofNat 6 (b)) t')
  | 5 => (Fmt.ofCode (fn % 16)).bind fun t' => some (.vfms (BitVec.ofNat 6 (d)) (BitVec.ofNat 6 (a)) (BitVec.ofNat 6 (b)) t')
  | 6 => (Fmt.ofCode (fn % 16)).bind fun t' => some (.vfnma (BitVec.ofNat 6 (d)) (BitVec.ofNat 6 (a)) (BitVec.ofNat 6 (b)) t')
  | 7 => (Fmt.ofCode (fn % 16)).bind fun t' => some (.vdiv (BitVec.ofNat 6 (d)) (BitVec.ofNat 6 (a)) (BitVec.ofNat 6 (b)) t')
  | 8 => (Fmt.ofCode (fn % 16)).bind fun t' => some (.vmin (BitVec.ofNat 6 (d)) (BitVec.ofNat 6 (a)) (BitVec.ofNat 6 (b)) t')
  | 9 => (Fmt.ofCode (fn % 16)).bind fun t' => some (.vmax (BitVec.ofNat 6 (d)) (BitVec.ofNat 6 (a)) (BitVec.ofNat 6 (b)) t')
  | 10 => if b = 0 then (Fmt.ofCode (fn % 16)).bind fun t' => some (.vabs (BitVec.ofNat 6 (d)) (BitVec.ofNat 6 (a)) t') else none
  | 11 => if b = 0 then (Fmt.ofCode (fn % 16)).bind fun t' => some (.vneg (BitVec.ofNat 6 (d)) (BitVec.ofNat 6 (a)) t') else none
  | 12 => if b / 16 = 0 then (Fmt.ofCode (b % 16)).bind fun u' => (Fmt.ofCode (fn % 16)).bind fun t' => some (.vsat (BitVec.ofNat 6 (d)) (BitVec.ofNat 6 (a)) u' t') else none
  | 13 => if b = 0 then (Fmt.ofCode (fn % 16)).bind fun t' => some (.vclz (BitVec.ofNat 6 (d)) (BitVec.ofNat 6 (a)) t') else none
  | 14 => if b = 0 then (Fmt.ofCode (fn % 16)).bind fun t' => some (.vpopc (BitVec.ofNat 6 (d)) (BitVec.ofNat 6 (a)) t') else none
  | _ => none

/-- Major opcode 0x1f (R256, R257; map R108 to R117). -/
def decodeMajor1F (d a b fn : Nat) : Option Instr :=
  match fn / 16 with
  | 0 => (Fmt.ofCode (fn % 16)).bind fun t' => some (.vand (BitVec.ofNat 6 (d)) (BitVec.ofNat 6 (a)) (BitVec.ofNat 6 (b)) t')
  | 1 => (Fmt.ofCode (fn % 16)).bind fun t' => some (.vor (BitVec.ofNat 6 (d)) (BitVec.ofNat 6 (a)) (BitVec.ofNat 6 (b)) t')
  | 2 => (Fmt.ofCode (fn % 16)).bind fun t' => some (.vxor (BitVec.ofNat 6 (d)) (BitVec.ofNat 6 (a)) (BitVec.ofNat 6 (b)) t')
  | 3 => (Fmt.ofCode (fn % 16)).bind fun t' => some (.vandn (BitVec.ofNat 6 (d)) (BitVec.ofNat 6 (a)) (BitVec.ofNat 6 (b)) t')
  | 4 => (Fmt.ofCode (fn % 16)).bind fun t' => some (.vshl (BitVec.ofNat 6 (d)) (BitVec.ofNat 6 (a)) (BitVec.ofNat 6 (b)) t')
  | 5 => (Fmt.ofCode (fn % 16)).bind fun t' => some (.vshr (BitVec.ofNat 6 (d)) (BitVec.ofNat 6 (a)) (BitVec.ofNat 6 (b)) t')
  | 6 => (Fmt.ofCode (fn % 16)).bind fun t' => some (.vsar (BitVec.ofNat 6 (d)) (BitVec.ofNat 6 (a)) (BitVec.ofNat 6 (b)) t')
  | 7 => if fn / 8 % 2 = 0 then some (.vsel (BitVec.ofNat 6 (d)) (BitVec.ofNat 6 (a)) (BitVec.ofNat 6 (b)) (BitVec.ofNat 3 (fn % 8))) else none
  | 8 => (Fmt.ofCode (fn % 16)).bind fun t' => some (.vdot4 (BitVec.ofNat 6 (d)) (BitVec.ofNat 6 (a)) (BitVec.ofNat 6 (b)) t')
  | 9 => (Fmt.ofCode (fn % 16)).bind fun t' => some (.vdot2 (BitVec.ofNat 6 (d)) (BitVec.ofNat 6 (a)) (BitVec.ofNat 6 (b)) t')
  | 10 => (Fmt.ofCode (fn % 16)).bind fun t' => some (.vshuf (BitVec.ofNat 6 (d)) (BitVec.ofNat 6 (a)) (BitVec.ofNat 6 (b)) t')
  | 11 => (Fmt.ofCode (fn % 16)).bind fun t' => some (.vperm (BitVec.ofNat 6 (d)) (BitVec.ofNat 6 (a)) (BitVec.ofNat 6 (b)) t')
  | 12 => if b = 0 then (Fmt.ofCode (fn % 16)).bind fun t' => some (.vredadd (BitVec.ofNat 6 (d)) (BitVec.ofNat 6 (a)) t') else none
  | 13 => if b = 0 then (Fmt.ofCode (fn % 16)).bind fun t' => some (.vredmin (BitVec.ofNat 6 (d)) (BitVec.ofNat 6 (a)) t') else none
  | 14 => if b = 0 then (Fmt.ofCode (fn % 16)).bind fun t' => some (.vredmax (BitVec.ofNat 6 (d)) (BitVec.ofNat 6 (a)) t') else none
  | 15 => if fn % 16 = 2 then some (.vrng (BitVec.ofNat 6 (d)) (BitVec.ofNat 6 (a)) (BitVec.ofNat 6 (b))) else none
  | _ => none

/-- Major opcode 0x20 (R258; map R108 to R117). -/
def decodeMajor20 (d a b fn : Nat) : Option Instr :=
  if b = 0 then (Fmt.ofCode (fn / 16)).bind fun x' => (Fmt.ofCode (fn % 16)).bind fun y' => some (.vcvt (BitVec.ofNat 6 (d)) (BitVec.ofNat 6 (a)) x' y') else none

/-- Major opcode 0x21 (R259, R260; map R108 to R117). -/
def decodeMajor21 (d a b fn : Nat) : Option Instr :=
  match fn / 16 with
  | 0 => if b = 0 then (Fmt.ofCode (fn % 16)).bind fun t' => some (.vsplat (BitVec.ofNat 6 (d)) (BitVec.ofNat 6 (a)) t') else none
  | 1 => (Fmt.ofCode (fn % 16)).bind fun t' => some (.vext (BitVec.ofNat 6 (d)) (BitVec.ofNat 6 (a)) (BitVec.ofNat 6 (b)) t')
  | 2 => (Fmt.ofCode (fn % 16)).bind fun t' => some (.vins (BitVec.ofNat 6 (d)) (BitVec.ofNat 6 (a)) (BitVec.ofNat 6 (b)) t')
  | 3 => if b = 0 then (Fmt.ofCode (fn % 16)).bind fun t' => some (.vmov (BitVec.ofNat 6 (d)) (BitVec.ofNat 6 (a)) t') else none
  | 4 => (VCond.ofCode (d / 8)).bind fun c' => (Fmt.ofCode (fn % 16)).bind fun t' => some (.vcmp c' (BitVec.ofNat 3 (d % 8)) (BitVec.ofNat 6 (a)) (BitVec.ofNat 6 (b)) t')
  | _ => none

/-- Major opcode 0x22 (R267; map R108 to R117). -/
def decodeMajor22 (d a b fn : Nat) : Option Instr :=
  match fn / 16 with
  | 0 => if b = 0 then (Fmt.ofCode (fn % 16)).bind fun t' => some (.sfexp2 (BitVec.ofNat 6 (d)) (BitVec.ofNat 6 (a)) t') else none
  | 1 => if b = 0 then (Fmt.ofCode (fn % 16)).bind fun t' => some (.sflog2 (BitVec.ofNat 6 (d)) (BitVec.ofNat 6 (a)) t') else none
  | 2 => if b = 0 then (Fmt.ofCode (fn % 16)).bind fun t' => some (.sfrcp (BitVec.ofNat 6 (d)) (BitVec.ofNat 6 (a)) t') else none
  | 3 => if b = 0 then (Fmt.ofCode (fn % 16)).bind fun t' => some (.sfrsq (BitVec.ofNat 6 (d)) (BitVec.ofNat 6 (a)) t') else none
  | 4 => if b = 0 then (Fmt.ofCode (fn % 16)).bind fun t' => some (.sfsqrt (BitVec.ofNat 6 (d)) (BitVec.ofNat 6 (a)) t') else none
  | 5 => if b = 0 then (Fmt.ofCode (fn % 16)).bind fun t' => some (.sfsin (BitVec.ofNat 6 (d)) (BitVec.ofNat 6 (a)) t') else none
  | 6 => if b = 0 then (Fmt.ofCode (fn % 16)).bind fun t' => some (.sfcos (BitVec.ofNat 6 (d)) (BitVec.ofNat 6 (a)) t') else none
  | 7 => if b = 0 then (Fmt.ofCode (fn % 16)).bind fun t' => some (.sftanh (BitVec.ofNat 6 (d)) (BitVec.ofNat 6 (a)) t') else none
  | 8 => if b = 0 then (Fmt.ofCode (fn % 16)).bind fun t' => some (.sfsigm (BitVec.ofNat 6 (d)) (BitVec.ofNat 6 (a)) t') else none
  | 9 => if b = 0 then (Fmt.ofCode (fn % 16)).bind fun t' => some (.sferf (BitVec.ofNat 6 (d)) (BitVec.ofNat 6 (a)) t') else none
  | _ => none

/-- Major opcode 0x23 (R290, R291, R292, R293, R294, R295; map R108 to R117). -/
def decodeMajor23 (d a b fn : Nat) : Option Instr :=
  match fn / 16 with
  | 0 => if d / 16 = 0 ∧ a / 16 = 0 ∧ b / 16 = 0 ∧ fn / 2 % 8 = 0 then some (.mprecShort (BitVec.ofNat 4 (d % 16)) (BitVec.ofNat 4 (a % 16)) (BitVec.ofNat 4 (b % 16)) (BitVec.ofNat 1 (fn % 2))) else none
  | 1 => if d = 0 ∧ b = 0 ∧ fn / 2 % 8 = 0 then some (.mprecImage (BitVec.ofNat 6 (a)) (BitVec.ofNat 1 (fn % 2))) else none
  | 2 => if a = 0 ∧ b = 0 ∧ fn / 2 % 8 = 0 then some (.mrdp (BitVec.ofNat 6 (d)) (BitVec.ofNat 1 (fn % 2))) else none
  | 3 => if fn / 2 % 8 = 0 then some (.mma (BitVec.ofNat 6 (d)) (BitVec.ofNat 6 (a)) (BitVec.ofNat 6 (b)) (BitVec.ofNat 1 (fn % 2))) else none
  | 4 => if fn / 2 % 8 = 0 then some (.mmas (BitVec.ofNat 6 (d)) (BitVec.ofNat 6 (a)) (BitVec.ofNat 6 (b)) (BitVec.ofNat 1 (fn % 2))) else none
  | 5 => if d = 0 ∧ a = 0 ∧ b = 0 ∧ fn / 2 % 8 = 0 then some (.mzero (BitVec.ofNat 1 (fn % 2))) else none
  | 6 => if b / 16 = 0 ∧ fn / 4 % 4 = 0 then some (.mrdacc (BitVec.ofNat 6 (d)) (BitVec.ofNat 6 (a)) (BitVec.ofNat 4 (b % 16)) ((fn / 2 % 2) == 1) (BitVec.ofNat 1 (fn % 2))) else none
  | 7 => if b = 0 ∧ fn / 2 % 8 = 0 then some (.mwracc (BitVec.ofNat 6 (d)) (BitVec.ofNat 6 (a)) (BitVec.ofNat 1 (fn % 2))) else none
  | _ => none

/-- Major opcode 0x24 (R319; map R108 to R117). -/
def decodeMajor24 (d a b fn : Nat) : Option Instr :=
  match fn / 64 with
  | 0 => if d % 2 = 0 then some (.mapprb (BitVec.ofNat 5 (d / 2)) (BitVec.ofNat 6 (a)) (BitVec.ofNat 6 (b)) (BitVec.ofNat 3 (fn / 8 % 8)) (BitVec.ofNat 3 (fn % 8))) else none
  | 1 => if d % 2 = 0 then some (.mapins (BitVec.ofNat 5 (d / 2)) (BitVec.ofNat 6 (a)) (BitVec.ofNat 6 (b)) (BitVec.ofNat 3 (fn / 8 % 8)) (BitVec.ofNat 3 (fn % 8))) else none
  | 2 => if d % 2 = 0 then some (.mapups (BitVec.ofNat 5 (d / 2)) (BitVec.ofNat 6 (a)) (BitVec.ofNat 6 (b)) (BitVec.ofNat 3 (fn / 8 % 8)) (BitVec.ofNat 3 (fn % 8))) else none
  | 3 => if d % 2 = 0 then some (.mapdel (BitVec.ofNat 5 (d / 2)) (BitVec.ofNat 6 (a)) (BitVec.ofNat 6 (b)) (BitVec.ofNat 3 (fn / 8 % 8)) (BitVec.ofNat 3 (fn % 8))) else none
  | _ => none

/-- Major opcode 0x25 (R319; map R108 to R117). -/
def decodeMajor25 (d a b fn : Nat) : Option Instr :=
  match fn / 64 with
  | 0 => if d % 2 = 0 then some (.mapadd (BitVec.ofNat 5 (d / 2)) (BitVec.ofNat 6 (a)) (BitVec.ofNat 6 (b)) (BitVec.ofNat 3 (fn / 8 % 8)) (BitVec.ofNat 3 (fn % 8))) else none
  | 1 => if d % 2 = 0 then some (.mapcas (BitVec.ofNat 5 (d / 2)) (BitVec.ofNat 6 (a)) (BitVec.ofNat 6 (b)) (BitVec.ofNat 3 (fn / 8 % 8)) (BitVec.ofNat 3 (fn % 8))) else none
  | _ => none

/-- Major opcode 0x26 (R320, R322, R325, R326, R327, R328; map R108 to R117). -/
def decodeMajor26 (d a b fn : Nat) : Option Instr :=
  match fn / 16 with
  | 0 => if d = 0 ∧ fn / 8 % 2 = 0 then some (.mapnew (BitVec.ofNat 6 (a)) (BitVec.ofNat 6 (b)) (BitVec.ofNat 3 (fn % 8))) else none
  | 1 => if fn / 8 % 2 = 0 then some (.mapgetn (BitVec.ofNat 6 (d)) (BitVec.ofNat 6 (a)) (BitVec.ofNat 6 (b)) (BitVec.ofNat 3 (fn % 8))) else none
  | 2 => if fn / 8 % 2 = 0 then some (.mapscan (BitVec.ofNat 6 (d)) (BitVec.ofNat 6 (a)) (BitVec.ofNat 6 (b)) (BitVec.ofNat 3 (fn % 8))) else none
  | 3 => if d = 0 ∧ b = 0 ∧ fn / 8 % 2 = 0 then some (.mapstl (BitVec.ofNat 6 (a)) (BitVec.ofNat 3 (fn % 8))) else none
  | 4 => if d = 0 ∧ b = 0 ∧ fn / 8 % 2 = 0 then some (.mapclr (BitVec.ofNat 6 (a)) (BitVec.ofNat 3 (fn % 8))) else none
  | 5 => if b = 0 ∧ fn / 8 % 2 = 0 then some (.mapinfo (BitVec.ofNat 6 (d)) (BitVec.ofNat 6 (a)) (BitVec.ofNat 3 (fn % 8))) else none
  | _ => none

/-- Major opcode 0x2c (R91, R92, R93, R94, R95, R96, R97; map R108 to R117). -/
def decodeMajor2C (d a b fn : Nat) : Option Instr :=
  match fn with
  | 0 => if d / 8 = 0 ∧ b = 0 then some (.tspawn (BitVec.ofNat 3 (d % 8)) (BitVec.ofNat 6 (a))) else none
  | 1 => if d / 8 = 0 ∧ b = 0 then some (.tyield (BitVec.ofNat 3 (d % 8)) (BitVec.ofNat 6 (a))) else none
  | 2 => if d / 8 = 0 ∧ b = 0 then some (.launch (BitVec.ofNat 3 (d % 8)) (BitVec.ofNat 6 (a))) else none
  | 3 => if b = 0 then some (.cntrd (BitVec.ofNat 6 (d)) (BitVec.ofNat 6 (a))) else none
  | 4 => if d = 0 ∧ b = 0 then some (.cntwait (BitVec.ofNat 6 (a))) else none
  | 5 => if d = 0 ∧ b = 0 then some (.cancelDrain (BitVec.ofNat 6 (a))) else none
  | 6 => if d = 0 ∧ b = 0 then some (.cancelKill (BitVec.ofNat 6 (a))) else none
  | 7 => if d = 0 ∧ a = 0 ∧ b / 4 = 0 then (Part.ofCode (b % 4)).bind fun n' => some (.repart n') else none
  | _ => none

/-- Major opcode 0x2d (R156, R158; map R108 to R117). -/
def decodeMajor2D (d a b fn : Nat) : Option Instr :=
  match fn with
  | 0 => if d = 0 ∧ b = 0 then some (.brr (BitVec.ofNat 6 (a))) else none
  | 1 => if d = 0 ∧ b = 0 then some (.callr (BitVec.ofNat 6 (a))) else none
  | 2 => if d = 0 ∧ a = 0 ∧ b = 0 then some .ret else none
  | 3 => if d = 0 ∧ a = 0 ∧ b = 0 then some .tend else none
  | _ => none

/-- Major opcode 0x2e (R386, R391, R392, R393, R394, R395, R417, R418; map R108 to R117). -/
def decodeMajor2E (d a b fn : Nat) : Option Instr :=
  match fn with
  | 0 => if d = 0 then some (.trap (BitVec.ofNat 12 ((a) * 64 + b))) else none
  | 1 => if d = 0 ∧ a = 0 ∧ b = 0 then some .eret else none
  | 2 => if d = 0 ∧ b = 0 then some (.quiesce (BitVec.ofNat 6 (a))) else none
  | 3 => if d = 0 then some (.migrate (BitVec.ofNat 6 (a)) (BitVec.ofNat 6 (b))) else none
  | 4 => if d = 0 then some (.tlbinv (BitVec.ofNat 6 (a)) (BitVec.ofNat 6 (b))) else none
  | 5 => if a = 0 ∧ b = 0 then some (.rdtime (BitVec.ofNat 6 (d))) else none
  | 6 => if b = 0 then some (.rdperf (BitVec.ofNat 6 (d)) (BitVec.ofNat 6 (a))) else none
  | 7 => if d = 0 then some (.brk (BitVec.ofNat 12 ((a) * 64 + b))) else none
  | _ => none

/-- Major opcode 0x30 (R154; map R108 to R117). -/
def decodeMajor30 (d a b fn : Nat) : Option Instr :=
  match d / 32 with
  | 0 => if d / 4 = 0 then some (.br (BitVec.ofNat 22 ((d % 4) * 1048576 + (a) * 16384 + (b) * 256 + fn)))
         else some (.brp (BitVec.ofNat 3 (d / 4 % 8)) (BitVec.ofNat 22 ((d % 4) * 1048576 + (a) * 16384 + (b) * 256 + fn)))
  | _ => some (.brpN (BitVec.ofNat 3 (d / 4 % 8)) (BitVec.ofNat 22 ((d % 4) * 1048576 + (a) * 16384 + (b) * 256 + fn)))

/-- Major opcode 0x31 (R155; map R108 to R117). -/
def decodeMajor31 (d a b fn : Nat) : Option Instr :=
  if d / 4 = 0 then some (.call (BitVec.ofNat 22 ((d % 4) * 1048576 + (a) * 16384 + (b) * 256 + fn))) else none

/-- Major opcode 0x3f (R104, R105, R137, R139; map R108 to R117). -/
def decodeMajor3F (d a b fn : Nat) : Option Instr :=
  match d / 4 with
  | 0 => some (.himm (BitVec.ofNat 22 ((d % 4) * 1048576 + (a) * 16384 + (b) * 256 + fn)))
  | 1 => if d % 4 = 0 ∧ a / 4 = 0 then some (.hdly (BitVec.ofNat 16 ((a % 4) * 16384 + (b) * 256 + fn))) else none
  | 2 => if d % 4 = 0 ∧ a = 0 ∧ b = 0 ∧ fn / 8 = 0 then some (.hxreg ((fn / 4 % 2) == 1) ((fn / 2 % 2) == 1) ((fn % 2) == 1)) else none
  | 3 => some (.hstart (BitVec.ofNat 22 ((d % 4) * 1048576 + (a) * 16384 + (b) * 256 + fn)))
  | 4 => if d % 4 = 0 ∧ a / 4 = 0 then some (.hseq (BitVec.ofNat 16 ((a % 4) * 16384 + (b) * 256 + fn))) else none
  | 5 => if d % 4 = 0 ∧ a = 0 ∧ b / 32 = 0 then some (.hpol (BitVec.ofNat 13 ((b % 32) * 256 + fn))) else none
  | 6 => if d % 4 = 0 ∧ a = 0 ∧ b = 0 ∧ fn / 8 = 0 then (Scope.ofCode (fn % 8)).bind fun s' => some (.hscope s') else none
  | 7 => if d % 4 = 0 ∧ a = 0 ∧ b = 0 ∧ fn / 8 = 0 then some (.hrnd (BitVec.ofNat 3 (fn % 8))) else none
  | _ => none

/-- The instruction that the five fields of a word name, by the map of R108; reserved majors name none. -/
def decodeFields (op d a b fn : Nat) : Option Instr :=
  match op with
  | 0 => decodeMajor00 d a b fn
  | 1 => decodeMajor01 d a b fn
  | 2 => decodeMajor02 d a b fn
  | 3 => decodeMajor03 d a b fn
  | 4 => decodeMajor04 d a b fn
  | 5 => decodeMajor05 d a b fn
  | 6 => decodeMajor06 d a b fn
  | 7 => decodeMajor07 d a b fn
  | 8 => decodeMajor08 d a b fn
  | 9 => decodeMajor09 d a b fn
  | 10 => decodeMajor0A d a b fn
  | 11 => decodeMajor0B d a b fn
  | 12 => decodeMajor0C d a b fn
  | 13 => decodeMajor0D d a b fn
  | 14 => decodeMajor0E d a b fn
  | 15 => decodeMajor0F d a b fn
  | 16 => decodeMajor10 d a b fn
  | 17 => decodeMajor11 d a b fn
  | 18 => decodeMajor12 d a b fn
  | 19 => decodeMajor13 d a b fn
  | 20 => decodeMajor14 d a b fn
  | 21 => decodeMajor15 d a b fn
  | 22 => decodeMajor16 d a b fn
  | 23 => decodeMajor17 d a b fn
  | 24 => decodeMajor18 d a b fn
  | 25 => decodeMajor19 d a b fn
  | 26 => decodeMajor1A d a b fn
  | 27 => decodeMajor1B d a b fn
  | 28 => decodeMajor1C d a b fn
  | 29 => decodeMajor1D d a b fn
  | 30 => decodeMajor1E d a b fn
  | 31 => decodeMajor1F d a b fn
  | 32 => decodeMajor20 d a b fn
  | 33 => decodeMajor21 d a b fn
  | 34 => decodeMajor22 d a b fn
  | 35 => decodeMajor23 d a b fn
  | 36 => decodeMajor24 d a b fn
  | 37 => decodeMajor25 d a b fn
  | 38 => decodeMajor26 d a b fn
  | 44 => decodeMajor2C d a b fn
  | 45 => decodeMajor2D d a b fn
  | 46 => decodeMajor2E d a b fn
  | 48 => decodeMajor30 d a b fn
  | 49 => decodeMajor31 d a b fn
  | 63 => decodeMajor3F d a b fn
  | _ => none

/-- The five fields of an instruction's word: major opcode, d, a, b and the low byte (R98 to R117). Steps without a
word have none. -/
def Instr.fields : Instr → Option (Nat × Nat × Nat × Nat × Nat)
  | .nop => some (0, 0, 0, 0, 0)
  | .add d a b => some (0, d.toNat, a.toNat, b.toNat, 1)
  | .sub d a b => some (0, d.toNat, a.toNat, b.toNat, 2)
  | .mul d a b => some (0, d.toNat, a.toNat, b.toNat, 3)
  | .mulhs d a b => some (0, d.toNat, a.toNat, b.toNat, 4)
  | .mulhz d a b => some (0, d.toNat, a.toNat, b.toNat, 5)
  | .div d a b => some (0, d.toNat, a.toNat, b.toNat, 6)
  | .divz d a b => some (0, d.toNat, a.toNat, b.toNat, 7)
  | .rem d a b => some (0, d.toNat, a.toNat, b.toNat, 8)
  | .remz d a b => some (0, d.toNat, a.toNat, b.toNat, 9)
  | .and d a b => some (0, d.toNat, a.toNat, b.toNat, 10)
  | .or d a b => some (0, d.toNat, a.toNat, b.toNat, 11)
  | .xor d a b => some (0, d.toNat, a.toNat, b.toNat, 12)
  | .andn d a b => some (0, d.toNat, a.toNat, b.toNat, 13)
  | .orn d a b => some (0, d.toNat, a.toNat, b.toNat, 14)
  | .shl d a b => some (0, d.toNat, a.toNat, b.toNat, 15)
  | .shr d a b => some (0, d.toNat, a.toNat, b.toNat, 16)
  | .sar d a b => some (0, d.toNat, a.toNat, b.toNat, 17)
  | .rol d a b => some (0, d.toNat, a.toNat, b.toNat, 18)
  | .ror d a b => some (0, d.toNat, a.toNat, b.toNat, 19)
  | .min d a b => some (0, d.toNat, a.toNat, b.toNat, 20)
  | .max d a b => some (0, d.toNat, a.toNat, b.toNat, 21)
  | .minz d a b => some (0, d.toNat, a.toNat, b.toNat, 22)
  | .maxz d a b => some (0, d.toNat, a.toNat, b.toNat, 23)
  | .slt d a b => some (0, d.toNat, a.toNat, b.toNat, 24)
  | .sltz d a b => some (0, d.toNat, a.toNat, b.toNat, 25)
  | .seq d a b => some (0, d.toNat, a.toNat, b.toNat, 26)
  | .clz d a => some (0, d.toNat, a.toNat, 0, 32)
  | .ctz d a => some (0, d.toNat, a.toNat, 0, 33)
  | .popc d a => some (0, d.toNat, a.toNat, 0, 34)
  | .bswp d a => some (0, d.toNat, a.toNat, 0, 35)
  | .sxtS8 d a => some (0, d.toNat, a.toNat, 0, 36)
  | .sxtS16 d a => some (0, d.toNat, a.toNat, 0, 37)
  | .sxtS32 d a => some (0, d.toNat, a.toNat, 0, 38)
  | .zxtB8 d a => some (0, d.toNat, a.toNat, 0, 40)
  | .zxtB16 d a => some (0, d.toNat, a.toNat, 0, 41)
  | .zxtB32 d a => some (0, d.toNat, a.toNat, 0, 42)
  | .csel d a b p => some (0, d.toNat, a.toNat, b.toNat, 64 + p.toNat)
  | .pand d a b => some (0, d.toNat, a.toNat, b.toNat, 80)
  | .por d a b => some (0, d.toNat, a.toNat, b.toNat, 81)
  | .pxor d a b => some (0, d.toNat, a.toNat, b.toNat, 82)
  | .pnot d a => some (0, d.toNat, a.toNat, 0, 83)
  | .movpGP d a => some (0, d.toNat, a.toNat, 0, 84)
  | .movpPG d a => some (0, d.toNat, a.toNat, 0, 85)
  | .pcmpEq d a b => some (0, d.toNat, a.toNat, b.toNat, 88)
  | .pcmpNe d a b => some (0, d.toNat, a.toNat, b.toNat, 89)
  | .pcmpLt d a b => some (0, d.toNat, a.toNat, b.toNat, 90)
  | .pcmpGe d a b => some (0, d.toNat, a.toNat, b.toNat, 91)
  | .pcmpLtu d a b => some (0, d.toNat, a.toNat, b.toNat, 92)
  | .pcmpGeu d a b => some (0, d.toNat, a.toNat, b.toNat, 93)
  | .pcmpTst d a b => some (0, d.toNat, a.toNat, b.toNat, 94)
  | .addi d a i => some (1, d.toNat, a.toNat, i.toNat / 256, i.toNat % 256)
  | .movi d i => some (2, d.toNat, 0, i.toNat / 256, i.toNat % 256)
  | .lea d i => some (3, d.toNat, 0, i.toNat / 256, i.toNat % 256)
  | .bfx d a l p => some (4, d.toNat, a.toNat, l.toNat / 4, (l.toNat % 4) * 64 + p.toNat)
  | .bfxS d a l p => some (4, d.toNat, a.toNat, 16 + l.toNat / 4, (l.toNat % 4) * 64 + p.toNat)
  | .bfi d a l p => some (5, d.toNat, a.toNat, l.toNat / 4, (l.toNat % 4) * 64 + p.toNat)
  | .loop d i => some (6, d.toNat, 0, i.toNat / 256, i.toNat % 256)
  | .csrr d n => some (7, d.toNat, 0, n.toNat / 256, n.toNat % 256)
  | .csrw a n => some (7, 0, a.toNat, 16 + n.toNat / 256, n.toNat % 256)
  | .csrs a n => some (7, 0, a.toNat, 32 + n.toNat / 256, n.toNat % 256)
  | .csrc a n => some (7, 0, a.toNat, 48 + n.toNat / 256, n.toNat % 256)
  | .ldB8 d b q o => some (8, d.toNat, b.toNat, q.toNat * 8 + o.toNat / 256, o.toNat % 256)
  | .ldB16 d b q o => some (9, d.toNat, b.toNat, q.toNat * 8 + o.toNat / 256, o.toNat % 256)
  | .ldB32 d b q o => some (10, d.toNat, b.toNat, q.toNat * 8 + o.toNat / 256, o.toNat % 256)
  | .ldB64 d b q o => some (11, d.toNat, b.toNat, q.toNat * 8 + o.toNat / 256, o.toNat % 256)
  | .ldS8 d b q o => some (12, d.toNat, b.toNat, q.toNat * 8 + o.toNat / 256, o.toNat % 256)
  | .ldS16 d b q o => some (13, d.toNat, b.toNat, q.toNat * 8 + o.toNat / 256, o.toNat % 256)
  | .ldS32 d b q o => some (14, d.toNat, b.toNat, q.toNat * 8 + o.toNat / 256, o.toNat % 256)
  | .ldpr d b q o => some (15, d.toNat * 2, b.toNat, q.toNat * 8 + o.toNat / 256, o.toNat % 256)
  | .stB8 d b q o => some (16, d.toNat, b.toNat, q.toNat * 8 + o.toNat / 256, o.toNat % 256)
  | .stB16 d b q o => some (17, d.toNat, b.toNat, q.toNat * 8 + o.toNat / 256, o.toNat % 256)
  | .stB32 d b q o => some (18, d.toNat, b.toNat, q.toNat * 8 + o.toNat / 256, o.toNat % 256)
  | .stB64 d b q o => some (19, d.toNat, b.toNat, q.toNat * 8 + o.toNat / 256, o.toNat % 256)
  | .ldv d b q o => some (20, d.toNat, b.toNat, q.toNat * 8 + o.toNat / 256, o.toNat % 256)
  | .stv d b q o => some (21, d.toNat, b.toNat, q.toNat * 8 + o.toNat / 256, o.toNat % 256)
  | .ldf d b q o => some (22, d.toNat, b.toNat, q.toNat * 8 + o.toNat / 256, o.toNat % 256)
  | .stf d b q o => some (23, d.toNat, b.toNat, q.toNat * 8 + o.toNat / 256, o.toNat % 256)
  | .ldfp d b q o => some (24, d.toNat, b.toNat, q.toNat * 8 + o.toNat / 256, o.toNat % 256)
  | .stnLo d a q => some (25, d.toNat, a.toNat, q.toNat, 0)
  | .stnHi d a q => some (25, d.toNat, a.toNat, q.toNat, 1)
  | .femarkE a q => some (25, 0, a.toNat, q.toNat, 2)
  | .femarkF a q => some (25, 0, a.toNat, q.toNat, 3)
  | .pref a q => some (25, 0, a.toNat, q.toNat, 4)
  | .flush d a q => some (25, d.toNat, a.toNat, q.toNat, 5)
  | .inval d a q => some (25, d.toNat, a.toNat, q.toNat, 6)
  | .fill d a q => some (25, d.toNat, a.toNat, q.toNat, 7)
  | .aadd d a b q z => some (26, d.toNat, a.toNat, b.toNat, q.toNat * 32 + z.toNat * 16)
  | .aand d a b q z => some (26, d.toNat, a.toNat, b.toNat, 1 + q.toNat * 32 + z.toNat * 16)
  | .aor d a b q z => some (26, d.toNat, a.toNat, b.toNat, 2 + q.toNat * 32 + z.toNat * 16)
  | .axor d a b q z => some (26, d.toNat, a.toNat, b.toNat, 3 + q.toNat * 32 + z.toNat * 16)
  | .amin d a b q z => some (26, d.toNat, a.toNat, b.toNat, 4 + q.toNat * 32 + z.toNat * 16)
  | .amax d a b q z => some (26, d.toNat, a.toNat, b.toNat, 5 + q.toNat * 32 + z.toNat * 16)
  | .aminz d a b q z => some (26, d.toNat, a.toNat, b.toNat, 6 + q.toNat * 32 + z.toNat * 16)
  | .amaxz d a b q z => some (26, d.toNat, a.toNat, b.toNat, 7 + q.toNat * 32 + z.toNat * 16)
  | .axchg d a b q z => some (26, d.toNat, a.toNat, b.toNat, 8 + q.toNat * 32 + z.toNat * 16)
  | .acas d a b q z => some (26, d.toNat, a.toNat, b.toNat, 9 + q.toNat * 32 + z.toNat * 16)
  | .afadd d a b q z => some (26, d.toNat, a.toNat, b.toNat, 10 + q.toNat * 32 + z.toNat * 16)
  | .fence k s => some (26, k.code, s.code, 0, 15)
  | .warv c => some (27, 0, 0, c.toNat, 0)
  | .wwait c => some (27, 0, 0, c.toNat, 1)
  | .wbar c => some (27, 0, 0, c.toNat, 2)
  | .wsend a c => some (27, 0, a.toNat, c.toNat, 3)
  | .wrecv d c => some (27, d.toNat, 0, c.toNat, 4)
  | .wredAdd d a c => some (27, d.toNat, a.toNat, c.toNat, 5)
  | .wredMin d a c => some (27, d.toNat, a.toNat, c.toNat, 6)
  | .wredMax d a c => some (27, d.toNat, a.toNat, c.toNat, 7)
  | .wredOr d a c => some (27, d.toNat, a.toNat, c.toNat, 8)
  | .sopen a => some (28, 0, a.toNat, 0, 0)
  | .ssend a => some (28, 0, a.toNat, 0, 1)
  | .srecv d => some (28, d.toNat, 0, 0, 2)
  | .spoll d => some (28, d.toNat, 0, 0, 3)
  | .sclose => some (28, 0, 0, 0, 4)
  | .cpy a b => some (29, 0, a.toNat, b.toNat, 0)
  | .cpym a b => some (29, 0, a.toNat, b.toNat, 1)
  | .cpyx d a b => some (29, d.toNat, a.toNat, b.toNat, 2)
  | .gath d a b => some (29, d.toNat, a.toNat, b.toNat, 3)
  | .scat d a b => some (29, d.toNat, a.toNat, b.toNat, 4)
  | .barinit a b => some (29, 0, a.toNat, b.toNat, 5)
  | .baradd a b => some (29, 0, a.toNat, b.toNat, 6)
  | .waitph a n => some (29, 0, a.toNat, n.toNat, 7)
  | .msgsend a b => some (29, 0, a.toNat, b.toNat, 8)
  | .msgrecv d => some (29, d.toNat * 2, 0, 0, 9)
  | .waitmsg => some (29, 0, 0, 0, 10)
  | .vadd d a b t => some (30, d.toNat, a.toNat, b.toNat, t.code)
  | .vsub d a b t => some (30, d.toNat, a.toNat, b.toNat, 16 + t.code)
  | .vmul d a b t => some (30, d.toNat, a.toNat, b.toNat, 32 + t.code)
  | .vmulh d a b t => some (30, d.toNat, a.toNat, b.toNat, 48 + t.code)
  | .vfma d a b t => some (30, d.toNat, a.toNat, b.toNat, 64 + t.code)
  | .vfms d a b t => some (30, d.toNat, a.toNat, b.toNat, 80 + t.code)
  | .vfnma d a b t => some (30, d.toNat, a.toNat, b.toNat, 96 + t.code)
  | .vdiv d a b t => some (30, d.toNat, a.toNat, b.toNat, 112 + t.code)
  | .vmin d a b t => some (30, d.toNat, a.toNat, b.toNat, 128 + t.code)
  | .vmax d a b t => some (30, d.toNat, a.toNat, b.toNat, 144 + t.code)
  | .vabs d a t => some (30, d.toNat, a.toNat, 0, 160 + t.code)
  | .vneg d a t => some (30, d.toNat, a.toNat, 0, 176 + t.code)
  | .vsat d a u t => some (30, d.toNat, a.toNat, u.code, 192 + t.code)
  | .vclz d a t => some (30, d.toNat, a.toNat, 0, 208 + t.code)
  | .vpopc d a t => some (30, d.toNat, a.toNat, 0, 224 + t.code)
  | .vand d a b t => some (31, d.toNat, a.toNat, b.toNat, t.code)
  | .vor d a b t => some (31, d.toNat, a.toNat, b.toNat, 16 + t.code)
  | .vxor d a b t => some (31, d.toNat, a.toNat, b.toNat, 32 + t.code)
  | .vandn d a b t => some (31, d.toNat, a.toNat, b.toNat, 48 + t.code)
  | .vshl d a b t => some (31, d.toNat, a.toNat, b.toNat, 64 + t.code)
  | .vshr d a b t => some (31, d.toNat, a.toNat, b.toNat, 80 + t.code)
  | .vsar d a b t => some (31, d.toNat, a.toNat, b.toNat, 96 + t.code)
  | .vsel d a b p => some (31, d.toNat, a.toNat, b.toNat, 112 + p.toNat)
  | .vdot4 d a b t => some (31, d.toNat, a.toNat, b.toNat, 128 + t.code)
  | .vdot2 d a b t => some (31, d.toNat, a.toNat, b.toNat, 144 + t.code)
  | .vshuf d a b t => some (31, d.toNat, a.toNat, b.toNat, 160 + t.code)
  | .vperm d a b t => some (31, d.toNat, a.toNat, b.toNat, 176 + t.code)
  | .vredadd d a t => some (31, d.toNat, a.toNat, 0, 192 + t.code)
  | .vredmin d a t => some (31, d.toNat, a.toNat, 0, 208 + t.code)
  | .vredmax d a t => some (31, d.toNat, a.toNat, 0, 224 + t.code)
  | .vrng d a b => some (31, d.toNat, a.toNat, b.toNat, 242)
  | .vcvt d a x y => some (32, d.toNat, a.toNat, 0, x.code * 16 + y.code)
  | .vsplat d a t => some (33, d.toNat, a.toNat, 0, t.code)
  | .vext d a n t => some (33, d.toNat, a.toNat, n.toNat, 16 + t.code)
  | .vins d a n t => some (33, d.toNat, a.toNat, n.toNat, 32 + t.code)
  | .vmov d a t => some (33, d.toNat, a.toNat, 0, 48 + t.code)
  | .vcmp c d a b t => some (33, c.code * 8 + d.toNat, a.toNat, b.toNat, 64 + t.code)
  | .sfexp2 d a t => some (34, d.toNat, a.toNat, 0, t.code)
  | .sflog2 d a t => some (34, d.toNat, a.toNat, 0, 16 + t.code)
  | .sfrcp d a t => some (34, d.toNat, a.toNat, 0, 32 + t.code)
  | .sfrsq d a t => some (34, d.toNat, a.toNat, 0, 48 + t.code)
  | .sfsqrt d a t => some (34, d.toNat, a.toNat, 0, 64 + t.code)
  | .sfsin d a t => some (34, d.toNat, a.toNat, 0, 80 + t.code)
  | .sfcos d a t => some (34, d.toNat, a.toNat, 0, 96 + t.code)
  | .sftanh d a t => some (34, d.toNat, a.toNat, 0, 112 + t.code)
  | .sfsigm d a t => some (34, d.toNat, a.toNat, 0, 128 + t.code)
  | .sferf d a t => some (34, d.toNat, a.toNat, 0, 144 + t.code)
  | .mprecShort c a b k => some (35, c.toNat, a.toNat, b.toNat, k.toNat)
  | .mprecImage a k => some (35, 0, a.toNat, 0, 16 + k.toNat)
  | .mrdp d k => some (35, d.toNat, 0, 0, 32 + k.toNat)
  | .mma d a b k => some (35, d.toNat, a.toNat, b.toNat, 48 + k.toNat)
  | .mmas d a b k => some (35, d.toNat, a.toNat, b.toNat, 64 + k.toNat)
  | .mzero k => some (35, 0, 0, 0, 80 + k.toNat)
  | .mrdacc d a t r k => some (35, d.toNat, a.toNat, t.toNat, 96 + r.toNat * 2 + k.toNat)
  | .mwracc d a k => some (35, d.toNat, a.toNat, 0, 112 + k.toNat)
  | .mapprb d a b p q => some (36, d.toNat * 2, a.toNat, b.toNat, p.toNat * 8 + q.toNat)
  | .mapins d a b p q => some (36, d.toNat * 2, a.toNat, b.toNat, 64 + p.toNat * 8 + q.toNat)
  | .mapups d a b p q => some (36, d.toNat * 2, a.toNat, b.toNat, 128 + p.toNat * 8 + q.toNat)
  | .mapdel d a b p q => some (36, d.toNat * 2, a.toNat, b.toNat, 192 + p.toNat * 8 + q.toNat)
  | .mapadd d a b p q => some (37, d.toNat * 2, a.toNat, b.toNat, p.toNat * 8 + q.toNat)
  | .mapcas d a b p q => some (37, d.toNat * 2, a.toNat, b.toNat, 64 + p.toNat * 8 + q.toNat)
  | .mapnew a b q => some (38, 0, a.toNat, b.toNat, q.toNat)
  | .mapgetn d a b q => some (38, d.toNat, a.toNat, b.toNat, 16 + q.toNat)
  | .mapscan d a b q => some (38, d.toNat, a.toNat, b.toNat, 32 + q.toNat)
  | .mapstl a q => some (38, 0, a.toNat, 0, 48 + q.toNat)
  | .mapclr a q => some (38, 0, a.toNat, 0, 64 + q.toNat)
  | .mapinfo d a q => some (38, d.toNat, a.toNat, 0, 80 + q.toNat)
  | .tspawn p a => some (44, p.toNat, a.toNat, 0, 0)
  | .tyield p a => some (44, p.toNat, a.toNat, 0, 1)
  | .launch p a => some (44, p.toNat, a.toNat, 0, 2)
  | .cntrd d a => some (44, d.toNat, a.toNat, 0, 3)
  | .cntwait a => some (44, 0, a.toNat, 0, 4)
  | .cancelDrain a => some (44, 0, a.toNat, 0, 5)
  | .cancelKill a => some (44, 0, a.toNat, 0, 6)
  | .repart n => some (44, 0, 0, n.code, 7)
  | .brr a => some (45, 0, a.toNat, 0, 0)
  | .callr a => some (45, 0, a.toNat, 0, 1)
  | .ret => some (45, 0, 0, 0, 2)
  | .tend => some (45, 0, 0, 0, 3)
  | .trap n => some (46, 0, n.toNat / 64, n.toNat % 64, 0)
  | .eret => some (46, 0, 0, 0, 1)
  | .quiesce a => some (46, 0, a.toNat, 0, 2)
  | .migrate a b => some (46, 0, a.toNat, b.toNat, 3)
  | .tlbinv a b => some (46, 0, a.toNat, b.toNat, 4)
  | .rdtime d => some (46, d.toNat, 0, 0, 5)
  | .rdperf d a => some (46, d.toNat, a.toNat, 0, 6)
  | .brk n => some (46, 0, n.toNat / 64, n.toNat % 64, 7)
  | .brp p o => some (48, p.toNat * 4 + o.toNat / 1048576, o.toNat / 16384 % 64, o.toNat / 256 % 64, o.toNat % 256)
  | .brpN p o => some (48, 32 + p.toNat * 4 + o.toNat / 1048576, o.toNat / 16384 % 64, o.toNat / 256 % 64, o.toNat % 256)
  | .br o => some (48, o.toNat / 1048576, o.toNat / 16384 % 64, o.toNat / 256 % 64, o.toNat % 256)
  | .call o => some (49, o.toNat / 1048576, o.toNat / 16384 % 64, o.toNat / 256 % 64, o.toNat % 256)
  | .himm i => some (63, i.toNat / 1048576, i.toNat / 16384 % 64, i.toNat / 256 % 64, i.toNat % 256)
  | .hdly n => some (63, 4, n.toNat / 16384, n.toNat / 256 % 64, n.toNat % 256)
  | .hxreg d a b => some (63, 8, 0, 0, d.toNat * 4 + a.toNat * 2 + b.toNat)
  | .hstart s => some (63, 12 + s.toNat / 1048576, s.toNat / 16384 % 64, s.toNat / 256 % 64, s.toNat % 256)
  | .hseq t => some (63, 16, t.toNat / 16384, t.toNat / 256 % 64, t.toNat % 256)
  | .hpol p => some (63, 20, 0, p.toNat / 256, p.toNat % 256)
  | .hscope s => some (63, 24, 0, 0, s.code)
  | .hrnd m => some (63, 28, 0, 0, m.toNat)
  | .launchRecord _ _ _ => none
  | .counterRecord _ _ _ => none
  | .qcfgWrite _ _ => none
  | .dispatcherTake _ => none
  | .gangStart _ _ => none
  | .dealUnit _ _ => none
  | .unitRetire _ _ => none
  | .phaseAgentArrival _ _ => none
  | .phaseBarrier _ => none
  | .cancelComplete _ _ => none
  | .pop _ => none
  | .stealRequest _ => none
  | .stealReply _ => none
  | .stealRoundRetry _ => none
  | .lateEventTest _ => none
  | .holdEnd _ _ => none
  | .landing _ => none
  | .deferredEffect _ => none
  | .parkResume _ => none
  | .requestRetry _ _ => none
  | .storePerformed _ _ => none
  | .fullEmptyHomeOperation _ => none
  | .rangeStep _ => none
  | .registration _ => none
  | .copyStart _ => none
  | .byteLanding _ _ _ => none
  | .heldFlipApply _ => none
  | .messageArrival _ _ => none
  | .followOnStart _ => none
  | .linkWordArrival _ _ => none
  | .streamWordArrival _ => none
  | .routeGrant _ => none
  | .routeAutoClose _ => none
  | .sfuAccept _ => none
  | .sfuResult _ => none
  | .arrayCommandStart _ => none
  | .kStepEnd _ => none
  | .mzeroApply _ => none
  | .bankRelease _ _ => none
  | .sequencerAccept _ _ => none
  | .mapnewComplete _ => none
  | .mapgetnDispatch _ _ => none
  | .mapgetnResult _ _ _ => none
  | .mapscanSliceStep _ => none
  | .settleStep _ => none
  | .mapclrShardStep _ => none
  | .mapinfoAnswer _ => none
  | .woadArrival _ => none
  | .woadRelease _ => none
  | .gangstallExpiry _ => none
  | .quiesceSignalArrival _ => none
  | .domainStop _ => none
  | .quiesceMarkerPass _ _ => none
  | .migrationComplete _ _ => none
  | .dbgctlStop _ _ => none
  | .dbgctlGo _ _ => none
  | .debugStop _ => none
  | .stepStop _ => none
  | .pageWalk _ _ _ _ => none
  | .tlbinvComplete _ => none
  | .ingressRequest _ _ _ _ => none
  | .hostSnoop _ _ => none
  | .coltailWrite _ _ => none
  | .colheadErrClear _ => none
  | .collectiveStepStart _ => none
  | .collectiveStepEnd _ _ _ => none
  | .watchdogExpiry _ => none
  | .madcfgClr _ _ => none
  | .madderSample _ => none
  | .ptpMessage _ _ _ _ => none
  | .clampSample _ _ => none
  | .deviceReset _ _ _ _ => none
  | .recoveryImageWrite _ _ _ => none
  | .attestationRequest _ => none
  | .registerWrite _ _ => none
  | .softError _ _ => none
  | .homeSliceRequest _ _ _ => none
  | .memoryResponse _ _ _ => none
  | .jobCreate _ _ _ _ _ _ => none
  | .jobDestroy _ => none

/-- Joins the five fields into a word (R98). -/
def joinWord (op d a b fn : Nat) : IWord :=
  BitVec.ofNat 32 (op * 2 ^ 26 + d * 2 ^ 20 + a * 2 ^ 14 + b * 2 ^ 8 + fn)

/-- The word of an instruction. Steps without a word get the all-ones word, which is no instruction (R107). -/
def encode (i : Instr) : IWord :=
  match i.fields with
  | some (op, d, a, b, fn) => joinWord op d a b fn
  | none => 0xFFFFFFFF

/-- Decoding: checks 2 to 4 of R107. A word whose fields name an instruction and hold no reserved code is that
instruction; any other word is none. -/
def decode (w : IWord) : Option Instr :=
  (decodeFields (w.toNat / 2 ^ 26) (w.toNat / 2 ^ 20 % 64) (w.toNat / 2 ^ 14 % 64) (w.toNat / 2 ^ 8 % 64)
    (w.toNat % 256)).bind fun i => if i.wf then some i else none

/-- The word that four bytes in memory hold, the lowest address first (R3). -/
def wordOfBytes (b0 b1 b2 b3 : Byte) : IWord :=
  BitVec.ofNat 32 (b0.toNat + b1.toNat * 2 ^ 8 + b2.toNat * 2 ^ 16 + b3.toNat * 2 ^ 24)

/-- Decodes the first instruction of a list of bytes and returns the bytes that follow it. -/
def decodeBytes : List Byte → Option (Instr × List Byte)
  | b0 :: b1 :: b2 :: b3 :: rest => (decode (wordOfBytes b0 b1 b2 b3)).map fun i => (i, rest)
  | _ => none

/-- Every word is 32 bits, so a table word is laid out as its four bytes, little-endian, and read back. -/
def decodeTableWord (nbits w : Nat) : Option Instr :=
  let x := w % 2 ^ nbits % 2 ^ 32
  (decodeBytes [BitVec.ofNat 8 x, BitVec.ofNat 8 (x / 2 ^ 8), BitVec.ofNat 8 (x / 2 ^ 16), BitVec.ofNat 8 (x / 2 ^ 24)]).map
    (·.1)

end Sys2Proof
end

