-- ==== Sys2Proof/Machine/Fetch.lean ====
section
/-! DEFINITION. Fetching an instruction word (R107 check 1, R153, R186, R411) and storing one where a strand fetches. -/

namespace Sys2Proof.Machine

/-- The word at a location as a cluster's fetches find it: a fetch uses its L1's untracked copy (R171). -/
def State.wordAt (s : State) (cluster l : Nat) : IWord :=
  wordOfBytes (s.clusterByte cluster l) (s.clusterByte cluster (l + 1)) (s.clusterByte cluster (l + 2)) (s.clusterByte cluster (l + 3))

/-- A fetch that misses the cluster's L1 takes its line through the caches and is counted (R166, R411). -/
def State.fetchLine (s : State) (x : SId) (va : Word) (l : Nat) (leaf : Option Word) : State :=
  let cl := clusterOf x.core
  if isScratchLoc l then s
  else if (s.mem.cached (.l1 cl) (l / 128)).isSome then s
  else (s.countLeaf (s.jobOf x) leaf va.toNat l 1).pass x va l 0 false

/-- The word at the strand's pc, or the fault of its fetch (R107, R160, R186, R401). -/
def State.fetch (s : State) (x : SId) : State × (IWord ⊕ TrapInfo) :=
  let va := (s.strand x).pc
  match s.resolve x va 0 Need.fetch with
  | .bad t => (s.countWalk x va 0, .inr t)
  | .blocked => (s, .inr (trapOf .xlatex va))
  | .at_ l leaf =>
    let t := s.fetchLine x va l leaf
    let cl := clusterOf x.core
    if s.badFor cl l then (t, .inr (badTrap va)) else (t, .inl (s.wordAt cl l))

/-- Where a strand's next word lies. -/
def State.fetchLoc (s : State) (x : SId) : Option Nat :=
  match s.resolve x (s.strand x).pc 0 Need.fetch with
  | .at_ l _ => some l
  | _ => none

/-- A hint word, and a word of the hint opcode whose kind is reserved: it joins the group, and ILLEGAL is raised at the
group's instruction (R101, R107). -/
def isHintWord (w : IWord) : Bool := bitsOf w 31 26 = 0x3F

/-- The vc at which the strand's next word can issue: HDLY holds back an instruction, not a hint (R102, R104). A word that cannot be
fetched, or that is no instruction, is held back like an instruction, and raises its fault then (notes/assumptions/59.md). -/
def State.nextVc (s : State) (x : SId) : Nat :=
  if (readHints (s.strand x).group).dly = 0 then s.issueVc x
  else match s.fetchLoc x with
    | some l => if isHintWord (s.wordAt (clusterOf x.core) l) then s.hintVc x else s.issueVc x
    | none => s.issueVc x

/-- How many rotations late the strand's next word is fetched: a word of a line that misses the cluster's L1 may come late, by
what the first entry of `choices` names (R124, notes/assumptions/11.md). -/
def State.fetchLate (s : State) (x : SId) : Nat :=
  match s.fetchLoc x with
  | some l => if isScratchLoc l || (s.mem.cached (.l1 (clusterOf x.core)) (l / 128)).isSome then 0 else s.choices.headD 0
  | none => 0

/-- The domain is held at the slot of a word that is not fetched (R124, R126). -/
def State.holdFetch (s : State) (x : SId) (n : Nat) : State :=
  let v := s.nextVc x
  let s : State := { s.tick ((s.strand x).ccOf v) with choices := s.choices.tail }
  (s.holdAt x v).post (n * s.rotation x) (.holdEnd x n)

/-- Four bytes placed at a location, with a good check code. -/
def State.placeWord (s : State) (l w : Nat) : State := (s.setBytes l (leBytes 4 w)).setBad l false

/-- A core with one strand about to start: user strand 0 of core 0, at the base of its scratch, in job 1 with counter 1
active (notes/assumptions/1.md). Nothing else is due. -/
def State.loaded (s : State) : State :=
  let st : Strand :=
    { Strand.reset with
      run := .running, pc := BitVec.ofNat 64 Config.scratchBase, base := s.clock.cc,
      phase := phaseOf 8 0 s.clock.cc, began := s.clock.cc,
      regs := { Regs.reset with csr := { Csrs.reset with jobId := 1, launchId := 1 } } }
  let c : Counter := { Counter.zero with state := .active, pend := 1 }
  { s with
    cores := [(0, { Core.reset with job := some 1, strands := [(0, st)] })],
    jobs := [(1, { Job.empty with cores := [0], nctr := 1, counters := [(1, c)] })], agenda := [], choices := [], cur := ⟨0, 0⟩ }

end Sys2Proof.Machine
end

