-- ==== Sys2Proof/Machine/Schedule.lean ====
section
/-! DEFINITION. What the device does next (notes/assumptions/1.md): the steps that are due, at the core cycles at which the
rules put them, and the choice among those due first. A step's order among others of the same core cycle is open; the list
`choices` of the state decides it. -/

namespace Sys2Proof.Machine

/-- The next step: one of the agenda's, one that a strand's own rules make due, or a strand's issue. -/
inductive Pick where
  | agenda (index : Nat) (what : Event)
  | duty (what : Event)
  | issue (sid : SId)
deriving DecidableEq, Repr

/-- A step with the core cycle at which it is due. -/
abbrev Cand := Nat × Pick

/-- An instruction that passes its fault point, raises its fault, or is found to wait, when its vc comes (R131, R194). -/
def Strand.landDue (st : Strand) : Option Nat :=
  let passing := (st.inflight.filter fun e => st.passes e.faultVc e).map (·.faultVc)
  let trapping := (st.inflight.take 1).filterMap fun e => (st.dueTrap e.faultVc).map fun _ => e.faultVc
  let waiting := if st.waitParks || (st.under.isNone && st.park.any (·.reason = .serial)) then (st.inflight.filter (·.waits)).map (·.faultVc)
    else []
  listMin (passing ++ trapping ++ waiting)

/-- A late trap that the strand can take once its writes have landed, for PREEMPT, or now (R134, R141, R376). -/
def State.lateDue (s : State) (x : SId) : Option Nat :=
  let st := s.strand x
  match s.dueLate x with
  | some l =>
    if l.info.cause = .preempt then (if st.reaches st.lastLanding then some (st.ccOf st.lastLanding) else none) else some 0
  | none => none

/-- A debug stop or the end of a single step (R384, R385). -/
def Strand.stopDue (st : Strand) : Option (Nat × Bool) :=
  if st.stopAsked && ({ st with pending := [] } : Strand).standing && st.reaches st.lastLanding then
    some (st.ccOf st.lastLanding, st.stepping)
  else none

/-! ## Madder's slots (R425, R426) -/

def madReg (die : Nat) : Nat := madBase + die * 0x100000

/-- SPER of a strand's Madder engine, if it samples the strand (R426). -/
def State.sampling (s : State) (x : SId) : Option Nat :=
  let w := s.mem.devReg (madReg (coreDie x.core))
  if bitOf w 63 && (s.core x.core).job = some (bitsOf w 31 0) && x.strand + 1 < s.rotation x then
    some (Nat.max 1 (bitsOf w 55 32))
  else none

/-- The core cycle of a strand's next sample, at or after the present one: the slots that it owns are counted from its
task's start. -/
def State.sampleCc (s : State) (x : SId) (per : Nat) : Nat :=
  let st := s.strand x
  let n := s.rotation x
  let first := nextSlot n x.strand st.began + (per - 1) * n
  let at_ := Nat.max st.sampled s.clock.cc
  if at_ ≤ first then first else first + (at_ - first + per * n - 1) / (per * n) * (per * n)

/-! ## What is due -/

/-- What a strand's own rules make due. -/
def State.strandDue (s : State) (x : SId) : List Cand :=
  let st := s.strand x
  if st.run ≠ .running then []
  else
    let free := st.held = 0
    let land := (st.landDue.toList.filter fun v => free || v < st.held).map fun v => (st.ccOf v, Pick.duty (.landing x))
    let late := (s.lateDue x).toList.map fun t => (t, Pick.duty (.landing x))
    let eff := st.effectDue.toList.map fun e => (st.effectCc e, Pick.duty (.deferredEffect x))
    let stop := st.stopDue.toList.map fun p => (p.1, Pick.duty (if p.2 then .stepStop x else .debugStop x))
    let v := s.nextVc x
    let go := if s.ready x v then [(st.ccOf v, Pick.issue x)] else []
    land ++ late ++ eff ++ stop ++ go

/-- The tests of a domain that are due, told at its first strand: where a late event's vc becomes fixed, and the test of the earliest,
one that comes before the vc at which the domain is held among them (R125, R434). A domain that is stopped has none (R369). -/
def State.testDue (s : State) (x : SId) : List Cand :=
  let ys := s.domain x
  if ys.head? ≠ some x || ys.any fun y => (s.strand y).run = .drained then []
  else
    let fixed := (ys.flatMap fun y => ((s.strand y).lates.filter (·.known ≠ 0)).map (·.known)).map fun t => (t, Pick.duty (.lateEventTest x))
    let h := (s.strand x).held
    let test := ((s.lateAt x).toList.filter fun t => h = 0 || t < h).map fun t => (s.testCc x t, Pick.duty (.lateEventTest x))
    fixed ++ test

/-- A sample that is due; in a slot in which the strand can issue, after it has. -/
def State.sampleDue (s : State) (x : SId) : List Cand :=
  let st := s.strand x
  match s.sampling x with
  | none => []
  | some per =>
    let t := s.sampleCc x per
    if st.run = .running && s.ready x (s.nextVc x) && st.ccOf (s.nextVc x) = t then []
    else [(t, Pick.duty (.madderSample x))]

/-- Every step that is due at some core cycle, none before the present one. -/
def State.cands (s : State) : List Cand :=
  ((s.agenda.zipIdx.map fun e => ((e.1.at_, Pick.agenda e.2 e.1.what) : Cand)) ++ s.allStrands.flatMap fun x => s.strandDue x ++ s.testDue x ++ s.sampleDue x).map
    fun c => (Nat.max c.1 s.clock.cc, c.2)

/-- The state in which a strand fetches its next word. -/
def State.atFetch (s : State) (x : SId) : State := { s with cur := x, choices := s.choices.tail }

/-- What the rules put first in one core cycle: a word that is not fetched holds its domain before anything of the vc, and the end of a
hold comes before what the vc that then begins brings (R126, R137); a
landing, whose stamp a tag check of the cycle sees (R138); last a pop, which comes after a cancel of the cycle (R76), and then
a steal, which comes after a pop (R83). -/
def State.rank (s : State) : Pick → Nat
  | .issue x => if (s.atFetch x).fetchLate x = 0 then 2 else 0
  | .agenda _ (.byteLanding _ _ _) => 1
  | .agenda _ (.holdEnd _ _) => 0
  | .agenda _ (.pop _) => 3
  | .agenda _ (.stealReply _) => 4
  | _ => 2

/-- A slice that serves requests: of a place that holds lines, with the number of the slice (R162), or of the map engines (R304). -/
inductive SliceId where
  | cache (place : Place) (slice : Nat)
  | map (slice : Nat)
deriving DecidableEq, Repr

/-- The slices of places on a way, as far as one that holds the line (R166). -/
def MemSys.slicesOn (m : MemSys) (l : Nat) : List Place → List SliceId
  | [] => []
  | p :: ps => .cache p (sliceAt p l) :: if (m.cached p (l / 128)).isSome then [] else m.slicesOn l ps

/-- The slices that a request for a line reaches on its way from a cluster, as far as one that holds it (R166); `l1` says whether its
own L1 may serve it. -/
def State.slicesFor (s : State) (cluster l : Nat) (l1 : Bool) : List SliceId :=
  let path := nearPath (clusterDie cluster) l
  if l1 then s.mem.slicesOn l (.l1 cluster :: path) else s.mem.slicesOn l (path.filter fun p => placeLevel p ≠ 1)

/-- The operands of a store's word: its base, policy register and offset, with its bytes. -/
def storeForm : Instr → Option (RField × QField × BitVec 11 × Nat)
  | .stB8 _ b q o => some (b, q, o, 1)
  | .stB16 _ b q o => some (b, q, o, 2)
  | .stB32 _ b q o => some (b, q, o, 4)
  | .stB64 _ b q o => some (b, q, o, 8)
  | .stv _ b q o => some (b, q, o, 16)
  | .stnLo _ a q | .stnHi _ a q => some (a, q, 0, 1)
  | _ => none

/-- A place that an access beyond scratch reaches, permitted or not. -/
def State.slicePlace (s : State) (x : SId) (ea : Word) (q : Policy) : Option Nat :=
  match s.resolve x ea q { kind := .read } with
  | .at_ l _ => if isScratchLoc l || isDev l then none else some l
  | _ => none

/-- The traffic class and the place of a store or a prefetch that a strand issues next and that is then performed at once; a prefetch
travels in class 3 (R176). -/
def State.nextStore (s : State) (x : SId) : Option (Nat × Nat) :=
  let c := ((s.strand x).settle (s.issueVc x)).ctx x (s.issueVc x)
  match (s.fetchLoc x).bind fun l => decode (s.wordAt (clusterOf x.core) l) with
  | some (.pref a q) => (s.slicePlace x (c.g (gA a)) (c.q q)).map fun l => (3, l)
  | some i => if !s.clear x then none else (storeForm i).bind fun (b, q, o, n) =>
      (s.slicePlace x (c.ea b o n) (c.q q)).map fun l => (polTc (c.q q), l)
  | none => none

/-- The traffic class and the place of a deferred store that is due. -/
def Strand.dueStore (st : Strand) : Option (Nat × Nat) :=
  st.effectDue.bind fun e => match e.eff with
    | .store _ (some (l, _)) _ _ q | .stn _ (some (l, _)) _ _ q => if isScratchLoc l || isDev l then none else some (polTc q, l)
    | _ => none

/-- The class and the map slice of a step of a macro on a map, at the shard that it has come to (R304, R308). -/
def State.macroSlice (s : State) (x : SId) : Option (Nat × List SliceId) :=
  let at_ (handle : Word) (q : Policy) (i : Nat) : Option (Nat × List SliceId) :=
    match s.mapCheck x handle q with
    | .inl m => some (polTc q, [.map ((m.p.home + i) % 256)])
    | .inr _ => none
  match (s.strand x).park.map Park.on with
  | some (.scan handle record _ q) => (s.slicePlace x record 0).bind fun l => at_ handle q (scanShard (s.natAt l 8))
  | some (.settle handle i q) => at_ handle q i
  | some (.clear handle q) => at_ handle q (s.strand x).regs.csr.mpx.toNat
  | some (.info handle _ q) => at_ handle q 0
  | _ => none

/-- The class and the map slice of the next probe of a MAPGETN (R322). -/
def State.probeSlice (s : State) (core id : Nat) : Option (Nat × List SliceId) :=
  ((s.core core).ops.find? (·.id = id)).bind fun o =>
    (s.openMap (s.heldLoc o o.cmd.third.toNat) o.cmd.third.toNat).map fun m =>
      let va := getnKeys o.cmd.record + o.next * m.p.kb
      let key := leNat ((List.range m.p.kb).map fun i => s.byteAt (s.heldLoc o (va + i)))
      (polTc o.cmd.q, [.map ((m.p.home + m.p.shardOf (m.p.hash key)) % 256)])

/-- The slices that a store reaches (R166, R176). -/
def State.storeSlices (s : State) (x : SId) (tc l : Nat) : Nat × List SliceId :=
  (tc, .cache (.l1 (clusterOf x.core)) (l1SliceOf l) :: s.slicesFor (clusterOf x.core) l false)

/-- The traffic class of a request that is due and the slices that it reaches (R176): a request in flight, a store as it passes and as it
is acknowledged, a step of a macro, or a probe. -/
def State.requestSlices (s : State) (p : Pick) : Option (Nat × List SliceId) :=
  match p with
  | .issue x => (s.nextStore x).map fun (tc, l) => s.storeSlices x tc l
  | .duty (.deferredEffect x) => (s.strand x).dueStore.map fun (tc, l) => s.storeSlices x tc l
  | .agenda _ (.mapscanSliceStep x) | .agenda _ (.settleStep x) | .agenda _ (.mapclrShardStep x) | .agenda _ (.mapinfoAnswer x) =>
    s.macroSlice x
  | .agenda _ (.mapgetnDispatch c id) => s.probeSlice c id
  | .agenda _ (.rangeStep x) => match (s.strand x).park.map Park.on with
    | some (.rangeMacro _ base _ q) =>
      (s.slicePlace x ((base &&& ~~~127) + BitVec.ofNat 64 (128 * (s.strand x).regs.csr.mpx.toNat)) q).map fun l =>
        (polTc q, s.slicesFor (clusterOf x.core) l true)
    | _ => none
  | .agenda _ (.homeSliceRequest x seq _) | .agenda _ (.sequencerAccept x seq) =>
    (((s.strand x).inflight.find? (·.seq = seq)).bind (·.req)).bind fun (r, _) =>
      (s.requestHome x r).map fun (q, l) =>
        (polTc q, match r with
          | .mapKey c => ((s.mapSlice x c).map SliceId.map).toList
          | .load _ _ _ _ _ => s.slicesFor (clusterOf x.core) l true
          | _ => s.slicesFor (clusterOf x.core) l false)
  | .agenda _ (.storePerformed x _) => (s.strand x).storeBuf.head?.map fun b => s.storeSlices x (if b.zero then 0 else 1) b.loc
  | _ => none

/-- At each slice, a request of class 0 goes ahead of the others that are due with it (R176). -/
def State.yieldsTo (s : State) (cs : List Cand) (c : Cand) : Bool :=
  match s.requestSlices c.2 with
  | some (tc, ks) => tc ≠ 0 && cs.any fun d => match s.requestSlices d.2 with
    | some (0, js) => js.any ks.contains
    | _ => false
  | none => false

/-- A strand's own steps, and the starts of its core's commands, come before its issue in the same core cycle: what has passed its fault
point there is behind the instruction (R133, R433), and a start's fault comes before the group at its vc (R141). -/
def Pick.precedes (d : Pick) (x : SId) : Bool :=
  match d with
  | .duty (.landing y) | .duty (.deferredEffect y) => y = x
  | .agenda _ (.arrayCommandStart c) | .agenda _ (.copyStart c) => c = x.core
  | _ => false

/-- A strand's issue comes after what precedes it. -/
def Pick.waitsFor (c d : Pick) : Bool := match c with | .issue x => d.precedes x | _ => false

/-- The steps that are due first, with their core cycle. -/
def State.firstCands (s : State) : List Cand :=
  let cs := s.cands
  match listMin (cs.map (·.1)) with
  | some t =>
    let now := cs.filter fun c => c.1 = t
    match listMin (now.map fun c => s.rank c.2) with
    | some r =>
      let first := now.filter fun c => s.rank c.2 = r
      if first.length ≤ 1 then first
      else first.filter fun c => !s.yieldsTo first c && !first.any fun d => c.2.waitsFor d.2
    | none => []
  | none => []

/-- The step that is taken: the first entry of `choices` names its place among those due first. -/
def State.pick (s : State) : Option Cand :=
  match s.firstCands with
  | [] => none
  | c :: cs => some ((c :: cs).getD (s.choices.headD 0 % (cs.length + 1)) c)

/-- The state in which an event takes place: the clock there, the event and the choice used up. -/
def State.atEvent (s : State) (c : Cand) : State :=
  let s := { s.tick c.1 with choices := s.choices.tail }
  match c.2 with
  | .agenda i _ => { s with agenda := s.agenda.eraseIdx i }
  | _ => s

end Sys2Proof.Machine
end

