-- ==== Sys2Proof/Machine/WorkSteps.lean ====
section
/-! DEFINITION. The steps of host queues, the dispatcher and the device runtime (R59 to R88): records submitted, launches
taken, units dealt and retired, gangs, cancellations, phases, and the creation and destruction of jobs. -/

namespace Sys2Proof.Machine

/-! ## Host queues (R60 to R64) -/

/-- A refusal shows in QSTAT and nowhere else. -/
def State.refuseRecord (s : State) (q : Nat) (b : Bad) : State :=
  let v := s.queue q
  s.setQueue q { v with refused := v.refused + 1, reason := BitVec.ofNat 8 b.1, field := BitVec.ofNat 10 b.2 }

/-- The cases of R62 in which the record is not read. -/
def State.queueBad (s : State) (q : Nat) (aligned : Bool) : Option Nat :=
  let v := s.queue q
  if !aligned then some 9
  else if !v.en then some 8
  else if (Tab.find? s.jobs v.job.toNat).isNone then some 10
  else if 64 ≤ v.waiting.length then some 7
  else none

/-- QCFG as read (R60). -/
def Queue.qcfg (v : Queue) : Word := v.job.setWidth 64 <<< 32 ||| BitVec.ofNat 64 (v.en.toNat * 2 ^ 31 + v.prio)

/-- QSTAT as read (R61). -/
def Queue.qstat (v : Queue) : Word :=
  BitVec.ofNat 64 (v.field.toNat * 2 ^ 48 + v.reason.toNat * 2 ^ 40 + v.waiting.length * 2 ^ 32 + v.refused.toNat * 2 ^ 16 +
    v.accepted.toNat)

/-- A dword of the queue region, whose queue q has its window at q × 4,096 (R59): SUBMIT is write-only and reads 0, as reserved
offsets do (R8). -/
def State.queueRead (s : State) (off : Nat) : Word :=
  if 131072 * 4096 ≤ off then 0
  else match off % 4096 with
    | 0x040 => (s.queue (off / 4096)).qstat
    | 0x080 => (s.queue (off / 4096)).qcfg
    | _ => 0

/-- An accepted record waits for the dispatcher (R61, R63). -/
def State.enqueue (s : State) (q : Nat) (r : Rec512) (prio : Nat) : State :=
  let v := s.queue q
  (s.setQueue q { v with accepted := v.accepted + 1, waiting := v.waiting ++ [(r, prio)] }).post 0 (.dispatcherTake (some q))

/-- A write to SUBMIT (R62). A counter record leaves nothing for the dispatcher to deal; neither does a launch that is
cancelled as it is accepted (R75). -/
def State.submit (s : State) (q : Nat) (aligned : Bool) (r : Rec512) : State :=
  let v := s.queue q
  let j := v.job.toNat
  match s.queueBad q aligned with
  | some n => s.refuseRecord q (n, 0)
  | none =>
    if recCnt r = 0 then
      match s.counterCheck j r with
      | some b => s.refuseRecord q b
      | none => (s.acceptCounter j r).enqueue q r 8
    else match s.launchCheck j r with
      | some b => s.refuseRecord q b
      | none =>
        let s := s.acceptLaunch j r
        s.enqueue q r (if (s.counter j (recCnt r)).cancel.isSome then 8 else Nat.max v.prio (recPrio r))

/-- The dispatcher takes the oldest record of a queue (R63). -/
def State.takeQueue (s : State) (q : Nat) : State :=
  let v := s.queue q
  match v.waiting with
  | [] => s
  | (r, p) :: rest => (s.setQueue q { v with waiting := rest }).takeLaunch v.job.toNat r p

/-- DISPATCHER_TAKE: from a queue, or from the LAUNCH instructions, with their own priority (R64). -/
def State.dispatch (s : State) (q : Option Nat) : State :=
  match q with
  | some q => s.takeQueue q
  | none => match s.disp.fromTasks with
    | [] => s
    | (j, r) :: rest => (s.modDisp fun d => { d with fromTasks := rest }).takeLaunch j r (recPrio r)

/-- The firmware has booted (R428, R431). -/
def State.booted (s : State) : Bool := s.fw.measured.isSome

/-- QCFG_WRITE (R60). A queue that is given to another job has been read empty. Firmware sets EN as the host directs, once it has
booted (R431). -/
def State.writeQcfg (s : State) (q : Nat) (w : Word) : State :=
  let en := bitOf w 31 && s.booted
  if (s.queue q).en then s.setQueue q { s.queue q with en := en }
  else
    let s := (s.queue q).waiting.foldl (fun t _ => t.takeQueue q) s
    s.setQueue q { s.queue q with en := en, job := BitVec.ofNat 32 (bitsOf w 63 32), prio := bitsOf w 2 0 }

/-! ## Units and phases (R70, R73) -/

/-- An ended task that holds nothing back any more: its engine operations have completed, and those of its unit's task before
a TYIELD (R73). -/
def Dispatcher.settled (d : Dispatcher) (j n : Nat) (r : Retiring) : Bool :=
  r.job = j && r.counter = n && r.ops = [] && (r.ended ≠ .unit || r.lineage = 0 || !d.yieldedOps r.lineage)

/-- UNIT_RETIRE: a unit whose engine operations have completed is counted (R73); a cancellation may have waited for it, and
other ended tasks of the counter. -/
def State.retireUnit (s : State) (j n : Nat) : State :=
  match s.disp.retiring.find? (s.disp.settled j n) with
  | some r =>
    let s := s.modDisp fun d => { d with retiring := d.retiring.erase r }
    let s := if r.ended = .unit then s.countDown j n else s
    let s := if s.disp.retiring.any fun e => e.job = j && e.counter = n then s.post 0 (.unitRetire j n) else s
    if (s.counter j n).cancel.isSome then s.post 0 (.cancelComplete j n) else s
  | none => s

/-- The dies that hold cores of a job. -/
def Job.dies (b : Job) : List Nat := (b.cores.map coreDie).dedup

/-- PHASE_AGENT_ARRIVAL: the release follows 64 cc after the last arrival (R70). -/
def State.phaseArrive (s : State) (j die : Nat) : State :=
  let b := s.job j
  if b.phaseOf = [] || b.phaseDies.contains die || !b.dies.contains die then s
  else
    let s := s.modJob j fun b => { b with phaseDies := die :: b.phaseDies }
    if b.dies.all fun d => d = die || b.phaseDies.contains d then s.post 64 (.phaseBarrier j) else s

/-- PHASE_BARRIER: the phase ends, the job's forwarding entries with it (R70), and the phase counter is DONE (R69). The agents
then arrive for the next phase counter that has completed. -/
def State.phaseEnd (s : State) (j : Nat) : State :=
  let b := s.job j
  match b.phaseOf with
  | n :: rest =>
    if b.dies.all b.phaseDies.contains then
      let s := ((s.modJob j fun b => { b with phaseOf := rest, phaseDies := [] }).dropForwards j).counters j [.finish n]
      if rest = [] then s else s.phaseCall j
    else s
  | [] => s

/-! ## Migration's end (R379, R394) -/

/-- MIGRATION_COMPLETE, while a MIGRATE of these cores waits for it. -/
def State.migrateEnd (s : State) (a b : Nat) : State :=
  if s.allStrands.any fun x => (s.strand x).park.any fun p => p.on = ParkOn.migrate a b then s.migrate a b else s

/-! ## Jobs (R58, R66, R70, R427) -/

/-- JOB_CREATE, of the device's runtime, which runs once firmware has booted (R428, R431): a number that no live job has, also modulo
65,536 (R398), and cores that are free. The counters read as 0, and the cores' delay accumulators are 0 (R427). -/
def State.createJob (s : State) (j : Nat) (cores : List Nat) (counters : Nat) (part : Part) (channels : List (Nat × Nat))
    (phase : Option Nat) : State :=
  let free (c : Nat) : Bool := (s.core c).job.isNone && (s.core c).forward.isNone
  if !s.booted || 2 ^ 32 ≤ j || cores = [] || !cores.all free || s.jobs.any fun (k, _) => k % 65536 = j % 65536 then s
  else
    let s := s.setJob j { Job.empty with cores := cores, nctr := counters, channels := channels, phase := phase }
    cores.foldl (fun t c =>
      let t := t.modCore c fun k => { k with job := some j, part := part, delays := [], high := [], normal := [] }
      (t.userStrands c).foldl (fun t x =>
        (t.dropRound x).post 0 (.pop x)) t) s

/-- What the allocator's map of a live map holds stays where it lies (R300). -/
def State.leaveMap (s : State) (v : LiveMap) : State :=
  (List.range (allocMapSize v.size)).foldl (fun t i =>
    let l := v.loc (v.size - allocMapSize v.size + i)
    t.setByte l (s.byteAt l)) s

/-- JOB_DESTROY: the job's tasks end, its records go, its cores are free, and its maps are no longer live. -/
def State.destroyJob (s : State) (j : Nat) : State :=
  match Tab.find? s.jobs j with
  | none => s
  | some b =>
    let s := (s.tasksOf j).foldl (fun t x => t.endTask x) s
    let s := (s.mem.maps.filter (·.job = j)).foldl State.leaveMap s
    let s := b.cores.foldl (fun t c =>
      let t := t.modCore c fun k => { k with job := none, forward := none, high := [], normal := [] }
      (t.userStrands c).foldl (fun t x => t.modStrand x fun st => { st with run := .idle, gang := none }) t) s
    { s with
      jobs := Tab.drop s.jobs j, gangs := s.gangs.filter fun (_, v) => v.job ≠ j,
      mem := { s.mem with maps := s.mem.maps.filter fun v => v.job ≠ j },
      disp :=
        { fromTasks := s.disp.fromTasks.filter fun e => e.1 ≠ j, launches := s.disp.launches.filter fun l => l.job ≠ j,
          retiring := s.disp.retiring.filter fun r => r.job ≠ j, returned := s.disp.returned.filter fun e => e.1 ≠ j } }

end Sys2Proof.Machine
end

