-- ==== Sys2Proof/Machine/DeviceSteps.lean ====
section
/-! DEFINITION. The steps of agents outside the cores: walkers (R401, R402), the host and peers (R405, R407, R413), device
registers (R8, R9), collective engines (R414 to R416), Madder (R425, R426), the time unit (R423), clamps, firmware and
attestation (R428 to R431), soft errors (R187). -/

namespace Sys2Proof.Machine

/-! ## Walks (R401, R402) -/

/-- An entry is held once. -/
def MemSys.hold (m : MemSys) (e : TlbEntry) : MemSys := if m.tlb.contains e then m else { m with tlb := e :: m.tlb }

/-- What a walk leaves: the cluster's TLB holds the leaf, and its die's cache every entry that the walk read. A walk that faults
leaves nothing. -/
def State.holdWalk (s : State) (cluster job va : Nat) : State :=
  let die := clusterDie cluster
  match s.heldLeaf cluster job va with
  | some e => s.modMem fun m => m.hold { e with cluster := some cluster, die := die }
  | none => match s.walkHeld cluster job va with
    | none => s
    | some es => s.modMem fun m =>
        let m := es.foldl (fun (m : MemSys) e => m.hold ⟨none, die, job, e.2.1, e.2.2, e.1⟩) m
        match es with
        | e :: _ => m.hold ⟨some cluster, die, job, e.2.1, e.2.2, e.1⟩
        | [] => m

/-- PAGE_WALK: it leaves its entries, and the accesses of the cluster that waited for it go on (R124). -/
def State.pageWalk (s : State) (cluster job va : Nat) : State :=
  s.allStrands.foldl (fun t x => if clusterOf x.core = cluster && t.jobOf x = job then t.walked x va else t) (s.holdWalk cluster job va)

/-! ## Requests from outside (R405, R407, R429) -/

/-- Lines are served at their home L2 after every copy in the package has been recalled (R407). The L2 and the LLC take them as on a
core's request (R166, R182), in the class of an image of zeros. -/
def State.homeAll (s : State) (l n : Nat) (write : Bool) : State :=
  (linesOf l n).foldl (fun t i => (t.recall i).homeAccess i .stream write) s

/-- Bytes that enter the device take their codes (R185); a poisoned sector is marked. -/
def State.ingress (s : State) (l : Nat) (bs : List Byte) (poison : Bool) : State :=
  let t := s.write l bs
  if poison then
    (List.range ((l + bs.length - 1) / 32 + 1 - l / 32)).foldl (fun t i => t.setBad ((l / 32 + i) * 32) true) t
  else t

/-- A CXL.mem request lies in an enabled window; a limit is the last address of its window (notes/assumptions/25.md). -/
def State.inHostWindow (s : State) (l n : Nat) : Bool :=
  s.fw.windows.any fun w => w.enabled && w.base ≤ l && l + n ≤ w.limit + 1

/-- Where a request from outside lies: a read takes the 128 bytes of its line (notes/assumptions/42.md). -/
def ingressRange (r : Ingress) (pa : Nat) : Nat × Nat :=
  match r with | .read => (pa / 128 * 128, 128) | .write bs => (pa, bs.length) | .atomic _ n _ _ _ => (pa, n)

/-- A peer's atomic at the home (R351, R407, R408): the old value is answered, with its sector's mark. One that finds a bad sector
changes nothing, as one of a core does (R186, R352; notes/assumptions/59.md). -/
def State.ingressAtomic (s : State) (l n : Nat) (op : AOp) (y c : Word) (mode : Nat) : State :=
  let old := s.natAt l n
  let marks := s.sectorMarks l n
  let v := atomicNew op n (mode % 8) (mode / 8 = 1) old (y.toNat % 2 ^ (8 * n))
  let s := s.homeAll l n true
  let s := if marks.any id || (op = .cas && old ≠ c.toNat % 2 ^ (8 * n)) then s else s.write l (leBytes n v)
  s.answer (.data (leBytes n old) marks)

/-- INGRESS_REQUEST. A request that meets a lock waits at the home. -/
def State.serveIngress (s : State) (pa : Nat) (r : Ingress) (poison peer : Bool) : State :=
  let (l, n) := ingressRange r pa
  if s.fw.recovery || n = 0 then s
  else if Config.hbmEnd < l + n || !(peer || s.inHostWindow l n) then s.answer .error
  else if r = .read then
    if s.loadLocked l n then s.post 1 (.ingressRequest pa r poison peer)
    else (s.homeAll l n false).answer (.data (s.bytesAt l n) (s.sectorMarks l n))
  else if s.mapLocked l n then s.answer .error
  else if s.storeLocked l n then s.post 1 (.ingressRequest pa r poison peer)
  else match r with
    | .write bs => ((s.homeAll l n true).ingress l bs poison).answer .done
    | .atomic op n y c mode => if peer then s.ingressAtomic l n op y c mode else s.answer .error
    | .read => s

/-- HOST_SNOOP: copies of a host line are recalled, and the line answered; the host's new bytes, if it writes, stand in its
memory from then on. -/
def State.snooped (s : State) (line : Nat) (data : Option (List Byte)) : State :=
  let l := line * 128
  if !isHost l || s.fw.recovery then s
  else
    let recalled := s.modMem fun m => m.recallLine line fun _ => true
    let s := recalled.answer (.snoop (s.bytesAt l 128) (s.sectorMarks l 128))
    match data with
    | some bs => s.ingress l (bs.take 128) false
    | none => s

/-! ## Soft errors (R187) -/

/-- SOFT_ERROR: one that ECC corrects has no effect; any other marks its sector, in memory, in scratch or in one copy. -/
def State.softError (s : State) (k : Struck) (correctable : Bool) : State :=
  if correctable then s
  else match k with
    | .mem n => if isMemory (n * 32) then s.modMem fun m => { m with bad := NSet.put m.bad n } else s
    | .copy p n => s.modMem fun m => m.modCopy p (n / 4) fun e => e.setBad (n * 32) true
    | .scratch c n => if coreIdOk c && n < 8192 then s.setBad (Config.scratchLoc c (n * 32)) true else s

/-! ## Collective engines (R414 to R416) -/

def colReg (die : Nat) : Nat := colBase + die * 0x100
def State.colHead (s : State) (die : Nat) : Word := s.mem.devReg (colReg die + 0x10)
def State.colLog2 (s : State) (die : Nat) : Nat := bitsOf (s.mem.devReg (colReg die)) 60 56
def State.colErr (s : State) (die : Nat) : Bool := bitOf (s.colHead die) 63
/-- P: steps posted and not yet run. -/
def State.colPosted (s : State) (die : Nat) : Nat :=
  (bitsOf (s.mem.devReg (colReg die + 8)) 31 0 + 2 ^ 32 - bitsOf (s.colHead die) 31 0) % 2 ^ 32

def State.setColHead (s : State) (die : Nat) (err : Bool) (idx : Nat) : State :=
  s.modMem fun m => m.setDev (colReg die + 0x10) (BitVec.ofNat 64 (err.toNat * 2 ^ 63 + idx % 2 ^ 32))

/-- Where the step record at COLHEAD.IDX stands. -/
def State.colStepAt (s : State) (die : Nat) : Nat :=
  bitsOf (s.mem.devReg (colReg die)) 51 0 + 64 * (bitsOf (s.colHead die) 31 0 % 2 ^ s.colLog2 die)

/-- The step record at COLHEAD.IDX. -/
def State.colStep (s : State) (die : Nat) : Rec512 := BitVec.ofNat 512 (s.natAt (s.colStepAt die) 64)

def stepWdog (r : Rec512) : Nat := bitsOf r 511 448
def stepLen (r : Rec512) : Nat := bitsOf r 447 384
def stepDst (r : Rec512) : Nat := bitsOf r 383 327
def stepSrc (r : Rec512) : Nat := bitsOf r 319 263
def stepSeq (r : Rec512) : Nat := bitsOf r 255 224
def stepPeer (r : Rec512) : Nat := bitsOf r 223 216
def stepOp (r : Rec512) : Nat := bitsOf r 215 208
def stepJob (r : Rec512) : Nat := bitsOf r 207 176

/-- Bytes of an element of receive and add; 1 for SEND and RECV. -/
def stepSize (r : Rec512) : Nat := match stepOp r with | 2 | 5 => 4 | 3 => 2 | 4 => 8 | _ => 1

/-- A bad record: a reserved bit, a reserved operation, or a length of no whole number of elements. -/
def stepRecordBad (r : Rec512) : Bool :=
  bitsOf r 175 0 ≠ 0 || bitsOf r 262 256 ≠ 0 || bitsOf r 326 320 ≠ 0 || 5 < stepOp r || stepLen r % stepSize r ≠ 0

/-- An event record of a step in its job's trace ring (R415). -/
def State.colEvent (s : State) (die : Nat) (r : Rec512) (kind status : Nat) : State :=
  s.trace (stepJob r) (traceRecord s.clock.ns (stepSeq r) (stepJob r) kind status (stepPeer r) die)

/-- The end of a step: it is counted; a failure sets ERR, which software alone clears (R414, R416). -/
def State.colEnd (s : State) (die : Nat) (r : Rec512) (status : Nat) : State :=
  let s := s.colEvent die r 1 status
  let err := s.colErr die || status ≠ 0
  let s := s.setColHead die err (bitsOf (s.colHead die) 31 0 + 1)
  let s := { s with coll := Tab.put s.coll die Collective.idle }
  let s := s.jobs.foldl (fun t (j, b) =>
    if b.run = JobRun.stopping then t.post 0 (.quiesceMarkerPass j (.collective die)) else t) s
  if err then s else s.post 0 (.collectiveStepStart die)

/-- COLTAIL_WRITE. -/
def State.writeColtail (s : State) (die : Nat) (v : Word) : State :=
  let s := s.modMem fun m => m.writeDev (colReg die + 8) v
  if 2 ^ s.colLog2 die < s.colPosted die then
    (s.colEvent die (s.colStep die) 1 3).setColHead die true (bitsOf (s.colHead die) 31 0)
  else s.post 0 (.collectiveStepStart die)

/-- COLHEAD_ERR_CLEAR. -/
def State.clearColErr (s : State) (die : Nat) : State :=
  (s.setColHead die false (bitsOf (s.colHead die) 31 0)).post 0 (.collectiveStepStart die)

/-- Core cycles that last at least the given ns. -/
def State.ccFor (s : State) (ns : Nat) : Nat := (ns * s.clock.mhz * 1000000 + 999999999) / (1000 * (1000000 + s.clock.ppm).toNat) + 1

/-- COLLECTIVE_STEP_START: no step of a job that stops is started (R371). A step that fails by its record ends at once; a record that
stands in a bad sector fails with status 2 (notes/assumptions/59.md, R416). -/
def State.colStart (s : State) (die : Nat) : State :=
  let r := s.colStep die
  if (Tab.get Collective.idle s.coll die).running.isSome || s.colErr die || s.colPosted die = 0 || 8 ≤ die ||
      (s.job (stepJob r)).run ≠ JobRun.running then s
  else
    let s := { s.colEvent die r 0 0 with coll := Tab.put s.coll die ⟨some (r, s.clock.ns)⟩ }
    if (s.sectorMarks (s.colStepAt die) 64).any id then s.colEnd die r 2
    else if stepRecordBad r then s.colEnd die r 3
    else if stepWdog r = 0 then s
    else s.post (s.ccFor (stepWdog r)) (.watchdogExpiry die)

/-- WATCHDOG_EXPIRY. -/
def State.watchdog (s : State) (die : Nat) : State :=
  match (Tab.get Collective.idle s.coll die).running with
  | some (r, t) =>
    if stepWdog r = 0 then s
    else if s.clock.ns < t + stepWdog r then s.postOnce (s.ccFor (t + stepWdog r - s.clock.ns)) (.watchdogExpiry die)
    else (s.colEvent die r 2 1).colEnd die r 1
  | none => s

/-- A step's accesses are translated for its job through its die's cache, at task privilege (notes/assumptions/26.md). -/
def State.colAt (s : State) (die : Nat) (r : Rec512) (va : Nat) (kind : Access) : Option Nat :=
  match s.translate (die * 128) (stepJob r) false (BitVec.ofNat 64 va) { kind := kind } false with
  | .at_ l _ => some l
  | _ => none

/-- The locations of n bytes of virtual addresses, one by one; none where one does not translate. -/
def State.colLocs (s : State) (die : Nat) (r : Rec512) (kind : Access) : Nat → Nat → Option (List Nat)
  | _, 0 => some []
  | va, n + 1 => match s.colAt die r va kind with
    | none => none
    | some l => (s.colLocs die r kind (va + 1) n).map (l :: ·)

/-- An element of receive and add (R414). -/
def stepAdd (op x y : Nat) : Nat :=
  let float (t : Fmt) : Nat := pack t 0 0 false (sumFV [unpack t x, unpack t y] false)
  match op with
  | 2 => float .f
  | 3 => float .bf
  | 4 => float .d
  | _ => (x + y) % 2 ^ 32

def chunks (n : Nat) : Nat → List Byte → List (List Byte)
  | 0, _ => []
  | k + 1, bs => bs.take n :: chunks n k (bs.drop n)

/-- What a step writes at DST. -/
def stepData (r : Rec512) (src incoming : List Byte) : List Byte :=
  let n := stepSize r
  if stepOp r = 1 then incoming
  else ((chunks n (incoming.length / n) src).zip (chunks n (incoming.length / n) incoming)).flatMap fun (a, b) =>
    leBytes n (stepAdd (stepOp r) (leNat a) (leNat b))

/-- Bytes written one by one, each sector that is wholly written taking a new code (R185). -/
def State.colWrite (s : State) (ls : List Nat) (bs : List Byte) : State :=
  let t := (ls.zip bs).foldl (fun t (l, b) => (t.recall (l / 128)).setByte l b) s
  (ls.filter fun l => l % 32 = 0 && (List.range 32).all fun i => ls.contains (l + i)).foldl (fun t l => t.setBad l false) t

/-- The work of a step, with the bytes that its peer sent: the state after it, or the status of its failure. -/
def State.colRun (s : State) (die : Nat) (r : Rec512) (incoming : List Byte) (poison : Bool) : State ⊕ Nat :=
  let bad (ls : List Nat) : Bool := ls.any s.isBad
  match (if stepOp r = 1 then some [] else s.colLocs die r .read (stepSrc r) (stepLen r)) with
  | none => .inr 4
  | some src =>
    if bad src then .inr 2
    else if stepOp r = 0 then .inl (s.answer (.step (stepPeer r) (stepSeq r) (src.map s.byteAt)))
    else if incoming.length ≠ stepLen r then .inr 3
    else if poison then .inr 2
    else match s.colLocs die r .write (stepDst r) (stepLen r) with
      | none => .inr 4
      | some dst =>
        if dst.any fun l => s.storeLocked l 1 then .inr 4
        else .inl (s.colWrite dst (stepData r (src.map s.byteAt) incoming))

/-- COLLECTIVE_STEP_END: the exchange with the peer is complete. -/
def State.colFinish (s : State) (die : Nat) (incoming : List Byte) (poison : Bool) : State :=
  match (Tab.get Collective.idle s.coll die).running with
  | some (r, _) => match s.colRun die r incoming poison with
    | .inl t => t.colEnd die r 0
    | .inr n => s.colEnd die r n
  | none => s

/-! ## Madder (R425, R426) -/

/-- MADCFG_CLR: the other fields take what is written. -/
def State.clearMadder (s : State) (die : Nat) (v : Word) : State :=
  s.modMem fun m => { m.writeDev (madReg die) v with bins := m.bins.filter fun e => e.1 / 65536 ≠ die }

def ParkReason.row : ParkReason → Nat
  | .serial => 12 | .fullEmpty => 4 | .message => 5 | .barrierPhase => 6 | .woad => 7 | .sfu => 8 | .stream => 9
  | .writeBlocked => 10

/-- The rows of R426 for a strand's park. An instruction that waits behind earlier fault points or accesses stands in no row of its
own, but for TLBINV, whose wait serialises (R417); what stands parked beneath such a wait counts. -/
def Strand.parkRows (st : Strand) : List Nat :=
  (match st.park with
    | none => []
    | some p => match p.on with
      | .order _ => []
      | .effect =>
        let inv := st.deferred.any fun d => d.seq = p.seq && (match d.eff with | .tlbinv _ _ _ => true | _ => false)
        if p.reason = .serial && !inv then [] else [p.reason.row]
      | _ => [p.reason.row]) ++
    (if st.under.isSome then
      (st.deferred.filterMap fun d => d.stuck.map ParkReason.row) ++ (if st.inflight.any (·.atWord) then [ParkReason.row .fullEmpty] else [])
    else [])

/-- The states of R426 in which a strand's slot at vc v stands; an instruction that issued there is the last one. -/
def State.slotRows (s : State) (x : SId) (v : Nat) : List Nat :=
  let st := s.strand x
  let h := readHints st.group
  let row (b : Bool) (n : Nat) : List Nat := if b then [n] else []
  row (st.issued ≠ 0 && st.lastV = v) 0 ++ row (st.group ≠ [] && st.slot = v + s.rotation x) 1 ++
    row (st.group ≠ [] && h.dly ≠ 0 && v < st.lastV + h.dly) 2 ++ row (st.deferred ≠ []) 3 ++
    st.parkRows ++ row (s.barred x v) 11 ++ row st.regs.csr.status.inh 13 ++
    row (st.run = .drained || st.run = .debugStopped || st.drainT.any (· ≤ v)) 14 ++ row (st.run = .idle || st.run = .waiting) 15

/-- MADDER_SAMPLE, in a slot that is to be sampled. -/
def State.sample (s : State) (x : SId) : State :=
  match s.sampling x with
  | none => s
  | some per =>
    if s.sampleCc x per ≠ s.clock.cc then s
    else
      let st := s.strand x
      let die := coreDie x.core
      let w := s.mem.devReg (madReg die)
      let base := bitsOf (s.mem.devReg (madReg die + 8)) 56 0
      let p := st.groupPc.toNat
      let b := if p < base then 4095 else Nat.min 4095 ((p - base) / 2 ^ bitsOf w 61 56)
      let r := (s.slotRows x (s.clock.cc - st.base)).foldl (fun m n => some (Nat.max n (m.getD 0))) (none : Option Nat)
      let k := die * 65536 + 16 * b + r.getD (Config.unlistedSlot s.clock.cc).toNat
      let old := (Tab.get 0 s.mem.bins k).toNat
      let s := s.modMem fun m => { m with bins := Tab.set 0 m.bins k (BitVec.ofNat 32 (Nat.min (old + 1) (2 ^ 32 - 1))) }
      s.modStrand x fun st => { st with sampled := s.clock.cc + 1 }

/-! ## The time unit and the clamps (R423, R424, R429) -/

/-- PTP_MESSAGE, once firmware runs the management Ethernet port (R428): the rate is slewed by at most 200 ppm; one step forward as LOCK becomes 1; OFFSET saturates. -/
def Clock.discipline (c : Clock) (lock : Bool) (offset : BitVec 32) (slew : Int) (forward : Nat) : Clock :=
  { c with lock := lock, offset := if offset = 0x80000000 then 0x80000001 else offset, ppm := max (-200) (min 200 slew),
           ns := if lock && !c.lock then c.ns + forward else c.ns }

/-- CLAMP_SAMPLE: the core clock goes down by 25 MHz, to no less than 300 MHz (notes/assumptions/27.md). -/
def State.clamp (s : State) (watts celsius : Nat) : State :=
  let c := s.clock
  let mhz := if s.fw.powerLimit < watts || 105 < celsius then Nat.max 300 (c.mhz - 25) else c.mhz
  { s with clock := { c with mhz := mhz, frac := c.frac * mhz / c.mhz } }

/-! ## Registers (R8, R9) -/

/-- A write to DBGCTL (R383): GO, then STOP. -/
def State.writeDbgctl (s : State) (x : SId) (v : Word) : State :=
  let s := s.setDbg x v
  let s := if bitOf v 1 then s.go x else s
  if bitOf v 0 then s.askStop x else s

/-- The registers that the spec places outside the physical address space, for which the model's numbers begin at 2^52
(notes/assumptions/28.md): the host's window registers, the firmware's power limit, and its routes to peers. -/
def outsideBase : Nat := 2 ^ 52

/-- A write beyond the physical addresses. The host writes its windows through CXL.io, which is up in recovery too; what firmware sets
stays then (R428). -/

def State.writeOutside (s : State) (o : Nat) (v : Word) : State :=
  let fw := s.fw
  let window (f : HostWindow → HostWindow) : State :=
    { s with fw := { fw with windows := fw.windows.zipIdx.map fun (w, i) => if i = o / 4 then f w else w } }
  if o < 32 then
    match o % 4 with
    | 0 => window fun w => { w with base := v.toNat }
    | 1 => window fun w => { w with limit := v.toNat }
    | 2 => window fun w => { w with enabled := bitOf v 0 }
    | _ => s
  else if fw.recovery then s
  else if o = 32 then { s with fw := { fw with powerLimit := Nat.min 2400 v.toNat } }
  else if 256 ≤ o && o < 512 then { s with fw := { fw with routes := NSet.setTo fw.routes (o - 256) (bitOf v 0) } }
  else s

/-- REGISTER_WRITE: a register that other rows of the table write too acts as they say. -/
def State.writeRegister (s : State) (a : Nat) (v : Word) : State :=
  if outsideBase ≤ a then s.writeOutside (a - outsideBase) v
  else if isDbg a then
    if dbgOff a = 0xFF0 then s.writeDbgctl (dbgSid a) v else s.dbgWrite a v
  else if colBase ≤ a && a < colBase + 0x800 && (a - colBase) % 0x100 = 8 then s.writeColtail ((a - colBase) / 0x100) v
  else if colBase ≤ a && a < colBase + 0x800 && (a - colBase) % 0x100 = 0x10 then
    (if bitOf v 63 then s.clearColErr ((a - colBase) / 0x100) else s)
  else if madBase ≤ a && a < madBase + 0x800000 && (a - madBase) % 0x100000 = 0 && bitOf v 62 then
    s.clearMadder ((a - madBase) / 0x100000) v
  else s.modMem fun m => m.writeDev a v

/-! ## Firmware (R428, R430, R431) -/

/-- The boot ROM accepts an image (R428). -/
def imageAccepted (i : Image) : Bool := i.signed && Config.minVersion ≤ i.version

/-- The core identifiers of the package (R16). -/
def allCores : List Nat := (List.range 8192).filter coreIdOk

/-- A strand of the runtime begins at supervisor privilege, its other registers at their reset values (R431; notes/assumptions/60.md). -/
def State.startRuntime (s : State) (x : SId) (pc : Word) : State :=
  if !coreIdOk x.core || s.rotation x ≤ x.strand + 1 then s
  else s.setStrand x { Strand.reset with
    run := .running, pc := pc, phase := x.strand,
    regs := { Regs.reset with csr := { Csrs.reset with status := { Status.reset with priv := true } } } }

/-- Step 4 of R431: a runtime image is verified as the firmware was, measured and loaded, and its strands start. One that is not
accepted leaves nothing. -/
def State.startBoot (s : State) (b : Boot) : State :=
  let s := b.regs.foldl (fun t r => if isDev r.1 then t.writeRegister r.1 r.2 else t) s
  match b.runtime with
  | none => s
  | some i =>
    if !imageAccepted i then s
    else
      let s : State := { s with fw := { s.fw with runtime := some (Config.shake256 i.bytes) } }
      let s := if isHbm (b.place + i.bytes.length) then s.write b.place i.bytes else s
      b.starts.foldl (fun t p => t.startRuntime p.1 p.2) s

/-- DEVICE_RESET: every register takes its reset value; firmware that is accepted sets SVEC and starts the runtime, else the device is
in recovery. `flash` says what flash holds where nothing has been written to it yet. -/
def State.deviceReset (s : State) (flash : Image) (boot : Boot) : State :=
  let i := s.fw.flash.getD flash
  let fw := { Firmware.reset with flash := some i }
  let t := { State.reset with out := s.out, choices := s.choices }
  if imageAccepted i then
    State.startBoot { t with
      fw := { fw with measured := some (Config.shake256 i.bytes) },
      cores := allCores.map fun c => (c, { Core.reset with svec := boot.svec &&& vecMask }) } boot
  else { t with fw := { fw with recovery := true } }

/-- RECOVERY_IMAGE_WRITE, in recovery. -/
def State.writeImage (s : State) (image : Image) : State :=
  if s.fw.recovery then { s with fw := { s.fw with flash := some image } } else s

/-- The device identity key (R430). -/
def identityKey : List Byte := Config.shake256Key Config.fusedSecret

/-- ATTESTATION_REQUEST: the report's fields in the order of R430, then its signature. -/
def State.attest (s : State) (nonce : Rec512) : State :=
  let meas (m : Option Rec512) : List Byte := leBytes 64 (m.getD 0).toNat
  let body := leBytes 64 nonce.toNat ++ meas s.fw.measured ++ meas s.fw.runtime ++ leBytes 8 Config.serialNumber ++
    leBytes 8 ((s.fw.flash.map (·.version)).getD 0)
  if s.fw.recovery then s else s.answer (.report (body ++ Config.ed448Sign identityKey body))

end Sys2Proof.Machine
end

