-- ==== Sys2Proof/Machine/DeviceEvents.lean ====
section
/-! DEFINITION. The meanings of the steps of the opcode table that have no word: those of agents outside the cores. A step that is not
enabled changes nothing (notes/assumptions/1.md). -/

namespace Sys2Proof.Machine

/-- PAGE_WALK (R401). -/
def execPageWalk (cluster job : Nat) (va : Word) (_access : Access) (s : State) :
    Host.Outcome State Fault Refusal := .next (s.pageWalk cluster job va.toNat)

/-- INGRESS_REQUEST (R407). -/
def execIngressRequest (pa : Nat) (request : Ingress) (poison peer : Bool) (s : State) :
    Host.Outcome State Fault Refusal := .next (s.serveIngress pa request poison peer)

/-- HOST_SNOOP (R405). -/
def execHostSnoop (line : Nat) (data : Option (List Byte)) (s : State) : Host.Outcome State Fault Refusal := .next (s.snooped line data)

/-- COLTAIL_WRITE (R414). -/
def execColtailWrite (die : Nat) (value : Word) (s : State) : Host.Outcome State Fault Refusal := .next (s.writeColtail die value)

/-- COLHEAD_ERR_CLEAR (R416). -/
def execColheadErrClear (die : Nat) (s : State) : Host.Outcome State Fault Refusal := .next (s.clearColErr die)

/-- COLLECTIVE_STEP_START (R414). -/
def execCollectiveStepStart (die : Nat) (s : State) : Host.Outcome State Fault Refusal := .next (s.colStart die)

/-- COLLECTIVE_STEP_END (R414). -/
def execCollectiveStepEnd (die : Nat) (incoming : List Byte) (poison : Bool) (s : State) :
    Host.Outcome State Fault Refusal := .next (s.colFinish die incoming poison)

/-- WATCHDOG_EXPIRY (R416). -/
def execWatchdogExpiry (die : Nat) (s : State) : Host.Outcome State Fault Refusal := .next (s.watchdog die)

/-- MADCFG_CLR (R425). -/
def execMadcfgClr (die : Nat) (value : Word) (s : State) : Host.Outcome State Fault Refusal := .next (s.clearMadder die value)

/-- MADDER_SAMPLE (R426). -/
def execMadderSample (sid : SId) (s : State) : Host.Outcome State Fault Refusal := .next (s.sample sid)

/-- PTP_MESSAGE (R423): in recovery, where only CXL.io is up, no message comes (R428). -/
def execPtpMessage (lock : Bool) (offset : BitVec 32) (slew : Int) (forward : Nat) (s : State) :
    Host.Outcome State Fault Refusal :=
  .next (if s.fw.recovery then s else { s with clock := s.clock.discipline lock offset slew forward })

/-- CLAMP_SAMPLE (R429). -/
def execClampSample (watts celsius : Nat) (s : State) : Host.Outcome State Fault Refusal := .next (s.clamp watts celsius)

/-- DEVICE_RESET (R431). -/
def execDeviceReset (image : List Byte) (signed : Bool) (version : Nat) (boot : Boot) (s : State) : Host.Outcome State Fault Refusal :=
  .next (s.deviceReset ⟨image, signed, version⟩ boot)

/-- RECOVERY_IMAGE_WRITE (R428). -/
def execRecoveryImageWrite (image : List Byte) (signed : Bool) (version : Nat) (s : State) : Host.Outcome State Fault Refusal :=
  .next (s.writeImage ⟨image, signed, version⟩)

/-- ATTESTATION_REQUEST (R430). -/
def execAttestationRequest (nonce : Rec512) (s : State) : Host.Outcome State Fault Refusal := .next (s.attest nonce)

/-- REGISTER_WRITE (R8). -/
def execRegisterWrite (address : Nat) (value : Word) (s : State) : Host.Outcome State Fault Refusal := .next (s.writeRegister address value)

/-- SOFT_ERROR (R187). -/
def execSoftError (struck : Struck) (correctable : Bool) (s : State) : Host.Outcome State Fault Refusal := .next (s.softError struck correctable)

end Sys2Proof.Machine
end

