-- ==== Sys2Proof/Machine/Scalar.lean ====
section
/-! DEFINITION. The scalar integer instructions (R144 to R147, R151, R152, R159): each reads its operands at issue and
lands its result by the latency table (R135). -/

namespace Sys2Proof.Machine

/-! ## Values (R145, R146, R152) -/

/-- DIV (R145): truncated toward zero; all ones for y = 0. The overflow wraps to -2^63. -/
def divS (x y : Word) : Word := if y = 0 then BitVec.allOnes 64 else BitVec.ofInt 64 (x.toInt.tdiv y.toInt)
/-- REM (R145): the sign of x; x for y = 0. -/
def remS (x y : Word) : Word := if y = 0 then x else BitVec.ofInt 64 (x.toInt.tmod y.toInt)
/-- DIVZ (R145). -/
def divU (x y : Word) : Word := if y = 0 then BitVec.allOnes 64 else BitVec.ofNat 64 (x.toNat / y.toNat)
/-- REMZ (R145). -/
def remU (x y : Word) : Word := if y = 0 then x else BitVec.ofNat 64 (x.toNat % y.toNat)
/-- Bits 127 to 64 of the signed product (R145). -/
def mulHS (x y : Word) : Word := BitVec.ofInt 64 (x.toInt * y.toInt / 2 ^ 64)
/-- Bits 127 to 64 of the unsigned product (R145). -/
def mulHU (x y : Word) : Word := BitVec.ofNat 64 (x.toNat * y.toNat / 2 ^ 64)
/-- A shift or rotate count: y[5:0] (R145). -/
def count6 (y : Word) : Nat := y.toNat % 64
/-- One or zero. -/
def word1 (b : Bool) : Word := if b then 1 else 0

/-- Leading zeros of a number of w bits; w for 0 (R146, R255). -/
def leadingZeros : Nat → Nat → Nat
  | 0, _ => 0
  | w + 1, x => if x / 2 ^ w % 2 = 1 then 0 else 1 + leadingZeros w x
/-- Trailing zeros, counted up to w (R146). -/
def trailingZeros : Nat → Nat → Nat
  | 0, _ => 0
  | w + 1, x => if x % 2 = 1 then 0 else 1 + trailingZeros w (x / 2)
/-- One bits among the low w (R146, R255). -/
def onesCount : Nat → Nat → Nat
  | 0, _ => 0
  | w + 1, x => x % 2 + onesCount w (x / 2)
/-- The eight bytes in reverse order (R146). -/
def byteSwap (x : Word) : Word :=
  BitVec.ofNat 64 ((List.range 8).foldl (fun a i => a * 256 + x.toNat / 256 ^ i % 256) 0)

/-- BFI: r with the low len bits of a placed at pos (R152). -/
def insertField (r a : Word) (pos len : Nat) : Word :=
  BitVec.ofNat 64 (r.toNat - r.toNat / 2 ^ pos % 2 ^ len * 2 ^ pos + a.toNat % 2 ^ len * 2 ^ pos)

/-! ## Shapes -/

/-- gd := f(ga, gb), landing at ISSUE + lat (R135, R145). -/
def scalar2 (lat : Nat) (f : Word → Word → Word) (d a b : RField) (s : State) : Host.Outcome State Fault Refusal :=
  issue s {} [gD d, gA a, gB b] false fun s c =>
    .go (s.results c lat [.g (c.h.x (gD d)) (f (c.g (gA a)) (c.g (gB b)))]) c.next

/-- gd := f(ga), landing at ISSUE + LAT_ALU (R135, R146). -/
def scalar1 (f : Word → Word) (d a : RField) (s : State) : Host.Outcome State Fault Refusal :=
  issue s {} [gD d, gA a] false fun s c => .go (s.results c 1 [.g (c.h.x (gD d)) (f (c.g (gA a)))]) c.next

/-! ## Two operands (R145) -/

/-- ADD (R145). -/
def execAdd (d a b : RField) (s : State) : Host.Outcome State Fault Refusal := scalar2 1 (fun x y => x + y) d a b s
/-- SUB (R145). -/
def execSub (d a b : RField) (s : State) : Host.Outcome State Fault Refusal := scalar2 1 (fun x y => x - y) d a b s
/-- MUL (R145). -/
def execMul (d a b : RField) (s : State) : Host.Outcome State Fault Refusal := scalar2 4 (fun x y => x * y) d a b s
/-- MULHS (R145). -/
def execMulhs (d a b : RField) (s : State) : Host.Outcome State Fault Refusal := scalar2 4 mulHS d a b s
/-- MULHZ (R145). -/
def execMulhz (d a b : RField) (s : State) : Host.Outcome State Fault Refusal := scalar2 4 mulHU d a b s
/-- DIV (R145). -/
def execDiv (d a b : RField) (s : State) : Host.Outcome State Fault Refusal := scalar2 24 divS d a b s
/-- DIVZ (R145). -/
def execDivz (d a b : RField) (s : State) : Host.Outcome State Fault Refusal := scalar2 24 divU d a b s
/-- REM (R145). -/
def execRem (d a b : RField) (s : State) : Host.Outcome State Fault Refusal := scalar2 24 remS d a b s
/-- REMZ (R145). -/
def execRemz (d a b : RField) (s : State) : Host.Outcome State Fault Refusal := scalar2 24 remU d a b s
/-- AND (R145). -/
def execAnd (d a b : RField) (s : State) : Host.Outcome State Fault Refusal := scalar2 1 (fun x y => x &&& y) d a b s
/-- OR (R145). -/
def execOr (d a b : RField) (s : State) : Host.Outcome State Fault Refusal := scalar2 1 (fun x y => x ||| y) d a b s
/-- XOR (R145). -/
def execXor (d a b : RField) (s : State) : Host.Outcome State Fault Refusal := scalar2 1 (fun x y => x ^^^ y) d a b s
/-- ANDN (R145). -/
def execAndn (d a b : RField) (s : State) : Host.Outcome State Fault Refusal := scalar2 1 (fun x y => x &&& ~~~y) d a b s
/-- ORN (R145). -/
def execOrn (d a b : RField) (s : State) : Host.Outcome State Fault Refusal := scalar2 1 (fun x y => x ||| ~~~y) d a b s
/-- SHL (R145). -/
def execShl (d a b : RField) (s : State) : Host.Outcome State Fault Refusal := scalar2 1 (fun x y => x <<< count6 y) d a b s
/-- SHR (R145). -/
def execShr (d a b : RField) (s : State) : Host.Outcome State Fault Refusal := scalar2 1 (fun x y => x >>> count6 y) d a b s
/-- SAR (R145). -/
def execSar (d a b : RField) (s : State) : Host.Outcome State Fault Refusal := scalar2 1 (fun x y => x.sshiftRight (count6 y)) d a b s
/-- ROL (R145). -/
def execRol (d a b : RField) (s : State) : Host.Outcome State Fault Refusal := scalar2 1 (fun x y => x.rotateLeft (count6 y)) d a b s
/-- ROR (R145). -/
def execRor (d a b : RField) (s : State) : Host.Outcome State Fault Refusal := scalar2 1 (fun x y => x.rotateRight (count6 y)) d a b s
/-- MIN (R145). -/
def execMin (d a b : RField) (s : State) : Host.Outcome State Fault Refusal := scalar2 1 (fun x y => if x.slt y then x else y) d a b s
/-- MAX (R145). -/
def execMax (d a b : RField) (s : State) : Host.Outcome State Fault Refusal := scalar2 1 (fun x y => if y.slt x then x else y) d a b s
/-- MINZ (R145). -/
def execMinz (d a b : RField) (s : State) : Host.Outcome State Fault Refusal := scalar2 1 (fun x y => if x.ult y then x else y) d a b s
/-- MAXZ (R145). -/
def execMaxz (d a b : RField) (s : State) : Host.Outcome State Fault Refusal := scalar2 1 (fun x y => if y.ult x then x else y) d a b s
/-- SLT (R145). -/
def execSlt (d a b : RField) (s : State) : Host.Outcome State Fault Refusal := scalar2 1 (fun x y => word1 (x.slt y)) d a b s
/-- SLTZ (R145). -/
def execSltz (d a b : RField) (s : State) : Host.Outcome State Fault Refusal := scalar2 1 (fun x y => word1 (x.ult y)) d a b s
/-- SEQ (R145). -/
def execSeq (d a b : RField) (s : State) : Host.Outcome State Fault Refusal := scalar2 1 (fun x y => word1 (x == y)) d a b s

/-! ## One operand (R146) -/

/-- CLZ (R146). -/
def execClz (d a : RField) (s : State) : Host.Outcome State Fault Refusal := scalar1 (fun x => BitVec.ofNat 64 (leadingZeros 64 x.toNat)) d a s
/-- CTZ (R146). -/
def execCtz (d a : RField) (s : State) : Host.Outcome State Fault Refusal := scalar1 (fun x => BitVec.ofNat 64 (trailingZeros 64 x.toNat)) d a s
/-- POPC (R146). -/
def execPopc (d a : RField) (s : State) : Host.Outcome State Fault Refusal := scalar1 (fun x => BitVec.ofNat 64 (onesCount 64 x.toNat)) d a s
/-- BSWP (R146). -/
def execBswp (d a : RField) (s : State) : Host.Outcome State Fault Refusal := scalar1 (byteSwap) d a s
/-- SXT.s8 (R146). -/
def execSxtS8 (d a : RField) (s : State) : Host.Outcome State Fault Refusal := scalar1 (fun x => sext x 8) d a s
/-- SXT.s16 (R146). -/
def execSxtS16 (d a : RField) (s : State) : Host.Outcome State Fault Refusal := scalar1 (fun x => sext x 16) d a s
/-- SXT.s32 (R146). -/
def execSxtS32 (d a : RField) (s : State) : Host.Outcome State Fault Refusal := scalar1 (fun x => sext x 32) d a s
/-- ZXT.b8 (R146). -/
def execZxtB8 (d a : RField) (s : State) : Host.Outcome State Fault Refusal := scalar1 (fun x => zext x 8) d a s
/-- ZXT.b16 (R146). -/
def execZxtB16 (d a : RField) (s : State) : Host.Outcome State Fault Refusal := scalar1 (fun x => zext x 16) d a s
/-- ZXT.b32 (R146). -/
def execZxtB32 (d a : RField) (s : State) : Host.Outcome State Fault Refusal := scalar1 (fun x => zext x 32) d a s

/-! ## NOP, select, immediates and bit fields -/

/-- NOP (R159): takes its slot. -/
def execNop (s : State) : Host.Outcome State Fault Refusal := issue s {} [] false fun s c => .go s c.next

/-- CSEL (R147). -/
def execCsel (d a b : RField) (p : PField) (s : State) : Host.Outcome State Fault Refusal :=
  issue s {} [gD d, gA a, gB b] false fun s c =>
    .go (s.results c 1 [.g (c.h.x (gD d)) (if predBit (c.p p) then c.g (gA a) else c.g (gB b))]) c.next

/-- ADDI (R151). -/
def execAddi (d a : RField) (i : BitVec 14) (s : State) : Host.Outcome State Fault Refusal :=
  issue s { imm := 3 } [gD d, gA a] false fun s c =>
    .go (s.results c 1 [.g (c.h.x (gD d)) (c.g (gA a) + c.imm14 i)]) c.next

/-- MOVI (R151). -/
def execMovi (d : RField) (i : BitVec 14) (s : State) : Host.Outcome State Fault Refusal :=
  issue s { imm := 3 } [gD d] false fun s c => .go (s.results c 1 [.g (c.h.x (gD d)) (c.imm14 i)]) c.next

/-- LEA (R151): PC is the address of the LEA word. -/
def execLea (d : RField) (i : BitVec 14) (s : State) : Host.Outcome State Fault Refusal :=
  issue s { imm := 3 } [gD d] false fun s c => .go (s.results c 1 [.g (c.h.x (gD d)) (c.pc + c.imm14 i)]) c.next

/-- BFX (R152). -/
def execBfx (d a l p : BitVec 6) (s : State) : Host.Outcome State Fault Refusal :=
  scalar1 (fun x => field x p.toNat (l.toNat + 1)) d a s

/-- BFX.s (R152). -/
def execBfxS (d a l p : BitVec 6) (s : State) : Host.Outcome State Fault Refusal :=
  scalar1 (fun x => sext (field x p.toNat (l.toNat + 1)) (l.toNat + 1)) d a s

/-- BFI (R152): gd is read at issue as a source. -/
def execBfi (d a l p : BitVec 6) (s : State) : Host.Outcome State Fault Refusal :=
  issue s {} [gD d, gA a] false fun s c =>
    .go (s.results c 1 [.g (c.h.x (gD d)) (insertField (c.g (gD d)) (c.g (gA a)) p.toNat (l.toNat + 1))]) c.next

end Sys2Proof.Machine
end

