-- ==== Sys2Proof/Machine/Vector.lean ====
section
/-! DEFINITION. The vector instructions (R247 to R260): operands and results in registers or link ports, lane by lane. -/

namespace Sys2Proof.Machine

/-! ## Link operands (R250 to R253) -/

/-- Pops or reads the sources in order, field a before field b. -/
def readSources (x : SId) (r : Regs) : State → List RField → State × List VWord
  | s, [] => (s, [])
  | s, f :: fs =>
    match linkPort f with
    | some p =>
      let (v, s) := s.popLink x p
      let (s, vs) := readSources x r s fs
      (s, v :: vs)
    | none =>
      let (s, vs) := readSources x r s fs
      (s, r.readV f.toNat :: vs)

/-- Runs k on the source vectors; an instruction that names link ports first makes R253's checks and waits for R250's
conditions. -/
def withSources (s : State) (c : Ctx) (srcs : List RField) (dst : Option Nat) (k : State → List VWord → Act) : Act :=
  let pops := srcs.filterMap linkPort
  let fwd := onward c.regs.csr.linkcfg pops
  let pushes := fwd ++ dst.toList
  if pops.isEmpty && pushes.isEmpty then k s (srcs.map c.v)
  else match (pops ++ dst.toList ++ fwd).findSome? (s.portBad c.sid) with
    | some t => .fault t
    | none =>
      if !s.clear c.sid || !s.linkReady c.sid pops pushes then .again .stream (.link pops pushes)
      else
        let (t, vs) := readSources c.sid c.regs s srcs
        k t.wakeLinks vs

/-- A result goes to a register at ISSUE + lat, or into the neighbour's queue at that vc (R250). -/
def State.vectorResult (s : State) (c : Ctx) (lat : Nat) (d : RField) (v : VWord) : State :=
  match linkPort d with
  | some p => s.pushLink c.sid p ((s.strand c.sid).ccOf (c.vc + lat)) v
  | none => s.results c lat [.v d.toNat v]

/-- vd := f(sources) (R254). -/
def vectorEntry (lat : Nat) (d : RField) (srcs : List RField) (f : List VWord → VWord) (s : State) (c : Ctx) : Act :=
  withSources s c srcs (linkPort d) fun t vs => .go (t.vectorResult c lat d (f vs)) c.next

/-- The same with the rounding mode of R119: FPMODE.RM 5 to 7 raises OPERAND (R238). -/
def roundedEntry (lat : Nat) (d : RField) (srcs : List RField) (f : Nat → Bool → List VWord → VWord) (s : State) (c : Ctx) :
    Act :=
  withSources s c srcs (linkPort d) fun t vs => match c.mode false with
    | none => .fault c.badMode
    | some m => .go (t.vectorResult c lat d (f m c.ftz vs)) c.next

/-- HRND attaches to floating-point forms that round, without SR (R104, R254): not to VMIN, VMAX, VABS, VNEG, VSAT, VREDMIN and
VREDMAX, whose results are values of their type already (notes/assumptions/58.md). -/
def floatHints (t : Fmt) : Attach := if t.isFloat then { rnd := some false } else {}

/-! ## Lane operations -/

def x0 (vs : List VWord) : VWord := vs.getD 0 0
def x1 (vs : List VWord) : VWord := vs.getD 1 0

/-- Lane by lane on two vectors. -/
def lane2 (t : Fmt) (f : Nat → Nat → Nat) (x y : VWord) : VWord := ofLanes t.bits (List.zipWith f (lanes x t.bits) (lanes y t.bits))
/-- Lane by lane on one vector. -/
def lane1 (t : Fmt) (f : Nat → Nat) (x : VWord) : VWord := ofLanes t.bits ((lanes x t.bits).map f)
/-- Lane by lane on three vectors. -/
def lane3 (t : Fmt) (f : Nat → Nat → Nat → Nat) (x y z : VWord) : VWord :=
  ofLanes t.bits ((List.zip (lanes x t.bits) (List.zip (lanes y t.bits) (lanes z t.bits))).map fun (a, b, c) => f a b c)

/-- An integer operation on lanes read by the type's signedness, wrapping (R248, R254). -/
def intOp (t : Fmt) (f : Int → Int → Int) (x y : Nat) : Nat := wrapTo t.bits (f (laneInt t x) (laneInt t y))
/-- A floating-point operation, rounded once (R254). -/
def floatOp (t : Fmt) (m : Nat) (ftz : Bool) (f : FV → FV → FV) (x y : Nat) : Nat :=
  pack t m 0 ftz (f (unpackFtz t ftz x) (unpackFtz t ftz y))

/-- x + y (R255). -/
def laneAdd (t : Fmt) (m : Nat) (ftz : Bool) (x y : Nat) : Nat :=
  if t.isInt then intOp t (· + ·) x y else floatOp t m ftz (fun a b => sumFV [a, b] (m = 3)) x y
/-- x - y (R255). -/
def laneSub (t : Fmt) (m : Nat) (ftz : Bool) (x y : Nat) : Nat :=
  if t.isInt then intOp t (· - ·) x y else floatOp t m ftz (fun a b => sumFV [a, b.neg] (m = 3)) x y
/-- x y (R255). -/
def laneMul (t : Fmt) (m : Nat) (ftz : Bool) (x y : Nat) : Nat :=
  if t.isInt then intOp t (· * ·) x y else floatOp t m ftz FV.mul x y
/-- The high half of the exact product (R255). -/
def laneMulh (t : Fmt) (x y : Nat) : Nat := wrapTo t.bits (laneInt t x * laneInt t y / (2 ^ t.bits : Nat))
/-- (-1)^neg times (d + (-1)^minus x y), rounded once (R255). -/
def laneFma (t : Fmt) (neg minus : Bool) (m : Nat) (ftz : Bool) (d x y : Nat) : Nat :=
  if t.isInt then
    let p := laneInt t x * laneInt t y
    let v := laneInt t d + (if minus then -p else p)
    wrapTo t.bits (if neg then -v else v)
  else
    let p := (unpackFtz t ftz x).mul (unpackFtz t ftz y)
    let v := sumFV [unpackFtz t ftz d, if minus then p.neg else p] (m = 3)
    pack t m 0 ftz (if neg then v.neg else v)
/-- x / y (R145, R255). -/
def laneDiv (t : Fmt) (m : Nat) (ftz : Bool) (x y : Nat) : Nat :=
  if t.isInt then
    (if y % 2 ^ t.bits = 0 then 2 ^ t.bits - 1 else wrapTo t.bits ((laneInt t x).tdiv (laneInt t y)))
  else divBits t m ftz (unpackFtz t ftz x) (unpackFtz t ftz y)
/-- The smaller or larger of x and y (R255): NaN if either is NaN, and -0 below +0. -/
def laneMinMax (t : Fmt) (max ftz : Bool) (x y : Nat) : Nat :=
  if t.isInt then (if (laneInt t x < laneInt t y) != max then x else y)
  else
    let a := unpackFtz t ftz x
    let b := unpackFtz t ftz y
    if a.isNan || b.isNan then t.canonNan
    else
      let less := a.lt b || (a.eq b && a.isNeg && !b.isNeg)
      flushBits t ftz (if less != max then x else y)
/-- |x| (R255). -/
def laneAbs (t : Fmt) (ftz : Bool) (x : Nat) : Nat :=
  if t.isInt then wrapTo t.bits ((laneInt t x).natAbs : Int)
  else if (unpack t x).isNan then t.canonNan else flushBits t ftz x % signBit t
/-- -x (R255). -/
def laneNeg (t : Fmt) (ftz : Bool) (x : Nat) : Nat :=
  if t.isInt then wrapTo t.bits (-laneInt t x)
  else if (unpack t x).isNan then t.canonNan else flushBits t ftz x ^^^ signBit t
/-- x clamped to the range of u (R255). -/
def laneSat (t u : Fmt) (ftz : Bool) (x : Nat) : Nat :=
  if t.isInt then wrapTo t.bits (clampTo u (laneInt t x))
  else
    let v := unpack t x
    let top := pack t 1 0 false (unpack u u.maxFinite)
    if v.isNan then t.canonNan
    else if (unpack t top).lt (if v.isNeg then v.neg else v) then (if v.isNeg then signBit t else 0) + top
    else flushBits t ftz x

/-- The comparison of VCMP (R260). -/
def laneCond (t : Fmt) (k : VCond) (ftz : Bool) (x y : Nat) : Bool :=
  if t.isInt then intCond k (laneInt t x) (laneInt t y)
  else
    let a := unpackFtz t ftz x
    let b := unpackFtz t ftz y
    match k with
    | .eq => a.eq b | .ne => !a.eq b | .lt => a.lt b | .le => a.lt b || a.eq b | .gt => b.lt a | .ge => b.lt a || a.eq b
    | .un => a.isNan || b.isNan

/-- Combines lanes pairwise in rounds (R257). -/
def pairwise (f : Nat → Nat → Nat) : List Nat → List Nat
  | a :: b :: ls => f a b :: pairwise f ls
  | ls => ls
def reduceLanes (f : Nat → Nat → Nat) : Nat → List Nat → Nat
  | 0, ls => ls.headD 0
  | n + 1, ls => reduceLanes f n (pairwise f ls)
def vectorReduce (t : Fmt) (f : Nat → Nat → Nat) (x : VWord) : VWord := ofLanes t.bits [reduceLanes f 4 (lanes x t.bits)]

/-- Sums of products of narrow lanes into 32-bit lanes (R256). -/
def dotInt (t : Fmt) (n : Nat) (d x y : VWord) : VWord :=
  ofLanes 32 ((List.range 4).map fun i =>
    let p (j : Nat) : Int := laneInt t (lane x t.bits (n * i + j)) * laneInt t (lane y t.bits (n * i + j))
    wrapTo 32 ((lane d 32 i : Int) + (List.range n).foldl (fun a j => a + p j) 0))
def dotFloat (t : Fmt) (m : Nat) (ftz : Bool) (d x y : VWord) : VWord :=
  ofLanes 32 ((List.range 4).map fun i =>
    let p (j : Nat) : FV := (unpackFtz t ftz (lane x 16 (2 * i + j))).mul (unpackFtz t ftz (lane y 16 (2 * i + j)))
    pack .f m 0 ftz (sumFV [unpackFtz .f ftz (lane d 32 i), p 0, p 1] (m = 3)))

/-! ## Group A (R255) -/

/-- VADD (R255). -/
def execVadd (d a b : RField) (t : Fmt) (s : State) : Host.Outcome State Fault Refusal :=
  issue s (floatHints t) [vD d, vA a, vB b] false fun s c =>
    if t.isInt then vectorEntry 2 d [a, b] (fun vs => lane2 t (laneAdd t 0 false) (x0 vs) (x1 vs)) s c
    else roundedEntry 2 d [a, b] (fun m ftz vs => lane2 t (laneAdd t m ftz) (x0 vs) (x1 vs)) s c

/-- VSUB (R255). -/
def execVsub (d a b : RField) (t : Fmt) (s : State) : Host.Outcome State Fault Refusal :=
  issue s (floatHints t) [vD d, vA a, vB b] false fun s c =>
    if t.isInt then vectorEntry 2 d [a, b] (fun vs => lane2 t (laneSub t 0 false) (x0 vs) (x1 vs)) s c
    else roundedEntry 2 d [a, b] (fun m ftz vs => lane2 t (laneSub t m ftz) (x0 vs) (x1 vs)) s c

/-- VMUL (R255). -/
def execVmul (d a b : RField) (t : Fmt) (s : State) : Host.Outcome State Fault Refusal :=
  issue s (floatHints t) [vD d, vA a, vB b] false fun s c =>
    if t.isInt then vectorEntry 4 d [a, b] (fun vs => lane2 t (laneMul t 0 false) (x0 vs) (x1 vs)) s c
    else roundedEntry 4 d [a, b] (fun m ftz vs => lane2 t (laneMul t m ftz) (x0 vs) (x1 vs)) s c

/-- VMULH (R255). -/
def execVmulh (d a b : RField) (t : Fmt) (s : State) : Host.Outcome State Fault Refusal :=
  issue s {} [vD d, vA a, vB b] false fun s c =>
    vectorEntry 4 d [a, b] (fun vs => lane2 t (laneMulh t) (x0 vs) (x1 vs)) s c

/-- VFMA (R255). -/
def execVfma (d a b : RField) (t : Fmt) (s : State) : Host.Outcome State Fault Refusal :=
  issue s (floatHints t) [vD d, vA a, vB b] false fun s c =>
    if t.isInt then vectorEntry 4 d [a, b] (fun vs => lane3 t (laneFma t false false 0 false) (c.v d) (x0 vs) (x1 vs)) s c
    else roundedEntry 4 d [a, b] (fun m ftz vs => lane3 t (laneFma t false false m ftz) (c.v d) (x0 vs) (x1 vs)) s c

/-- VFMS (R255). -/
def execVfms (d a b : RField) (t : Fmt) (s : State) : Host.Outcome State Fault Refusal :=
  issue s (floatHints t) [vD d, vA a, vB b] false fun s c =>
    if t.isInt then vectorEntry 4 d [a, b] (fun vs => lane3 t (laneFma t false true 0 false) (c.v d) (x0 vs) (x1 vs)) s c
    else roundedEntry 4 d [a, b] (fun m ftz vs => lane3 t (laneFma t false true m ftz) (c.v d) (x0 vs) (x1 vs)) s c

/-- VFNMA (R255). -/
def execVfnma (d a b : RField) (t : Fmt) (s : State) : Host.Outcome State Fault Refusal :=
  issue s (floatHints t) [vD d, vA a, vB b] false fun s c =>
    if t.isInt then vectorEntry 4 d [a, b] (fun vs => lane3 t (laneFma t true false 0 false) (c.v d) (x0 vs) (x1 vs)) s c
    else roundedEntry 4 d [a, b] (fun m ftz vs => lane3 t (laneFma t true false m ftz) (c.v d) (x0 vs) (x1 vs)) s c

/-- VDIV (R255). -/
def execVdiv (d a b : RField) (t : Fmt) (s : State) : Host.Outcome State Fault Refusal :=
  issue s (floatHints t) [vD d, vA a, vB b] false fun s c =>
    if t.isInt then vectorEntry 24 d [a, b] (fun vs => lane2 t (laneDiv t 0 false) (x0 vs) (x1 vs)) s c
    else roundedEntry 24 d [a, b] (fun m ftz vs => lane2 t (laneDiv t m ftz) (x0 vs) (x1 vs)) s c

/-- VMIN (R255): its result is exact, so that it uses no rounding mode and raises no OPERAND for RM 5 to 7 (R238;
notes/assumptions/58.md). -/
def execVmin (d a b : RField) (t : Fmt) (s : State) : Host.Outcome State Fault Refusal :=
  issue s {} [vD d, vA a, vB b] false fun s c =>
    vectorEntry 2 d [a, b] (fun vs => lane2 t (laneMinMax t false c.ftz) (x0 vs) (x1 vs)) s c

/-- VMAX (R255). -/
def execVmax (d a b : RField) (t : Fmt) (s : State) : Host.Outcome State Fault Refusal :=
  issue s {} [vD d, vA a, vB b] false fun s c =>
    vectorEntry 2 d [a, b] (fun vs => lane2 t (laneMinMax t true c.ftz) (x0 vs) (x1 vs)) s c

/-- VABS (R255). -/
def execVabs (d a : RField) (t : Fmt) (s : State) : Host.Outcome State Fault Refusal :=
  issue s {} [vD d, vA a] false fun s c =>
    vectorEntry 2 d [a] (fun vs => lane1 t (laneAbs t c.ftz) (x0 vs)) s c

/-- VNEG (R255). -/
def execVneg (d a : RField) (t : Fmt) (s : State) : Host.Outcome State Fault Refusal :=
  issue s {} [vD d, vA a] false fun s c =>
    vectorEntry 2 d [a] (fun vs => lane1 t (laneNeg t c.ftz) (x0 vs)) s c

/-- VSAT (R255). -/
def execVsat (d a : RField) (u t : Fmt) (s : State) : Host.Outcome State Fault Refusal :=
  issue s {} [vD d, vA a] false fun s c =>
    vectorEntry 2 d [a] (fun vs => lane1 t (laneSat t u c.ftz) (x0 vs)) s c

/-- VCLZ (R255). -/
def execVclz (d a : RField) (t : Fmt) (s : State) : Host.Outcome State Fault Refusal :=
  issue s {} [vD d, vA a] false fun s c =>
    vectorEntry 2 d [a] (fun vs => lane1 t (leadingZeros t.bits) (x0 vs)) s c

/-- VPOPC (R255). -/
def execVpopc (d a : RField) (t : Fmt) (s : State) : Host.Outcome State Fault Refusal :=
  issue s {} [vD d, vA a] false fun s c =>
    vectorEntry 2 d [a] (fun vs => lane1 t (onesCount t.bits) (x0 vs)) s c

/-! ## Group B (R256, R257) -/

/-- VAND (R256). -/
def execVand (d a b : RField) (_ : Fmt) (s : State) : Host.Outcome State Fault Refusal :=
  issue s {} [vD d, vA a, vB b] false fun s c =>
    vectorEntry 2 d [a, b] (fun vs => x0 vs &&& x1 vs) s c

/-- VOR (R256). -/
def execVor (d a b : RField) (_ : Fmt) (s : State) : Host.Outcome State Fault Refusal :=
  issue s {} [vD d, vA a, vB b] false fun s c =>
    vectorEntry 2 d [a, b] (fun vs => x0 vs ||| x1 vs) s c

/-- VXOR (R256). -/
def execVxor (d a b : RField) (_ : Fmt) (s : State) : Host.Outcome State Fault Refusal :=
  issue s {} [vD d, vA a, vB b] false fun s c =>
    vectorEntry 2 d [a, b] (fun vs => x0 vs ^^^ x1 vs) s c

/-- VANDN (R256). -/
def execVandn (d a b : RField) (_ : Fmt) (s : State) : Host.Outcome State Fault Refusal :=
  issue s {} [vD d, vA a, vB b] false fun s c =>
    vectorEntry 2 d [a, b] (fun vs => x0 vs &&& ~~~(x1 vs)) s c

/-- VSHL (R256). -/
def execVshl (d a b : RField) (t : Fmt) (s : State) : Host.Outcome State Fault Refusal :=
  issue s {} [vD d, vA a, vB b] false fun s c =>
    vectorEntry 2 d [a, b] (fun vs => lane2 t (fun x y => x * 2 ^ (y % t.bits)) (x0 vs) (x1 vs)) s c

/-- VSHR (R256). -/
def execVshr (d a b : RField) (t : Fmt) (s : State) : Host.Outcome State Fault Refusal :=
  issue s {} [vD d, vA a, vB b] false fun s c =>
    vectorEntry 2 d [a, b] (fun vs => lane2 t (fun x y => x / 2 ^ (y % t.bits)) (x0 vs) (x1 vs)) s c

/-- VSAR (R256). -/
def execVsar (d a b : RField) (t : Fmt) (s : State) : Host.Outcome State Fault Refusal :=
  issue s {} [vD d, vA a, vB b] false fun s c =>
    vectorEntry 2 d [a, b] (fun vs => lane2 t (fun x y => wrapTo t.bits (signedField t.bits x / (2 ^ (y % t.bits) : Nat))) (x0 vs) (x1 vs)) s c

/-- VSEL (R256). -/
def execVsel (d a b : RField) (p : PField) (s : State) : Host.Outcome State Fault Refusal :=
  issue s {} [vD d, vA a, vB b] false fun s c =>
    let k := c.p p
    let byte (vs : List VWord) (j : Nat) : Nat := if bitOf k j then lane (x0 vs) 8 j else lane (x1 vs) 8 j
    vectorEntry 2 d [a, b] (fun vs => ofLanes 8 ((List.range 16).map (byte vs))) s c

/-- VDOT4 (R256). -/
def execVdot4 (d a b : RField) (t : Fmt) (s : State) : Host.Outcome State Fault Refusal :=
  issue s {} [vD d, vA a, vB b] false fun s c =>
    vectorEntry 4 d [a, b] (fun vs => dotInt t 4 (c.v d) (x0 vs) (x1 vs)) s c

/-- VDOT2 (R256). -/
def execVdot2 (d a b : RField) (t : Fmt) (s : State) : Host.Outcome State Fault Refusal :=
  issue s (floatHints t) [vD d, vA a, vB b] false fun s c =>
    if t.isInt then vectorEntry 4 d [a, b] (fun vs => dotInt t 2 (c.v d) (x0 vs) (x1 vs)) s c
    else roundedEntry 4 d [a, b] (fun m ftz vs => dotFloat t m ftz (c.v d) (x0 vs) (x1 vs)) s c

/-- VSHUF (R256). -/
def execVshuf (d a b : RField) (t : Fmt) (s : State) : Host.Outcome State Fault Refusal :=
  issue s {} [vD d, vA a, vB b] false fun s c =>
    vectorEntry 2 d [a, b] (fun vs => ofLanes t.bits
      ((List.range (lanesOf t.bits / 2)).flatMap fun i => [lane (x0 vs) t.bits i, lane (x1 vs) t.bits i])) s c

/-- VPERM (R256). -/
def execVperm (d a b : RField) (t : Fmt) (s : State) : Host.Outcome State Fault Refusal :=
  issue s {} [vD d, vA a, vB b] false fun s c =>
    let n := lanesOf t.bits
    vectorEntry 2 d [a, b] (fun vs => lane1 t (fun k => if k / 128 % 2 = 1 then 0 else lane (x0 vs) t.bits (k % n)) (x1 vs)) s c

/-- VREDADD (R257). -/
def execVredadd (d a : RField) (t : Fmt) (s : State) : Host.Outcome State Fault Refusal :=
  issue s (floatHints t) [vD d, vA a] false fun s c =>
    if t.isInt then vectorEntry 4 d [a] (fun vs => vectorReduce t (laneAdd t 0 false) (x0 vs)) s c
    else roundedEntry 4 d [a] (fun m ftz vs => vectorReduce t (laneAdd t m ftz) (x0 vs)) s c

/-- VREDMIN (R257). -/
def execVredmin (d a : RField) (t : Fmt) (s : State) : Host.Outcome State Fault Refusal :=
  issue s {} [vD d, vA a] false fun s c =>
    vectorEntry 4 d [a] (fun vs => vectorReduce t (laneMinMax t false c.ftz) (x0 vs)) s c

/-- VREDMAX (R257). -/
def execVredmax (d a : RField) (t : Fmt) (s : State) : Host.Outcome State Fault Refusal :=
  issue s {} [vD d, vA a] false fun s c =>
    vectorEntry 4 d [a] (fun vs => vectorReduce t (laneMinMax t true c.ftz) (x0 vs)) s c

/-- VRNG (R237, R256). -/
def execVrng (d a b : RField) (s : State) : Host.Outcome State Fault Refusal :=
  issue s {} [vD d, vA a, vB b] false fun s c =>
    vectorEntry 4 d [a, b] (fun vs => lane2 .b32 counterG (x0 vs) (x1 vs)) s c

/-! ## VCVT (R236, R239, R258) -/

/-- Draws made by an instruction that rounds stochastically (R236); a fault of an earlier instruction undoes them. -/
def State.draw (s : State) (c : Ctx) (n : Nat) : State :=
  s.modStrand c.sid fun st =>
    { st with regs := { st.regs with csr := { st.regs.csr with srctr := st.regs.csr.srctr + BitVec.ofNat 32 n } } }

/-- A conversion accepts SR (R236, R258). -/
def acceptsSr (td ts : Fmt) : Bool := convRounds td ts && !holdsAll td ts

/-- n elements converted, the i-th with the i-th draw. -/
def convertLanes (td ts : Fmt) (m : Nat) (ftz : Bool) (fpmode : Word) (ctr : BitVec 32) (x : VWord) : VWord :=
  let n := Nat.min (lanesOf ts.bits) (lanesOf td.bits)
  ofLanes td.bits ((List.range n).map fun i => convert td ts m (drawOf fpmode ctr i) ftz (lane x ts.bits i))

/-- VCVT (R258). -/
def execVcvt (d a : RField) (td ts : Fmt) (s : State) : Host.Outcome State Fault Refusal :=
  issue s { rnd := some (acceptsSr td ts) } [vD d, vA a] false fun s c =>
    withSources s c [a] (linkPort d) fun t vs => match (if convRounds td ts then c.mode (acceptsSr td ts) else some 0) with
      | none => .fault c.badMode
      | some m =>
        let t := if m = 4 then t.draw c (Nat.min (lanesOf ts.bits) (lanesOf td.bits)) else t
        .go (t.vectorResult c 3 d (convertLanes td ts m c.ftz c.regs.csr.fpmode c.regs.csr.srctr (x0 vs))) c.next

/-! ## Group D (R259, R260) -/

/-- VSPLAT (R259). -/
def execVsplat (d a : RField) (t : Fmt) (s : State) : Host.Outcome State Fault Refusal :=
  issue s {} [vD d, gA a] false fun s c =>
    vectorEntry 2 d [] (fun _ => ofLanes t.bits (List.replicate (lanesOf t.bits) (c.g (gA a)).toNat)) s c

/-- VEXT (R259). -/
def execVext (d a : RField) (n : BitVec 6) (t : Fmt) (s : State) : Host.Outcome State Fault Refusal :=
  issue s {} [gD d, vA a] false fun s c =>
    withSources s c [a] none fun u vs =>
      let x := lane (x0 vs) t.bits n.toNat
      .go (u.results c 2 [.g (c.h.x (gD d)) (if t.isSigned then sext (BitVec.ofNat 64 x) t.bits else BitVec.ofNat 64 x)]) c.next

/-- VINS (R259). -/
def execVins (d a : RField) (n : BitVec 6) (t : Fmt) (s : State) : Host.Outcome State Fault Refusal :=
  issue s {} [vD d, gA a] false fun s c =>
    .go (s.results c 2 [.v d.toNat (ofLanes t.bits ((lanes (c.v d) t.bits).set n.toNat (c.g (gA a)).toNat))]) c.next

/-- VMOV (R259). -/
def execVmov (d a : RField) (_ : Fmt) (s : State) : Host.Outcome State Fault Refusal :=
  issue s {} [vD d, vA a] false fun s c => vectorEntry 2 d [a] x0 s c

/-- VCMP (R260): all predicate bits of a lane. -/
def execVcmp (k : VCond) (d : PField) (a b : RField) (t : Fmt) (s : State) : Host.Outcome State Fault Refusal :=
  issue s {} [vA a, vB b] false fun s c =>
    withSources s c [a, b] none fun u vs =>
      let bit (j : Nat) : Bool := laneCond t k c.ftz (lane (x0 vs) t.bits (8 * j / t.bits)) (lane (x1 vs) t.bits (8 * j / t.bits))
      .go (u.results c 2 [.p d.toNat (BitVec.ofNat 16 (((List.range 16).map fun j => (bit j).toNat * 2 ^ j).sum))]) c.next

end Sys2Proof.Machine
end

