-- ==== Sys2Proof/Machine/SfuOps.lean ====
section
/-! DEFINITION. The special-function instructions (R265 to R267): requests to the cluster's unit, with the strand's slots
empty until the result lands (R127). -/

namespace Sys2Proof.Machine

def State.sfuOf (s : State) (k : Nat) : Sfu := Tab.get Sfu.empty s.sfu k
def State.setSfu (s : State) (k : Nat) (v : Sfu) : State := { s with sfu := Tab.put s.sfu k v }

/-- A request joins its cluster's ring (R265). -/
def State.sfuRequest (s : State) (x : SId) (seq : Nat) : State :=
  let k := clusterOf x.core
  let u := s.sfuOf k
  (s.setSfu k { u with ring := u.ring ++ [(x, seq)] }).post 0 (.sfuAccept k)

/-- SFop (R266): the function, its type, and its mode. -/
def sfu (f : Nat) (d a : RField) (t : Fmt) (s : State) : Host.Outcome State Fault Refusal :=
  issue s { rnd := some false } [gD d, gA a] false fun s c =>
    match c.mode false with
    | none => trapLater s c 40 c.badMode
    | some m =>
      let req : Request := .sfu f t (c.g (gA a)) (c.h.x (gD d)) m c.ftz
      let u := s.addFlight c (c.flight (c.vc + 40) (some (req, .sent 0)) none)
      .wait (u.sfuRequest c.sid c.seq) .sfu (.home c.seq)

/-- SFEXP2 (R267). -/
def execSfexp2 (d a : RField) (t : Fmt) (s : State) : Host.Outcome State Fault Refusal := sfu 0 d a t s
/-- SFLOG2 (R267). -/
def execSflog2 (d a : RField) (t : Fmt) (s : State) : Host.Outcome State Fault Refusal := sfu 1 d a t s
/-- SFRCP (R267). -/
def execSfrcp (d a : RField) (t : Fmt) (s : State) : Host.Outcome State Fault Refusal := sfu 2 d a t s
/-- SFRSQ (R267). -/
def execSfrsq (d a : RField) (t : Fmt) (s : State) : Host.Outcome State Fault Refusal := sfu 3 d a t s
/-- SFSQRT (R267). -/
def execSfsqrt (d a : RField) (t : Fmt) (s : State) : Host.Outcome State Fault Refusal := sfu 4 d a t s
/-- SFSIN (R267). -/
def execSfsin (d a : RField) (t : Fmt) (s : State) : Host.Outcome State Fault Refusal := sfu 5 d a t s
/-- SFCOS (R267). -/
def execSfcos (d a : RField) (t : Fmt) (s : State) : Host.Outcome State Fault Refusal := sfu 6 d a t s
/-- SFTANH (R267). -/
def execSftanh (d a : RField) (t : Fmt) (s : State) : Host.Outcome State Fault Refusal := sfu 7 d a t s
/-- SFSIGM (R267). -/
def execSfsigm (d a : RField) (t : Fmt) (s : State) : Host.Outcome State Fault Refusal := sfu 8 d a t s
/-- SFERF (R267). -/
def execSferf (d a : RField) (t : Fmt) (s : State) : Host.Outcome State Fault Refusal := sfu 9 d a t s

end Sys2Proof.Machine
end

