-- ==== Sys2Proof/Machine/Matrix.lean ====
section
/-! DEFINITION. The matrix-array instructions (R269, R288 to R295). -/

namespace Sys2Proof.Machine

/-- MPREC, short form (R290). -/
def execMprecShort (tc ta tb : BitVec 4) (k : BitVec 1) (s : State) : Host.Outcome State Fault Refusal :=
  issue s {} [] false fun s c => emit s c (.mprec k.toNat true (shortPrec ta.toNat tb.toNat tc.toNat)) c.next

/-- MPREC, image form (R290). -/
def execMprecImage (a : RField) (k : BitVec 1) (s : State) : Host.Outcome State Fault Refusal :=
  issue s {} [gA a] false fun s c => emit s c (.mprec k.toNat false (c.g (gA a))) c.next

/-- MRDP (R291). -/
def execMrdp (d : RField) (k : BitVec 1) (s : State) : Host.Outcome State Fault Refusal :=
  issue s {} [gD d] false fun s c =>
    .go ((s.addFlight c (c.flight (c.vc + 12) none none)).results c 12 [.g (c.h.x (gD d)) ((s.core c.sid.core).prec k.toNat)]) c.next

/-- MMA and MMAS (R292): the checks at issue, then the command enters the queue. -/
def mma (clear : Bool) (d a b : RField) (k : BitVec 1) (s : State) : Host.Outcome State Fault Refusal :=
  issue s { start := true, seq := true } [gD d, gA a, gB b] false fun s c =>
    let core := s.core c.sid.core
    let dsc := c.g (gD d)
    let pa := c.g (gA a)
    let pb := c.g (gB b)
    match mmaBad core c.sid.strand k.toNat dsc pa pb with
    | some n => .fault (operandTrap k.toNat n)
    | none =>
      let again : Bool := c.regs.csr.mpx ≠ 0
      match (if again then none else timingBad s c) with
      | some t => .fault t
      | none =>
        let cmd : ArrayCmd :=
          { zero := false, clear := clear, bank := k.toNat, prec := core.prec k.toNat, dsc := dsc, pa := pa, pb := pb, step := 0,
            first := 0, owner := c.sid, gpc := c.gpc, hstart := startVc c, hseq := c.h.seq, skip := [], locks := [], id := 0,
            waitCopy := none, handAt := 0, start := none, prev := 0, ends := 0, base := none }
        emit (if again then s else s.noteStart c) c (.array cmd) c.next

/-- MMA (R292). -/
def execMma (d a b : RField) (k : BitVec 1) (s : State) : Host.Outcome State Fault Refusal := mma false d a b k s
/-- MMAS (R292). -/
def execMmas (d a b : RField) (k : BitVec 1) (s : State) : Host.Outcome State Fault Refusal := mma true d a b k s

/-- MZERO (R293). -/
def execMzero (k : BitVec 1) (s : State) : Host.Outcome State Fault Refusal :=
  issue s {} [] false fun s c =>
    let core := s.core c.sid.core
    match ownerBad core c.sid.strand k.toNat with
    | some n => .fault (operandTrap k.toNat n)
    | none =>
      let cmd : ArrayCmd :=
        { zero := true, clear := false, bank := k.toNat, prec := core.prec k.toNat, dsc := 0, pa := 0, pb := 0, step := 0, first := 0,
          owner := c.sid, gpc := c.gpc, hstart := none, hseq := none, skip := [], locks := [], id := 0, waitCopy := none, handAt := 0,
          start := none, prev := 0, ends := 0, base := none }
      emit s c (.array cmd) c.next

/-- The types that MRDACC accepts (R294). -/
def mrdaccType (t : BitVec 4) : Option Fmt :=
  (Fmt.ofCode t.toNat).filter fun f => f = .f || f = .d || f = .s64 || f = .h || f = .bf || f = .b64

/-- MRDACC accepts SR for a type under an accumulator format (R294). -/
def mrdaccSr (t acc : Fmt) : Bool := t ≠ .b64 && t ≠ acc && !(acc = .f && t = .d)

/-- The reasons of R289 for MRDACC and MWRACC, the lowest first. -/
def elementBad (k : Core) (strand bank : Nat) (type : Bool) (index : Word) : Option Nat :=
  match ownerBad k strand bank with
  | some n => some n
  | none => if type then some 4 else if 1024 ≤ index.toNat then some 7 else none

/-- MRDACC (R294): the bank as the strand's earlier MPREC and MWRACC leave it. A strand that has resumed reads without
waiting for commands that entered the queue later. FPMODE.FTZ governs its conversion (R235; notes/assumptions/62.md). -/
def execMrdacc (d a : RField) (t : BitVec 4) (rel : Bool) (k : BitVec 1) (s : State) : Host.Outcome State Fault Refusal :=
  issue s { rnd := some (t ≠ 3) } [gD d, gA a] false fun s c =>
    let bank := k.toNat
    let core := (s.ahead c.sid).core c.sid.core
    let acc := accFmt (pcAcc (core.prec bank))
    let index := c.g (gA a)
    let type := (mrdaccType t).getD .b64
    let sr := mrdaccSr type acc
    match elementBad core c.sid.strand bank ((mrdaccType t).isNone || (c.h.rnd = some 4 && !sr)) index with
    | some n => trapLater s c 12 (operandTrap bank n)
    | none =>
      if (s.core c.sid.core).bankBusy bank && !(s.strand c.sid).resumed then .again .barrierPhase (.bank bank s.nextId)
      else
        let raw := (core.accAt bank index.toNat).toNat
        let finish (s : State) (x : Nat) : Act :=
          let s := (s.addFlight c (c.flight (c.vc + 12) none none)).results c 12 [.g (c.h.x (gD d)) (BitVec.ofNat 64 x)]
          .go (if rel then s.addDeferred c (.release bank (c.vc + 12)) none else s) c.next
        if type = .b64 then finish s raw
        else match (if convRounds type acc then c.mode sr else some 0) with
          | none => trapLater s c 12 c.badMode
          | some m =>
            let x := convert type acc m (drawOf c.regs.csr.fpmode c.regs.csr.srctr 0) c.ftz (raw % 2 ^ acc.bits)
            finish (if m = 4 then s.draw c 1 else s) x

/-- MWRACC (R295): it waits for the bank's commands as MRDACC does, and its write is then an effect. -/
def execMwracc (d a : RField) (k : BitVec 1) (s : State) : Host.Outcome State Fault Refusal :=
  issue s {} [gD d, gA a] false fun s c =>
    match elementBad ((s.ahead c.sid).core c.sid.core) c.sid.strand k.toNat false (c.g (gA a)) with
    | some n => .fault (operandTrap k.toNat n)
    | none =>
      if (s.core c.sid.core).bankBusy k.toNat && !(s.strand c.sid).resumed then .again .barrierPhase (.bank k.toNat s.nextId)
      else emit s c (.mwracc k.toNat (c.g (gA a)) (c.g (gD d))) c.next

end Sys2Proof.Machine
end

