-- ==== Sys2Proof/Machine/Map.lean ====
section
/-! DEFINITION. The map instructions (R315 to R328). -/

namespace Sys2Proof.Machine

/-- LAT_MAP (R135). -/
def latMap : Nat := 200

/-- Checks 1 and 2 of R317. -/
def mapImageBad (q : Policy) (handle : Word) : Option TrapInfo :=
  if !polOk q || polSpace q ≠ 0 then some (trapOf .operand (q.setWidth 64))
  else if handle.toNat % 128 ≠ 0 then some (trapOf .misalign handle)
  else none

/-- A key operation (R315, R319): its operands as they stand at issue; its checks and effect are the sequencer's. -/
def keyEntry (op : MapOp) (d : EField) (a b : RField) (p : PField) (qn : QField) (s : State) (c : Ctx) : Act :=
  let q := c.q qn
  let n := c.h.x (gPair d)
  let k := c.h.x (gB b)
  match mapImageBad q (c.g (gA a)) with
  | some t => trapLater s c latMap t
  | none => emitRequest s c latMap (.mapKey
      { op := op, handle := c.g (gA a), key := (c.regs.readG (k + 1)) ++ (c.regs.readG k),
        val := (c.regs.readG (n + 2)) ++ (c.regs.readG n), new := c.regs.readG (n + 1), d := n, b := k, p := p.toNat, q := q })

/-- A key operation of either major. -/
def keyOperation (op : MapOp) (d : EField) (a b : RField) (p : PField) (q : QField) (s : State) :
    Host.Outcome State Fault Refusal :=
  issue s policyHints [gPair d, gA a, gB b] false fun s c => keyEntry op d a b p q s c

/-- MAPPRB (R319). -/
def execMapprb (d : EField) (a b : RField) (p : PField) (q : QField) (s : State) : Host.Outcome State Fault Refusal :=
  keyOperation .prb d a b p q s
/-- MAPINS (R319). -/
def execMapins (d : EField) (a b : RField) (p : PField) (q : QField) (s : State) : Host.Outcome State Fault Refusal :=
  keyOperation .ins d a b p q s
/-- MAPUPS (R319). -/
def execMapups (d : EField) (a b : RField) (p : PField) (q : QField) (s : State) : Host.Outcome State Fault Refusal :=
  keyOperation .ups d a b p q s
/-- MAPDEL (R319). -/
def execMapdel (d : EField) (a b : RField) (p : PField) (q : QField) (s : State) : Host.Outcome State Fault Refusal :=
  keyOperation .del d a b p q s
/-- MAPADD (R319). -/
def execMapadd (d : EField) (a b : RField) (p : PField) (q : QField) (s : State) : Host.Outcome State Fault Refusal :=
  keyOperation .add d a b p q s
/-- MAPCAS (R319). -/
def execMapcas (d : EField) (a b : RField) (p : PField) (q : QField) (s : State) : Host.Outcome State Fault Refusal :=
  keyOperation .cas d a b p q s

/-- MAPNEW (R320): checks 1 to 4 at issue, then the strand waits for the rest and the creation. -/
def execMapnew (a b : RField) (qn : QField) (s : State) : Host.Outcome State Fault Refusal :=
  issue s policyHints [gA a, gB b] false fun s c =>
    let h := c.g (gA a)
    let q := c.q qn
    if !polOk q then .fault (trapOf .operand (q.setWidth 64))
    else if h.toNat % 128 ≠ 0 then .fault (trapOf .misalign h)
    else withRecord s c <| match s.readRecord c.sid (c.g (gB b)) 32 32 with
      | (s, .inr t) => .faultIn s t
      | (s, .inl n) => match s.resolve c.sid h q Need.write with
        | .bad t => .faultIn s t
        | _ =>
          let r : Rec256 := BitVec.ofNat 256 n
          if !mapParmOk r then .faultIn s (mapDesc h 3)
          else .wait (s.post 0 (.mapnewComplete c.sid)) .serial (.mapnew h r q)

/-- Two ranges of addresses overlap. -/
def rangesMeet (a b : Nat × Nat) : Bool := a.2 ≠ 0 && b.2 ≠ 0 && a.1 < b.1 + b.2 && b.1 < a.1 + a.2

/-- A MAPGETN request that breaks R322's last check: a reserved bit, or areas that overlap. -/
def getnBad (r : Rec768) (p : MapParm) (obj : Word) : Bool :=
  let n := getnCount r
  let keys := (getnKeys r, n * p.kb)
  let out := (getnOut r, n * (p.vb + 8))
  let o := (obj.toNat, 16)
  bitsOf r 255 160 ≠ 0 || bitsOf r 127 121 ≠ 0 || bitsOf r 63 57 ≠ 0 || rangesMeet keys out || rangesMeet keys o || rangesMeet out o

/-- MAPGETN (R321, R322). -/
def execMapgetn (d a b : RField) (qn : QField) (s : State) : Host.Outcome State Fault Refusal :=
  issue s { policyHints with start := true } [gD d, gA a, gB b] false fun s c =>
    let h := c.g (gA a)
    let req := c.g (gB b)
    let obj := c.g (gD d)
    let q := c.q qn
    match s.mapCheck c.sid h q false with
    | .inr t => .fault t
    | .inl m => withRecord s c <| match s.readRecord c.sid req 32 32 with
      | (s, .inr t) => .faultIn s t
      | (s, .inl n) =>
        let r : Rec768 := BitVec.ofNat 768 n
        if getnKeys r % 8 ≠ 0 then .faultIn s (trapOf .misalign (BitVec.ofNat 64 (getnKeys r)))
        else if getnOut r % 8 ≠ 0 then .faultIn s (trapOf .misalign (BitVec.ofNat 64 (getnOut r)))
        else match objectBad obj with
          | some t => .faultIn s t
          | none =>
            if getnBad r m.p obj then .faultIn s (trapOf .operand req)
            else
              let again : Bool := c.regs.csr.mpx ≠ 0
              match (if again then none else timingBad s c) with
              | some t => .faultIn s t
              | none => emit (if again then s else s.noteStart c) c (.copy
                  { kind := .mapgetn, record := r, obj := obj, third := h, q := q, hstart := startVc c, hseq := none,
                    follow := none }) c.next

/-- MAPSCAN (R325): slice by slice, with every check in each slice's step. -/
def execMapscan (d a b : RField) (qn : QField) (s : State) : Host.Outcome State Fault Refusal :=
  issue s policyHints [gD d, gA a, gB b] false fun s c =>
    .wait (s.post 0 (.mapscanSliceStep c.sid)) .serial (.scan (c.g (gA a)) (c.g (gB b)) (c.g (gD d)) (c.q qn))

/-- MAPSTL (R326). -/
def execMapstl (a : RField) (qn : QField) (s : State) : Host.Outcome State Fault Refusal :=
  issue s policyHints [gA a] false fun s c => .wait (s.post 0 (.settleStep c.sid)) .serial (.settle (c.g (gA a)) 0 (c.q qn))

/-- MAPCLR (R327). -/
def execMapclr (a : RField) (qn : QField) (s : State) : Host.Outcome State Fault Refusal :=
  issue s policyHints [gA a] false fun s c => .wait (s.post 0 (.mapclrShardStep c.sid)) .serial (.clear (c.g (gA a)) (c.q qn))

/-- MAPINFO (R328). -/
def execMapinfo (d a : RField) (qn : QField) (s : State) : Host.Outcome State Fault Refusal :=
  issue s policyHints [gD d, gA a] false fun s c =>
    match s.mapCheck c.sid (c.g (gA a)) (c.q qn) with
    | .inr t => .fault t
    | .inl _ => .wait (s.post 0 (.mapinfoAnswer c.sid)) .barrierPhase (.info (c.g (gA a)) (c.h.x (gD d)) (c.q qn))

end Sys2Proof.Machine
end

