-- ==== Sys2Proof/Machine/Sfu.lean ====
section
/-! DEFINITION. The values of the special functions (R266, R267), correctly rounded: an enclosure of the exact value by
two rationals is narrowed until both round alike (notes/assumptions/9.md). Fixed-point numbers of p fraction bits are integers; every
function says how many units of the last place its result may be off. -/

namespace Sys2Proof.Machine

/-! ## Fixed point -/

def fxMul (p : Nat) (a b : Int) : Int := a * b / (2 ^ p : Nat)

/-- Sum of x^n / n! from a term on (|x| at most 1): off by at most 4 p + 40. -/
def expLoop (p : Nat) (x : Int) : Nat → Nat → Int → Int
  | 0, _, _ => 0
  | f + 1, n, t => if t = 0 then 0 else t + expLoop p x f (n + 1) (fxMul p t x / (n + 1))

def fxExp (p : Nat) (x : Int) : Int := expLoop p x (p + 10) 0 (2 ^ p : Nat)

/-- Sum of the arctangent or atanh series of 1 / k from a power on; alternating where `alt`. -/
def arcLoop (k : Nat) (alt : Bool) : Nat → Nat → Bool → Nat → Int
  | 0, _, _, _ => 0
  | f + 1, n, neg, pow =>
    if pow = 0 then 0
    else (if neg then -((pow / n : Nat) : Int) else (pow / n : Nat)) + arcLoop k alt f (n + 2) (alt && !neg) (pow / (k * k))

/-- Pi, by Machin's formula: off by at most 40 p. -/
def fxPi (p : Nat) : Int :=
  4 * (4 * arcLoop 5 true (p + 10) 1 false (2 ^ p / 5) - arcLoop 239 true (p + 10) 1 false (2 ^ p / 239))

/-- Natural logarithm of 2: off by at most 2 p. -/
def fxLn2 (p : Nat) : Int := 2 * arcLoop 3 false (p + 10) 1 false (2 ^ p / 3)

/-- Sum of the atanh series of z (|z| at most 1/3): off by at most 4 p. -/
def atanhLoop (p : Nat) (z2 : Int) : Nat → Nat → Int → Int
  | 0, _, _ => 0
  | f + 1, n, pow => if pow = 0 ∨ pow = -1 then 0 else pow / n + atanhLoop p z2 f (n + 2) (fxMul p pow z2)

/-- Sine series from a term on. -/
def sinLoop (p : Nat) (x2 : Int) : Nat → Nat → Int → Int
  | 0, _, _ => 0
  | f + 1, n, t => if t = 0 ∨ t = -1 then 0 else t + sinLoop p x2 f (n + 2) (-(fxMul p t x2) / (n * (n + 1)))

def fxSin (p : Nat) (x : Int) : Int := sinLoop p (fxMul p x x) (p + 10) 2 x
def fxCos (p : Nat) (x : Int) : Int := sinLoop p (fxMul p x x) (p + 10) 1 (2 ^ p : Nat)

/-- Error series: sum of (-1)^n x^(2n+1) / (n! (2n+1)). -/
def erfLoop (p : Nat) (x2 : Int) : Nat → Nat → Int → Int
  | 0, _, _ => 0
  | f + 1, n, t => if (t = 0 ∨ t = -1) ∧ 100 < n then 0 else t / (2 * n + 1) + erfLoop p x2 f (n + 1) (-(fxMul p t x2) / (n + 1))

/-! ## Enclosures: numerators over 2^p that bound the magnitude, times 2^k -/

/-- An enclosure: sign, and bounds num / den of the magnitude. -/
structure Encl where
  neg : Bool
  lo : Nat × Nat
  hi : Nat × Nat

/-- A value known as a fixed-point number, off by at most err, times 2^k. -/
def enclFx (p : Nat) (a : Int) (err : Nat) (k : Int) : Encl :=
  let m := a.natAbs
  let sc (n : Nat) : Nat × Nat := if 0 ≤ k then (n * 2 ^ k.toNat, 2 ^ p) else (n, 2 ^ (p + (-k).toNat))
  ⟨a < 0, sc (m - err), sc (m + err)⟩

/-- A rational strictly between the value's neighbours, standing for it in every rounding. -/
def enclAt (neg : Bool) (num den : Nat) : Encl := ⟨neg, (num, den), (num, den)⟩

/-- x as a fixed-point number, floored. -/
def fxOf (p : Nat) (neg : Bool) (m : Nat) (e : Int) : Int :=
  let k := e + p
  let v : Nat := if 0 ≤ k then m * 2 ^ k.toNat else m / 2 ^ (-k).toNat
  if neg then -(v : Int) else v

/-- 2^y for a fixed-point y that is off by at most err: floor and fraction apart. -/
def pow2Fx (p : Nat) (y : Int) : Int × Int :=
  let one : Int := (2 ^ p : Nat)
  (fxExp p (fxMul p (y % one) (fxLn2 p)), y / one)

/-- e^-y for y of 0 or above, as bounds over 2^q: off by at most 2^40 p units. -/
def expNeg (p : Nat) (m : Nat) (e : Int) : Nat × Nat × Nat :=
  let y := -(fxOf p false m e) * (2 ^ p : Nat) / fxLn2 p
  let (v, k) := pow2Fx p y
  let q := p + (-k).toNat
  (v.toNat - 2 ^ 40 * p, v.toNat + 2 ^ 40 * p, q)

/-- The exponent of x: 2^n ≤ x < 2^(n + 1). -/
def magOf (m : Nat) (e : Int) : Int := (Nat.log2 m : Int) + e

def big : Nat := 2 ^ 20000

/-- An enclosure of a function of a finite x that is not a special case, at p bits (R267). -/
def enclose (f : Nat) (neg : Bool) (m : Nat) (e : Int) (p : Nat) : Encl :=
  let mag := magOf m e
  let tiny := 2 ^ 200
  match f with
  | 0 =>
    if 15 ≤ mag then (if neg then enclAt false 1 big else enclAt false big 1)
    else if mag < -60 then enclAt false (if neg then tiny - 1 else tiny + 1) tiny
    else
      let (v, k) := pow2Fx p (fxOf p neg m e)
      enclFx p v (2 ^ 20 * p) k
  | 1 =>
    let one : Int := (2 ^ p : Nat)
    let y := fxOf p false m (-(Nat.log2 m : Int))
    let z := (y - one) * one / (y + one)
    let ln := 2 * atanhLoop p (fxMul p z z) (p + 10) 1 z
    let l2 := ln * one / fxLn2 p + mag * one
    enclFx p l2 (2 ^ 20 * p) 0
  | 5 | 6 =>
    if mag < -31 then
      if f = 6 then enclAt false (tiny - 1) tiny
      else if 0 ≤ e then enclAt neg (m * 2 ^ e.toNat * (tiny - 1)) tiny else enclAt neg (m * (tiny - 1)) (2 ^ (-e).toNat * tiny)
    else
      let w := p + (if 0 ≤ mag then mag.toNat else 0) + 8
      let pi := fxPi w
      let x := fxOf w neg m e
      let k := (2 * x + pi / 2) / pi
      let r := (x - k * pi / 2) / (2 ^ (w - p) : Nat)
      let i := (k + (if f = 6 then 1 else 0)) % 4
      let v := if i % 2 = 0 then fxSin p r else fxCos p r
      enclFx p (if i < 2 then v else -v) (2 ^ 20 * (p + w)) 0
  | 7 =>
    if mag < -31 then
      (if 0 ≤ e then enclAt neg (m * 2 ^ e.toNat * (tiny - 1)) tiny else enclAt neg (m * (tiny - 1)) (2 ^ (-e).toNat * tiny))
    else if 6 ≤ mag then enclAt neg (tiny - 1) tiny
    else
      let (lo, hi, q) := expNeg p (2 * m) e
      ⟨neg, (2 ^ q - hi, 2 ^ q + hi), (2 ^ q - lo, 2 ^ q + lo)⟩
  | 8 =>
    if mag < -60 then enclAt false (if neg then tiny - 1 else tiny + 1) (2 * tiny)
    else if 15 ≤ mag then (if neg then enclAt false 1 big else enclAt false (tiny - 1) tiny)
    else
      let (lo, hi, q) := expNeg p m e
      if neg then ⟨false, (lo, 2 ^ q + lo), (hi, 2 ^ q + hi)⟩ else ⟨false, (2 ^ q, 2 ^ q + hi), (2 ^ q, 2 ^ q + lo)⟩
  | _ =>
    if 4 ≤ mag then enclAt neg (tiny - 1) tiny
    else
      let w := p + 1000
      let x := fxOf w false m e
      let s := erfLoop w (fxMul w x x) (2 * w + 10) 0 x
      let c := Nat.sqrt (4 * 2 ^ (3 * w) / (fxPi w).toNat)
      let v := fxMul w s c / (2 ^ 1000 : Nat)
      enclFx p (if neg then -v else v) 16 0

/-- Narrows the enclosure until both ends round alike: n more times, each with twice the bits. The exact value is on no boundary of
rounding, so some number of bits tells (notes/assumptions/9.md). -/
def narrow (f : Nat) (t : Fmt) (mode : Nat) (neg : Bool) (m : Nat) (e : Int) : Nat → Nat → Nat
  | 0, p => let c := enclose f neg m e p; roundRatio t mode 0 c.neg c.lo.1 c.lo.2
  | n + 1, p =>
    let c := enclose f neg m e p
    let a := roundRatio t mode 0 c.neg c.lo.1 c.lo.2
    let b := roundRatio t mode 0 c.neg c.hi.1 c.hi.2
    if c.lo.1 ≠ 0 && a = b then a else narrow f t mode neg m e n (2 * p)

/-- The square root of num / den, rounded (R267): an integer root with enough bits, and half a unit where it is inexact. -/
def sqrtBits (t : Fmt) (mode num den : Nat) : Nat :=
  let k := 2400 + Nat.log2 den
  let r := Nat.sqrt (num * 2 ^ (2 * k) / den)
  if r * r * den = num * 2 ^ (2 * k) then roundRatio t mode 0 false r (2 ^ k)
  else roundRatio t mode 0 false (2 * r + 1) (2 ^ (k + 1))

/-- A function of one pattern of type t, flushed and rounded (R266, R267). -/
def sfuValue (f : Nat) (t : Fmt) (mode : Nat) (ftz : Bool) (x : Nat) : Nat :=
  let s (neg : Bool) (b : Nat) := (if neg then signBit t else 0) + b
  let one := t.bias * 2 ^ t.frac
  let v := unpackFtz t ftz x
  let special : Option Nat :=
    match f, v with
    | _, .nan => some t.canonNan
    | 0, .inf n => some (if n then 0 else t.infBits)
    | 1, .inf n => some (if n then t.canonNan else t.infBits)
    | 1, .fin n m _ => if m = 0 then some (s true t.infBits) else if n then some t.canonNan else none
    | 2, .inf n => some (s n 0)
    | 2, .fin n m _ => if m = 0 then some (s n t.infBits) else none
    | 3, .inf n => some (if n then t.canonNan else 0)
    | 3, .fin n m _ => if m = 0 then some (s n t.infBits) else if n then some t.canonNan else none
    | 4, .inf n => some (if n then t.canonNan else t.infBits)
    | 4, .fin n m _ => if m = 0 then some (s n 0) else if n then some t.canonNan else none
    | 5, .inf _ => some t.canonNan
    | 5, .fin n m _ => if m = 0 then some (s n 0) else none
    | 6, .inf _ => some t.canonNan
    | 6, .fin _ m _ => if m = 0 then some one else none
    | 7, .inf n => some (s n one)
    | 7, .fin n m _ => if m = 0 then some (s n 0) else none
    | 8, .inf n => some (if n then 0 else one)
    | 8, .fin _ m _ => if m = 0 then some (one - 2 ^ t.frac) else none
    | 0, .fin _ m _ => if m = 0 then some one else none
    | _, .inf n => some (s n one)
    | _, .fin n m _ => if m = 0 then some (s n 0) else none
  match special, v with
  | some r, _ => r
  | none, .fin n m e =>
    let num := if 0 ≤ e then m * 2 ^ e.toNat else m
    let den := if 0 ≤ e then 1 else 2 ^ (-e).toNat
    let r : Nat :=
      match f with
      | 2 => roundRatio t mode 0 n den num
      | 3 => sqrtBits t mode den num
      | 4 => sqrtBits t mode num den
      | 0 => if den = 1 && num < 5000 then
            (if n then roundRatio t mode 0 false 1 (2 ^ num) else roundRatio t mode 0 false (2 ^ num) 1)
          else if num % den = 0 && num / den < 5000 then
            (if n then roundRatio t mode 0 false 1 (2 ^ (num / den)) else roundRatio t mode 0 false (2 ^ (num / den)) 1)
          else narrow f t mode n m e 64 128
      | 1 => if m = 2 ^ Nat.log2 m then
            (let k := magOf m e; roundRatio t mode 0 (k < 0) k.natAbs 1)
          else narrow f t mode n m e 64 128
      | _ => narrow f t mode n m e 64 (128 + 2 * (-(magOf m e)).toNat)
    flushBits t ftz r
  | none, _ => t.canonNan

end Sys2Proof.Machine
end

