-- ==== Sys2Proof/Machine/StrandSteps.lean ====
section
/-! DEFINITION. The steps that a strand's own rules make (R124 to R133, R194, R341, R367, R432 to R434): late events and
holds, landings with fault points, deferred effects and the ends of parks; and the requests that a strand has at homes
(R166, R177 to R179, R188, R191, R308, R427). -/

namespace Sys2Proof.Machine

/-! ## Looking again -/

/-- The step that may now end what a strand waits for by its own earlier instructions (R133, R334, R353, R433), or its
drain (R369). -/
def State.lookPark (s : State) (x : SId) : State :=
  match (s.strand x).park with
  | none => s
  | some p => match p.on with
    | .again => if s.clear x && !(s.strand x).blockedBy p.seq then s.postOnce 0 (.parkResume x) else s
    | .link _ _ | .bank _ _ => if s.clear x then s.postOnce 0 (.parkResume x) else s
    | .order o => if (s.strand x).nextWaits o then s else s.postOnce 0 (.parkResume x)
    | .fence _ => s.postOnce 0 (.parkResume x)
    | .arrival _ _ _ _ _ => s.postOnce 0 (.woadArrival x)
    | .mapnew _ _ _ => if p.reason = .serial then s.postOnce 0 (.mapnewComplete x) else s
    | .rangeMacro _ _ _ _ => s.postOnce 0 (.rangeStep x)
    | .scan _ _ _ _ => if p.reason = .serial then s.postOnce 0 (.mapscanSliceStep x) else s
    | .settle _ _ _ => if p.reason = .serial then s.postOnce 0 (.settleStep x) else s
    | .clear _ _ => if p.reason = .serial then s.postOnce 0 (.mapclrShardStep x) else s
    | .tlbinv _ _ _ _ => s.postOnce 0 (.tlbinvComplete x)
    | .info _ _ _ => if p.reason = .barrierPhase then s.postOnce 0 (.mapinfoAnswer x) else s
    | _ => s

def State.look (s : State) (x : SId) : State := (s.lookPark x).lookDrain x



/-- The request after one that has been taken at its home is looked at. -/
def State.nextRequest (s : State) (x : SId) : State :=
  match (s.strand x).inflight.find? (·.isSent) with
  | some e =>
    match e.req with
    | some (.mapKey _, _) => s.postOnce 0 (.sequencerAccept x e.seq)
    | some (_, .sent 0) => s.postOnce 0 (.homeSliceRequest x e.seq none)
    | _ => s
  | none => s

/-! ## Parks (R127) -/

/-- The strand goes on from its park: its next word can issue in slot `next`, and writes land lat vc after slot `at_`. -/
def State.resumeFrom (s : State) (x : SId) (at_ next lat seq : Nat) (ws : List Dest) : State :=
  let cc := s.clock.cc
  s.modStrand x fun st => (({ (st.unpark cc) with slot := next }).faultFrom seq at_).land (at_ + lat) seq ws

/-- The strand goes on from its park in a slot, with writes that land lat vc after it. -/
def State.resumeAt (s : State) (x : SId) (slot lat seq : Nat) (ws : List Dest) : State := s.resumeFrom x slot slot lat seq ws

/-- The strand goes on at its instruction, which issues again. -/
def State.reissue (s : State) (x : SId) (p : Park) : State := s.resumeAt x (s.parkSlot x p.reason) 0 p.seq []

/-- A fault of the parked instruction: it is raised at its fault point, the vc at which it would have resumed (R131). -/
def State.parkFault (s : State) (x : SId) (p : Park) (t : TrapInfo) : State :=
  let cc := s.clock.cc
  let v := s.parkSlot x p.reason
  s.modStrand x fun st =>
    let st := (st.unpark cc).faultFrom p.seq v
    { st with
      slot := v
      inflight := st.inflight.map fun e => if e.seq = p.seq then { e with trap := some t, req := none } else e }

/-- A parked strand waits on for another reason. -/
def State.parkReason (s : State) (x : SId) (reason : ParkReason) : State :=
  let cc := s.clock.cc
  s.modStrand x fun st => match st.park with | some p => st.turnPark reason p.on cc | none => st

/-- PARK_RESUME on one park: it ends where its condition holds. -/
def State.resumePark (s : State) (x : SId) (p : Park) : State :=
  match p.on with
  | .again => if s.clear x && !(s.strand x).blockedBy p.seq then s.reissue x p else s
  | .order o => if (s.strand x).nextWaits o then s else s.reissue x p
  | .link pops pushes => if s.clear x && s.linkReady x pops pushes then s.reissue x p else s
  | .bank b n =>
    if (s.core x.core).bankBusyBefore b n then s else (s.reissue x p).modStrand x fun st => { st with resumed := true }
  | .ready lat ws trap =>
    match trap with
    | some t => s.parkFault x p t
    | none => s.resumeFrom x (s.parkSlot x p.reason) (s.resumeSlot x) lat p.seq ws
  | .counter n =>
    if (s.counter (s.jobOf x) n).state = .done then (s.breakRegion x).resumeAt x (s.resumeSlot x) 0 p.seq [] else s
  | .message d =>
    match d with
    | none => if (s.core x.core).inbox.isEmpty then s else (s.endRegion x).resumeAt x (s.resumeSlot x) 0 p.seq []
    | some n => match s.popMsg x.core with
      | some (m, t) => (t.endRegion x).resumeAt x (t.resumeSlot x) 0 p.seq (msgWrites n m)
      | none => s
  | .stream d => match s.popStream x with
    | some (v, t) => t.resumeAt x (t.resumeSlot x) 2 p.seq [.v d v]
    | none => s
  | .fence acq => if s.fenceReady x p.seq acq then (s.endRegion x).resumeAt x (s.resumeSlot x) 0 p.seq [] else s
  | .quiesce j => if (s.job j).run = JobRun.stopped then s.resumeAt x (s.resumeSlot x) 0 p.seq [] else s
  | .migrate a b =>
    if (s.core a).forward.isSome && (s.core b).job = (s.core a).job then s.resumeAt x (s.resumeSlot x) 0 p.seq [] else s
  | .mapnew _ _ _ => s.post 0 (.mapnewComplete x)
  | .scan _ _ _ _ => s.post 0 (.mapscanSliceStep x)
  | .settle _ _ _ => s.post 0 (.settleStep x)
  | .clear _ _ => s.post 0 (.mapclrShardStep x)
  | .tlbinv _ _ _ _ => s.post 0 (.tlbinvComplete x)
  | .info _ _ _ => if p.reason = .writeBlocked then s.post 0 (.mapinfoAnswer x) else s
  | .arrival _ _ _ _ _ => s.post 0 (.woadArrival x)
  | .rangeMacro _ _ _ _ => s.post 0 (.rangeStep x)
  | .phase l n => if objPhase s l = n.toNat then (s.breakRegion x).resumeAt x (s.resumeSlot x) 0 p.seq [] else s
  | .home seq => match (s.strand x).inflight.find? (·.seq = seq) with
    | some e =>
      let st := s.strand x
      if p.reason = .sfu && (match e.req with | some (_, .answered _) => true | _ => false) then
        if s.clock.cc < st.ccOf e.faultVc || st.held ≠ 0 then s.postOnce (s.ccTo x e.faultVc) (.parkResume x)
        else s.resumeAt x (Nat.max st.slot e.faultVc) 0 p.seq []
      else s
    | none => s
  | .effect | .woad _ _ _ _ => s

/-- PARK_RESUME: an effect that had to wait is tried again; then the park, if it still stands. -/
def State.parkResume (s : State) (x : SId) : State :=
  if (s.strand x).run ≠ .running then s
  else
    let s := if (s.strand x).deferred.any (·.stuck.isSome) then (s.retryHead x).nextRequest x else s
    match (s.strand x).park with
    | none => s.look x
    | some p =>
      let t := s.resumePark x p
      if (t.strand x).park = some p then t.lookDrain x else t.look x

/-! ## Landings and fault points (R128, R131, R132) -/

/-- A full/empty load that has been found to wait parks from its landing vc (R194): also a strand that stands at a later instruction
which waits for it, and, beneath its wait, one that stands in a wait that is no park. -/
def State.parkWaiting (s : State) (x : SId) (v : Nat) : State :=
  let st := s.strand x
  match st.inflight.find? fun e => e.waits && e.faultVc ≤ v with
  | none => s
  | some e =>
    let cc := s.clock.cc
    if st.waitParks then
      (s.modStrand x fun st => { st with park := some ⟨.fullEmpty, .home e.seq, e.gpc, e.seq, e.faultVc, cc⟩ }).gangMark x
    else s.modStrand x fun st => { st with under := if st.park.any (·.reason = .serial) then st.under.or (some cc) else st.under }

/-- LANDING: a fault that is due is raised; a late trap is taken; else writes land and fault points pass. -/
def State.landing (s : State) (x : SId) : State :=
  let st := s.strand x
  if st.run ≠ .running then s
  else
    let v := st.vcAt s.clock.cc
    match st.dueTrap v with
    | some (e, t) => (s.raise x e t v).look x
    | none =>
      let s := (s.modStrand x fun st => st.settle v).commitSvec x
      match s.dueLate x with
      | some l =>
        if l.info.cause = .preempt && (s.strand x).pending ≠ [] then s.look x else (s.takeLate x l).look x
      | none => (s.parkWaiting x v).look x

/-- DEFERRED_EFFECT (R133). -/
def State.deferredEffect (s : State) (x : SId) : State :=
  match (s.strand x).effectDue with
  | some e => if s.clock.cc < (s.strand x).effectCc e then s else (((s.performHead x).nextRequest x).look x).tlbLook
  | none => s

/-! ## Late events and holds (R125, R126) -/

/-- LATE_EVENT_TEST: what is awaited at the domain's earliest such vc is not there, or its hold is owed, so the domain is held before
it. A late event whose vc was open is fixed here (R434). -/
def State.lateTest (s : State) (x : SId) : State :=
  let cc := s.clock.cc
  let s := (s.domain x).foldl (fun u y => u.modStrand y fun st => st.fixLates cc) s
  match s.lateAt x with
  | some t =>
    let h := (s.strand x).held
    if (h = 0 || t < h) && s.testCc x t ≤ cc then (s.holdAt x t).holdCheck x else s
  | none => s

/-- HOLD_END: the vc before which the domain was held begins. -/
def State.holdEnd (s : State) (x : SId) (n : Nat) : State :=
  let st := s.strand x
  if st.held = 0 || !s.present x || n = 0 || s.clock.cc ≠ st.ccOf st.held + n * s.rotation x then s
  else
    let s := ((s.pauseDomain x (n * s.rotation x)).retimeArrays x).holdMissed x st.held
    (s.domain x).foldl (fun t y => t.look y) s

/-! ## Requests at homes -/

/-- A line that a request finds may be cached (R408). -/
def State.requestCaches (s : State) (x : SId) (r : Request) : Bool :=
  match r with
  | .load ea _ _ _ _ | .atomic _ _ ea _ _ _ _ _ _ | .fe _ ea _ _ _ _ => s.cacheable x ea
  | _ => true

/-- A slice may refuse a request of class 1 to 3 whose line misses, four times at most (R179). A map operation reaches a slice
whatever is cached; an atomic or a full/empty operation passes its own L1. -/
def State.refusable (s : State) (x : SId) (r : Request) (n : Nat) : Bool :=
  match s.requestHome x r with
  | some (q, l) =>
    polTc q ≠ 0 && n < 4 && s.requestCaches x r && (match r with
      | .mapKey _ => true
      | .load _ _ _ _ _ => s.slicesMiss (clusterOf x.core) (l / 128) true
      | _ => s.slicesMiss (clusterOf x.core) (l / 128) false)
  | none => false

/-- A strand's requests are served in its program order, and none before an earlier operation that orders it has been performed
(R340, R348; notes/assumptions/12.md). -/
def Strand.firstSent (st : Strand) (seq : Nat) : Bool :=
  st.inflight.all fun e => if e.seq = seq then !st.heldBack e else !(e.seq < seq && e.isSent)

/-- A refusal with wait hint h: the retry follows 8 (h + 1) cc later (R179). -/
def State.refuse (s : State) (x : SId) (seq n h : Nat) : State :=
  (s.modStrand x fun st => st.setStage seq (.sent (n + 1))).post (8 * (h + 1)) (.requestRetry x seq)

/-- An atomic at its home, at the place of its translation (R352, R404). -/
def State.serveAtomic (s : State) (x : SId) (seq : Nat) (op : AOp) (n : Nat) (ea : Word) (p : Option (Nat × Option Word)) (y c : Word)
    (d mode : Nat) (q : Policy) : State :=
  match s.storePlace x ea p q Need.both with
  | .bad t => s.serve x seq [] (some t)
  | .blocked => s
  | .at_ l _ =>
    match s.atomicAt x op n ea l y c mode q with
    | (s, .inr t) => s.serve x seq [] (some t)
    | (s, .inl old) => s.serve x seq [.g d (BitVec.ofNat 64 old)] none

/-- A full/empty operation at its home (R188, R194). -/
def State.serveFe (s : State) (x : SId) (seq : Nat) (op : FeOp) (ea : Word) (l : Nat) (v : Word) (d : Nat) (q : Policy) : State :=
  match s.feTrap x op ea l q with
  | some t => s.serve x seq [] (some t)
  | none =>
    let s := s.passHome x ea l q true
    if op.fits (s.isEmpty l) then
      let r := s.feStep op l v d
      (r.1.serve x seq r.2 none).serveWord l
    else
      let s := (s.addWaiter x seq op l v d).modStrand x fun st => st.setStage seq .waiting
      let v := (((s.strand x).inflight.find? (·.seq = seq)).map (·.faultVc)).getD 0
      ((s.stallFrom x v).holdCheck x).postOnce 0 (.landing x)

/-- One request, served. -/
def State.serveRequest (s : State) (x : SId) (seq : Nat) (r : Request) : State :=
  match r with
  | .load ea l n dest q => match s.loadAt x ea l n q with
    | (t, .inr f) => t.serve x seq [] (some f)
    | (t, .inl bs) => t.serve x seq (dest.writes (t.overlay x seq l bs)) none
  | .atomic op n ea p y c d mode q => s.serveAtomic x seq op n ea p y c d mode q
  | .fe op ea l v d q => s.serveFe x seq op ea l v d q
  | .counter n d =>
    let c := s.counter (s.jobOf x) n
    (s.endRegion x).serve x seq [.g d c.word] none
  | .mapKey _ | .sfu _ _ _ _ _ _ => s

/-- A full/empty operation that must wait finds 16 waiters at its slice (R188). -/
def State.waitersFull (s : State) (r : Request) : Bool :=
  match r with
  | .fe op _ l _ _ _ => !op.fits (s.isEmpty l) && 16 ≤ s.waitersAt l
  | _ => false

/-- A request finds its line missing: the slice refuses it once at least. Whether a map operation's shard is at hand is open. -/
def Request.missRefused : Request → Bool
  | .mapKey _ => false
  | _ => true

/-- Whether a slice refuses a request that n refusals have met, and with which wait hint (R179): the one it is given, or else the one
that the first entry of `choices` names. The first refusal of a miss is sure, and that entry is its hint; a later one is open, and
the entry is h + 1 or 0 for none (notes/assumptions/57.md). Beyond 16 waiters a full/empty operation is refused whatever its class,
and as often as it finds them, its fourth refusal past or not (R188). -/
def State.refusesNow (s : State) (x : SId) (r : Request) (n : Nat) (h : Option (BitVec 6)) : State × Option Nat :=
  let sure : Bool := n = 0 && r.missRefused
  if s.waitersFull r then (s, some (h.getD 0).toNat)
  else if !s.refusable x r n then (s, none)
  else match h, s.choices with
    | some h, _ => (s, some h.toNat)
    | none, [] => (s, if sure then some 0 else none)
    | none, c :: rest => ({ s with choices := rest }, if sure then some (c % 64) else if c = 0 then none else some ((c - 1) % 64))

/-- A class-0 request of the strand is outstanding until its data returns (R177). -/
def State.classOut (s : State) (x : SId) : Bool :=
  (s.strand x).inflight.any fun e => match e.req with
    | some (r, .served _ _) | some (r, .filled _ _) => s.classZero x r
    | _ => false

/-- A class-0 request waits while another one of its strand is outstanding (R177). -/
def State.classWaits (s : State) (x : SId) (r : Request) : Bool := s.classZero x r && ((s.strand x).zeroOut || s.classOut x)



/-- The accumulator that a request's response adds to (R18, R427): the local LLC slice's where a map engine serves it, or a load that
misses in the L2; else the line's L2 slice's. A load that its own cluster's L1 serves has none (notes/assumptions/59.md). -/
def State.servedAt (s : State) (x : SId) (r : Request) : Option Nat :=
  match r with
  | .mapKey c => (s.mapSlice x c).map fun m => 32 + sliceLocal m
  | .load _ l _ _ _ =>
    if isHbm l && s.slicesMiss (clusterOf x.core) (l / 128) true then some (32 + llcSliceOf l)
    else if (s.mem.cached (.l1 (clusterOf x.core)) (l / 128)).isSome then none
    else lineBank l
  | _ => (s.requestHome x r).bind fun h => lineBank h.2

/-- The accumulator of a request's response is known once the request is served. -/
def State.served (s : State) (x : SId) (seq : Nat) (bank : Option Nat) : State :=
  s.modStrand x fun st => { st with inflight := st.inflight.map fun e => if e.seq = seq then { e with bank := bank } else e }

/-- HOME_SLICE_REQUEST: the request is refused, or served. -/
def State.homeRequest (s : State) (x : SId) (seq : Nat) (h : Option (BitVec 6)) : State :=
  let st := s.strand x
  match st.inflight.find? (·.seq = seq) with
  | some e => match e.req with
    | some (r, .sent n) =>
      if !st.firstSent seq || s.classWaits x r then s
      else match s.refusesNow x r n h with
        | (t, some h) => t.refuse x seq n h
        | (t, none) => ((t.served x seq (t.servedAt x r)).serveRequest x seq r).nextRequest x
    | _ => s
  | none => s

/-- REQUEST_RETRY (R179). -/
def State.retryRequest (s : State) (x : SId) (seq : Nat) : State :=
  match (s.strand x).inflight.find? (·.seq = seq) with
  | some e => match e.req with
    | some (.mapKey _, .sent (_ + 1)) => s.post 0 (.sequencerAccept x seq)
    | some (_, .sent (_ + 1)) => s.post 0 (.homeSliceRequest x seq none)
    | _ => s
  | none => s

/-- SEQUENCER_ACCEPT (R308, R317). -/
def State.sequencer (s : State) (x : SId) (seq : Nat) : State :=
  let st := s.strand x
  match st.inflight.find? (·.seq = seq) with
  | some e => match e.req with
    | some (.mapKey c, .sent n) =>
      if !st.firstSent seq || s.classWaits x (.mapKey c) then s
      else match s.refusesNow x (.mapKey c) n none with
        | (t, some h) => t.refuse x seq n h
        | (t, none) => match (t.served x seq (t.servedAt x (.mapKey c))).mapKeyAt x c with
          | (t, .inr f) => (t.serve x seq [] (some f)).nextRequest x
          | (t, .inl ds) => (t.serve x seq ds none).nextRequest x
    | _ => s
  | none => s

/-! ## Responses (R177, R427) -/



/-- Stores that have waited for a class-0 request of their strand to return are acknowledged after it (R177). -/
def State.storesLook (s : State) (x : SId) : State :=
  match (s.strand x).storeBuf with
  | b :: _ => if b.zero then s.postOnce (b.due - s.clock.cc) (.storePerformed x 0) else s
  | [] => s

/-- The fault of an instruction in flight is known. -/
def Strand.trapAt (st : Strand) (seq : Nat) (t : Option TrapInfo) : Strand :=
  { st with inflight := st.inflight.map fun f => if f.seq = seq then { f with trap := t } else f }

/-- MEMORY_RESPONSE: the results will land at the landing vc; a strand that is parked for them goes on. A value that a
full/empty load waited for lands, where its landing vc is past, at the strand's first slot after it (R194). -/
def State.respond (s : State) (x : SId) (seq : Nat) (delay : Nat) : State :=
  let st := s.strand x
  match st.inflight.find? (·.seq = seq) with
  | some e => match e.req with
    | some (_, .served ds t) =>
      let s := s.addDelay x.core e.bank delay
      let parked : Bool := st.park.any fun p => p.on = ParkOn.home seq
      let s := s.modStrand x fun st => st.setStage seq (.answered s.clock.cc)
      let s :=
        if parked then s.makeReady x 0 ds t
        else s.modStrand x fun st => (st.land e.faultVc seq ds).trapAt seq t
      ((((s.nextRequest x).storesLook x).holdCheck x).look x).tlbLook
    | some (_, .filled ds t) =>
      let s := s.addDelay x.core e.bank delay
      if st.park.any fun p => p.on = ParkOn.home seq then
        ((((s.modStrand x fun st => st.setStage seq (.answered s.clock.cc)).makeReady x 0 ds t).nextRequest x).storesLook x).look x |>.tlbLook
      else
        let v := if e.faultVc ≤ st.vcAt s.clock.cc then Nat.max e.faultVc (s.resumeSlot x) else e.faultVc
        let s := s.modStrand x fun st => ((((st.surface s.clock.cc).setStage seq (.answered s.clock.cc)).land v seq ds).faultFrom seq v).trapAt seq t
        (((s.nextRequest x).storesLook x).look x).tlbLook
    | _ => s
  | none => s

/-- STORE_PERFORMED: the home has performed and acknowledged the strand's oldest buffered store (R191), once a refusal's retry has
come (R179). One of class 0 waits while another class-0 request of the strand is outstanding (R177). -/
def State.storeDone (s : State) (x : SId) (delay : Nat) : State :=
  match (s.strand x).storeBuf with
  | [] => s
  | l :: ls =>
    if s.clock.cc < l.due || (l.zero && ((s.strand x).msgOut || s.classOut x)) then s
    else
      let s := (s.addDelay x.core (lineBank l.loc) delay).modStrand x fun st => { st.storeHere with storeBuf := ls }
      (((s.nextRequest x).storesLook x).holdCheck x).look x

/-! ## The SFU (R265) -/

/-- The L1 slice index of a request's core, from the one after the last served on. -/
def ringDistance (last : Nat) (x : SId) : Nat := (l1Slice x.core + 8 - (last + 1) % 8) % 8

/-- The request that the ring reaches first, the oldest of its core. -/
def Sfu.first (u : Sfu) : Option (SId × Nat) :=
  u.ring.foldl (fun (m : Option (SId × Nat)) r =>
    match m with
    | none => some r
    | some b => if ringDistance u.last r.1 < ringDistance u.last b.1 then some r else m) none

/-- SFU_ACCEPT: the next request; one is accepted every 2 cc. `idleAt` is the core cycle from which the next may be. -/
def State.sfuTake (s : State) (k : Nat) : State :=
  let u := s.sfuOf k
  if s.clock.cc < u.idleAt then (if u.ring = [] then s else s.postOnce (u.idleAt - s.clock.cc) (.sfuAccept k))
  else match u.first with
    | none => s
    | some r =>
      let s := s.setSfu k { ring := u.ring.erase r, accepted := u.accepted ++ [(s.clock.cc, r)], last := l1Slice r.1.core, idleAt := s.clock.cc + 2 }
      let s := s.post 40 (.sfuResult k)
      if (u.ring.erase r) = [] then s else s.post 2 (.sfuAccept k)

/-- SFU_RESULT: 40 cc after its acceptance a result reaches its strand, and lands at its vc. -/
def State.sfuAnswer (s : State) (k : Nat) : State :=
  let u := s.sfuOf k
  match u.accepted with
  | [] => s
  | (cc, x, seq) :: rest =>
    if s.clock.cc < cc + 40 then s
    else
      let s := s.setSfu k { u with accepted := rest }
      match (s.strand x).inflight.find? (·.seq = seq) with
      | some e => match e.req with
        | some (.sfu f t v d mode ftz, .sent _) =>
          let s := s.modStrand x fun st =>
            (st.setStage seq (.answered s.clock.cc)).land e.faultVc seq [.g d (BitVec.ofNat 64 (sfuValue f t mode ftz v.toNat))]
          ((s.holdCheck x).post (s.ccTo x e.faultVc) (.parkResume x)).look x
        | _ => s
      | none => s

end Sys2Proof.Machine
end

