-- ==== Sys2Proof/Machine/EngineSteps.lean ====
section
/-! DEFINITION. The steps of copy engines, link ports, streams, message queues, the array and MAPGETN (R202 to R222, R250,
R262, R263, R269, R278 to R287, R321 to R323). A core that has moved is found through its forwarding entry (R379). -/

namespace Sys2Proof.Machine

/-- What follows a step of a core's engines: markers may pass (R371), TLBINVs may complete (R417). -/
def State.enginesLook (s : State) (core : Nat) : State := (s.markersLook core).tlbLook

/-- COPY_START (R203). -/
def State.copyStep (s : State) (core : Nat) : State :=
  let c := s.fwd core
  if s.engineRuns c (.copy c) then (s.tryStart c).enginesLook c else s

/-- Two landings name one byte, or both only count. -/
def Land.meets (m l : Land) : Bool :=
  match m.loc, l.loc with
  | some a, some b => Machine.meets a m.bytes.length (b, l.bytes.length)
  | none, none => true
  | _, _ => false

/-- From one landing to an earlier one that names a byte of it, and on from there, as far as one that no earlier one meets. -/
def landFirst (ls : List Land) : Nat → Nat → Nat
  | 0, i => i
  | n + 1, i => match ls[i]? with
    | none => i
    | some l => match (ls.take i).findIdx? (·.meets l) with
      | some j => landFirst ls n j
      | none => i

/-- The landing that may be next where one is chosen: bytes that several positions of a window name are written in their order (R212,
R222). -/
def landIndex (ls : List Land) (pick : Nat) : Option Nat :=
  if ls = [] then none else some (landFirst ls ls.length (pick % ls.length))

/-- BYTE_LANDING (R206, R211 to R213). -/
def State.landStep (s : State) (core id pick : Nat) : State :=
  let c := s.fwd core
  let goes := s.engineRuns c (.copy c)
  let s := if goes then (s.startRows c id).unbox c id else s
  match (s.core c).ops.find? (·.id = id) with
  | some o =>
    if !o.started then s
    else match landIndex o.todo pick with
      | none =>
        let s := ((s.stampSlots c id).completeOp c id).enginesLook c
        if goes && o.rows ≠ [] then s.post 1 (.byteLanding c id pick) else s
      | some i => match o.todo[i]? with
        | none => s
        | some l =>
          let s := (s.modOp c id fun o => { o.withLanded l with todo := o.todo.eraseIdx i }).landOne o c l
          let s := (s.stampSlots c id).completeOp c id
          let s := if o.todo.length = 1 && o.rows = [] then s.post 0 (.arrayCommandStart c) else s.post 1 (.byteLanding c id pick)
          s.enginesLook c
  | none => s

/-- The first held message of a core whose target has room and for which no earlier one waits (R209, R210). -/
def State.nextHeld (s : State) (c : Nat) : Option Nat :=
  let ts := (s.core c).heldTo
  ts.zipIdx.findSome? fun (t, i) => if s.inboxRoom (s.fwd t) && !(ts.take i).contains t then some i else none

/-- HELD_FLIP_APPLY (R209): a message that waits leaves, and the steps that waited for it are made. -/
def State.flipStep (s : State) (core : Nat) : State :=
  let c := s.fwd core
  let k := s.core c
  match s.nextHeld c with
  | none => s
  | some i => match k.held[i]?, k.heldTo[i]? with
    | some m, some t =>
      let s := (s.modCore c fun k => { k with held := k.held.eraseIdx i, heldTo := k.heldTo.eraseIdx i }).sendMsg t m
      ((s.freeSteps c k.flips.length).wake fun x p => x.core = c && p.reason = .message && p.on = .effect).postAll
        [.heldFlipApply c, .copyStart c]
    | _, _ => s

/-- The strand's message has reached its queue: what waited for its class-0 request goes on (R177, R225). -/
def State.messageHere (s : State) (x : SId) : State :=
  (((s.modStrand x fun st => { st with msgOut := false }).nextRequest x).storesLook x).look x

/-- MESSAGE_ARRIVAL (R210): the oldest message on its way from the sender of the chosen one. -/
def State.messageStep (s : State) (core pick : Nat) : State :=
  let c := s.fwd core
  let k := s.core c
  match k.transit[pick % Nat.max 1 k.transit.length]? with
  | none => s
  | some m =>
    if 16 ≤ k.inbox.length then s
    else match k.transit.find? (·.sender = m.sender) with
      | some e =>
        let s := s.modCore c fun k => { k with transit := k.transit.erase e, inbox := k.inbox ++ [e] }
        let s := if e.kind = 0 then s.messageHere ⟨s.fwd e.sender, e.strand⟩ else s
        s.wake fun y p => y.core = c && (match p.on with | .message _ => true | _ => false)
      | none => s

/-- FOLLOW_ON_START (R221): in the core cycle after its copy's completion a command is handed over. -/
def State.followStep (s : State) (core : Nat) : State :=
  let c := s.fwd core
  let due (a : ArrayCmd) : Bool := a.handAt ≠ 0 && a.handAt ≤ s.clock.cc
  (s.modCore c fun k => { k with array := k.array.map fun a => if due a then { a with waitCopy := none, handAt := 0 } else a }).post 0
    (.arrayCommandStart c)

/-- ROUTE_GRANT (R263): the first strand that waits for a free target opens its route. -/
def State.grantStep (s : State) (core : Nat) : State :=
  let c := s.fwd core
  let k := s.core c
  match k.routeHolder, k.routeWait with
  | none, x :: ys =>
    match (s.strand x).headEffect with
    | some e => match e.eff with
      | .sopen w =>
        let s := s.modCore c fun k => { k with routeHolder := some x, routeWait := ys }
        let s := s.modStrand x fun st => { st with route := some w.toNat }
        ((s.endRegion x).effectDone x e.seq).look x
      | _ => s.modCore c fun k => { k with routeWait := ys }
    | none => s.modCore c fun k => { k with routeWait := ys }
  | _, _ => s

/-- ROUTE_AUTO_CLOSE (R263): an ended task's route is closed where the strand has no earlier one to close. -/
def State.autoClose (s : State) (x : SId) : State := s.closeRoute x

/-- ARRAY_COMMAND_START (R279). -/
def State.arrayStep (s : State) (core : Nat) : State :=
  let c := s.fwd core
  if s.arrayGoes c then (s.tryArray c).enginesLook c else s

/-- K_STEP_END (R282). -/
def State.kStep (s : State) (core : Nat) : State :=
  let c := s.fwd core
  (s.stepDue c).enginesLook c

/-- BANK_RELEASE (R269, R73): no array command of the task that owned the bank is left, whichever its bank, and no new task has taken
the bank. -/
def State.releaseStep (s : State) (core bank : Nat) : State :=
  let c := s.fwd core
  let k := s.core c
  if k.releasing.contains bank && !k.bankBusy bank && !k.leftBy (precOstr (k.prec bank)) then
    (s.modCore c fun k => { k.setPrec bank (precFree (k.prec bank)) with releasing := k.releasing.filter fun b => b ≠ bank }).wakeCore c
  else s

/-- MAPGETN_DISPATCH (R322). -/
def State.getnStep (s : State) (core id : Nat) : State :=
  let c := s.fwd core
  if !s.engineRuns c (.copy c) then s
  else match (s.core c).ops.find? (·.id = id) with
    | some o =>
      if o.started && o.next < getnCount o.cmd.record && o.cmd.kind = .mapgetn then (s.getnDispatch c o).enginesLook c else s
    | none => s

/-- MAPGETN_RESULT (R322). -/
def State.getnAnswer (s : State) (core id pick : Nat) : State :=
  let c := s.fwd core
  match (s.core c).ops.find? (·.id = id) with
  | some o =>
    let n := Nat.max 1 o.probes.length
    let s := (s.getnResult c o (pick % n)).enginesLook c
    if 1 < o.probes.length then s.post 1 (.mapgetnResult c id pick) else s
  | none => s

/-- MZERO_APPLY (R280). -/
def State.zeroStep (s : State) (core : Nat) : State :=
  let c := s.fwd core
  if s.arrayGoes c then (s.tryZero c).enginesLook c else s

end Sys2Proof.Machine
end

