-- ==== Sys2Proof/Machine/EngineEvents.lean ====
section
/-! DEFINITION. The meanings of the steps of the opcode table that have no word: those of the engines of a core. A step that is not
enabled changes nothing (notes/assumptions/1.md). -/

namespace Sys2Proof.Machine

/-- COPY_START (R203). -/
def execCopyStart (core : Nat) (s : State) : Host.Outcome State Fault Refusal := .next (s.copyStep core)

/-- BYTE_LANDING (R206). -/
def execByteLanding (core op pick : Nat) (s : State) : Host.Outcome State Fault Refusal := .next (s.landStep core op pick)

/-- HELD_FLIP_APPLY (R209). -/
def execHeldFlipApply (core : Nat) (s : State) : Host.Outcome State Fault Refusal := .next (s.flipStep core)

/-- MESSAGE_ARRIVAL (R210). -/
def execMessageArrival (core pick : Nat) (s : State) : Host.Outcome State Fault Refusal := .next (s.messageStep core pick)

/-- FOLLOW_ON_START (R221). -/
def execFollowOnStart (core : Nat) (s : State) : Host.Outcome State Fault Refusal := .next (s.followStep core)

/-- LINK_WORD_ARRIVAL (R250). -/
def execLinkWordArrival (core port : Nat) (s : State) : Host.Outcome State Fault Refusal := .next (s.linkArrive core port)

/-- STREAM_WORD_ARRIVAL (R262). -/
def execStreamWordArrival (core : Nat) (s : State) : Host.Outcome State Fault Refusal := .next (s.streamArrive core)

/-- ROUTE_GRANT (R263). -/
def execRouteGrant (core : Nat) (s : State) : Host.Outcome State Fault Refusal := .next (s.grantStep core)

/-- ROUTE_AUTO_CLOSE (R263). -/
def execRouteAutoClose (sid : SId) (s : State) : Host.Outcome State Fault Refusal := .next (s.autoClose sid)

/-- ARRAY_COMMAND_START (R279). -/
def execArrayCommandStart (core : Nat) (s : State) : Host.Outcome State Fault Refusal := .next (s.arrayStep core)

/-- K_STEP_END (R282). -/
def execKStepEnd (core : Nat) (s : State) : Host.Outcome State Fault Refusal := .next (s.kStep core)

/-- MZERO_APPLY (R280). -/
def execMzeroApply (core : Nat) (s : State) : Host.Outcome State Fault Refusal := .next (s.zeroStep core)

/-- BANK_RELEASE (R269). -/
def execBankRelease (core : Nat) (bank : BitVec 1) (s : State) : Host.Outcome State Fault Refusal := .next (s.releaseStep core bank.toNat)

/-- MAPGETN_DISPATCH (R322). -/
def execMapgetnDispatch (core op : Nat) (s : State) : Host.Outcome State Fault Refusal := .next (s.getnStep core op)

/-- MAPGETN_RESULT (R322). -/
def execMapgetnResult (core op pick : Nat) (s : State) : Host.Outcome State Fault Refusal := .next (s.getnAnswer core op pick)

end Sys2Proof.Machine
end

