-- ==== Sys2Proof/Machine/Predicate.lean ====
section
/-! DEFINITION. The predicate instructions (R148 to R150): moves, logic and compares, all landing at ISSUE + LAT_ALU. -/

namespace Sys2Proof.Machine

/-- pd := f(pa, pb) (R148). -/
def pred2 (f : PWord → PWord → PWord) (d a b : PField) (s : State) : Host.Outcome State Fault Refusal :=
  issue s {} [] false fun s c => .go (s.results c 1 [.p d.toNat (f (c.p a) (c.p b))]) c.next

/-- PAND (R148). -/
def execPand (d a b : PField) (s : State) : Host.Outcome State Fault Refusal := pred2 (· &&& ·) d a b s
/-- POR (R148). -/
def execPor (d a b : PField) (s : State) : Host.Outcome State Fault Refusal := pred2 (· ||| ·) d a b s
/-- PXOR (R148). -/
def execPxor (d a b : PField) (s : State) : Host.Outcome State Fault Refusal := pred2 (· ^^^ ·) d a b s
/-- PNOT (R148). -/
def execPnot (d a : PField) (s : State) : Host.Outcome State Fault Refusal :=
  issue s {} [] false fun s c => .go (s.results c 1 [.p d.toNat (~~~c.p a)]) c.next

/-- MOVP gd, pa (R149). -/
def execMovpGP (d : RField) (a : PField) (s : State) : Host.Outcome State Fault Refusal :=
  issue s {} [gD d] false fun s c => .go (s.results c 1 [.g (c.h.x (gD d)) ((c.p a).setWidth 64)]) c.next

/-- MOVP pd, ga (R149). -/
def execMovpPG (d : PField) (a : RField) (s : State) : Host.Outcome State Fault Refusal :=
  issue s {} [gA a] false fun s c => .go (s.results c 1 [.p d.toNat ((c.g (gA a)).setWidth 16)]) c.next

/-- PCMP: all ones where the condition holds, else 0 (R150). -/
def pcmp (f : Word → Word → Bool) (d : PField) (a b : RField) (s : State) : Host.Outcome State Fault Refusal :=
  issue s {} [gA a, gB b] false fun s c => .go (s.results c 1 [.p d.toNat (predOf (f (c.g (gA a)) (c.g (gB b))))]) c.next

/-- PCMP.eq (R150). -/
def execPcmpEq (d : PField) (a b : RField) (s : State) : Host.Outcome State Fault Refusal :=
  pcmp (fun x y => x == y) d a b s
/-- PCMP.ne (R150). -/
def execPcmpNe (d : PField) (a b : RField) (s : State) : Host.Outcome State Fault Refusal :=
  pcmp (fun x y => x != y) d a b s
/-- PCMP.lt (R150). -/
def execPcmpLt (d : PField) (a b : RField) (s : State) : Host.Outcome State Fault Refusal :=
  pcmp (fun x y => x.slt y) d a b s
/-- PCMP.ge (R150). -/
def execPcmpGe (d : PField) (a b : RField) (s : State) : Host.Outcome State Fault Refusal :=
  pcmp (fun x y => !x.slt y) d a b s
/-- PCMP.ltu (R150). -/
def execPcmpLtu (d : PField) (a b : RField) (s : State) : Host.Outcome State Fault Refusal :=
  pcmp (fun x y => x.ult y) d a b s
/-- PCMP.geu (R150). -/
def execPcmpGeu (d : PField) (a b : RField) (s : State) : Host.Outcome State Fault Refusal :=
  pcmp (fun x y => !x.ult y) d a b s
/-- PCMP.tst (R150). -/
def execPcmpTst (d : PField) (a b : RField) (s : State) : Host.Outcome State Fault Refusal :=
  pcmp (fun x y => (x &&& y) != 0) d a b s

end Sys2Proof.Machine
end

