-- ==== Sys2Proof/Machine/MacroSteps.lean ====
section
/-! DEFINITION. The steps of macros that a strand executes itself (R198, R320, R324 to R328, R364), with the arrivals of Woad
instructions (R331 to R334) and the stall of a gang (R335, R336). -/

namespace Sys2Proof.Machine

/-- A macro is complete: MPX is cleared (R364) and the strand goes on. -/
def State.macroDone (s : State) (x : SId) : State := (s.setMpx x 0).makeReady x 0 [] none

/-- What a macro's step came to, for the strand parked at it; `again` is the macro's next step. -/
def State.macroStep (s : State) (x : SId) (p : Park) (again : Event) (r : MacroRes) : State :=
  match r with
  | .complete t => t.macroDone x
  | .more t => t.post 1 again
  | .fault t f => t.parkFault x p f
  | .blocked t => t.parkReason x .writeBlocked

/-- The descriptor's page is write-blocked (R403): the policy and the handle have passed the checks that come before its translation
(R317). -/
def State.mapBlocked (s : State) (x : SId) (handle : Word) (q : Policy) : Bool :=
  polOk q && polSpace q = 0 && handle.toNat % 128 = 0 && s.resolve x handle q Need.map = .blocked

/-- A step of a macro on a map, whose park has reason `reason`: it waits while the handle's page is write-blocked (R403) and until the
strand's earlier accesses have been performed. -/
def State.mapStep (s : State) (x : SId) (p : Park) (reason : ParkReason) (handle : Word) (q : Policy) (f : State → State) : State :=
  if !s.quietFor x p.seq || (s.strand x).blockedBy p.seq then s
  else if s.mapBlocked x handle q then (s.blockOn x p.seq handle.toNat 128).parkReason x .writeBlocked
  else f (s.parkReason x reason)

/-- RANGE_STEP: one line (R198). Every earlier store of the strand is performed before it, one that was deferred at its issue among
them (R201, R342). -/
def State.rangeStep (s : State) (x : SId) : State :=
  match (s.strand x).park with
  | some p => match p.on with
    | .rangeMacro op base len q =>
      let i := (s.strand x).regs.csr.mpx.toNat
      let n := rangeLines base len
      if (s.strand x).run ≠ .running || !s.quietFor x p.seq then s
      else if n ≤ i then s.macroDone x
      else match (s.endRegion x).rangeLine x op base ((base &&& ~~~127) + BitVec.ofNat 64 (128 * i)) q with
        | .inr t => s.parkFault x p t
        | .inl t => if n ≤ i + 1 then t.macroDone x else (t.setMpx x (BitVec.ofNat 64 (i + 1))).post 1 (.rangeStep x)
    | _ => s
  | none => s

/-- REGISTRATION: a copy that waited for a place is tried again (R202, R432). -/
def State.registration (s : State) (x : SId) : State :=
  match (s.strand x).headEffect with
  | some e => match e.eff with
    | .copy _ => (s.retryHead x).look x
    | _ => s
  | none => s

/-- MAPNEW_COMPLETE (R320): a release at package scope, then checks 5 to 8 and the creation. -/
def State.mapnewStep (s : State) (x : SId) : State :=
  match (s.strand x).park with
  | some p => match p.on with
    | .mapnew handle block q =>
      if !s.quietFor x p.seq || (s.strand x).blockedBy p.seq then s
      else match s.performMapnew x p.seq handle block q with
        | .done t => t.makeReady x 0 [] none
        | .fault t f => t.parkFault x p f
        | .park t reason => t.parkReason x reason
    | _ => s
  | none => s

/-- MAPSCAN_SLICE_STEP (R325). -/
def State.scanSlice (s : State) (x : SId) : State :=
  match (s.strand x).park with
  | some p => match p.on with
    | .scan handle record buffer q => s.mapStep x p .serial handle q fun t =>
        t.macroStep x p (.mapscanSliceStep x) (t.scanStep x p.seq p.issue handle record buffer q)
    | _ => s
  | none => s

/-- SETTLE_STEP (R326). -/
def State.settleMap (s : State) (x : SId) : State :=
  match (s.strand x).park with
  | some p => match p.on with
    | .settle handle i q => s.mapStep x p .serial handle q fun t =>
        let r := t.settleOnce x handle i q
        let t := t.macroStep x p (.settleStep x) r.1
        t.modStrand x fun st => { st with park := st.park.map fun p => match p.on with
          | .settle _ _ _ => { p with on := .settle handle r.2 q }
          | _ => p }
    | _ => s
  | none => s

/-- MAPCLR_SHARD_STEP (R327). -/
def State.clearShardStep (s : State) (x : SId) : State :=
  match (s.strand x).park with
  | some p => match p.on with
    | .clear handle q => s.mapStep x p .serial handle q fun t => t.macroStep x p (.mapclrShardStep x) (t.clearOnce x handle q)
    | _ => s
  | none => s

/-- MAPINFO_ANSWER (R328), after the strand's earlier operations as an atomic would be (R309, R348). -/
def State.infoAnswer (s : State) (x : SId) : State :=
  match (s.strand x).park with
  | some p => match p.on with
    | .info handle d q =>
      s.mapStep x p .barrierPhase handle q fun s => match (s.endRegion x).mapCheck x handle q with
        | .inr t => s.makeReady x 0 [] (some t)
        | .inl m => ((s.endRegion x).respondDelay x (m.bank 0)).makeReady x 0 [.g d (BitVec.ofNat 64 m.info)] none
    | _ => s
  | none => s

/-- WOAD_ARRIVAL (R331, R332, R334). An arrival that waited for the release of its pending bit is made in the slot in
which the strand resumes (R127); the next word follows in that slot where the release came before it. -/
def State.woadStep (s : State) (x : SId) : State :=
  match (s.strand x).park with
  | some p => match p.on with
    | .arrival phys ch a waits d =>
      if p.reason = .woad && !s.woadPending x phys then
        let st := s.strand x
        let v := s.parkSlot x .woad
        if st.held ≠ 0 then s
        else if s.clock.cc < st.ccOf v then s.postOnce (s.ccTo x v) (.woadArrival x)
        else s.woadTry x phys ch a waits d fun t => t.resumeAt x v 0 p.seq []
      else s.woadTry x phys ch a waits d fun t => t.makeReady x 0 [] none
    | _ => s
  | none => s

/-- A TLBINV that covers a range has completed: strands that wait on write-blocked pages there walk again (R403). -/
def State.walksAgain (s : State) (r : Nat × Nat) : State :=
  s.allStrands.foldl (fun t y =>
    let st := t.strand y
    if st.walkAgain r.1 r.2 = st then t else (t.setStrand y (st.walkAgain r.1 r.2)).post 0 (.parkResume y)) s

/-- TLBINV_COMPLETE (R417). -/
def State.tlbinvStep (s : State) (x : SId) : State :=
  match (s.strand x).park with
  | some p => match p.on with
    | .tlbinv r ops reqs held => if s.tlbClear ops reqs held then (s.makeReady x 0 [] none).walksAgain r else s
    | _ => s
  | none => s

/-! ## The stall of a gang (R335, R336) -/

/-- The park reasons that drive the gang's parked line. -/
def ParkReason.stalls : ParkReason → Bool
  | .woad | .message | .stream | .fullEmpty => true
  | _ => false

def ParkOn.isReady : ParkOn → Bool
  | .ready _ _ _ => true
  | _ => false

/-- The park at which a strand drives its gang's line: an effect that must wait before a later park (R335, R432), or a wait at a
word that has come due. -/
def State.stallPark (s : State) (x : SId) : Option Park :=
  let st := s.strand x
  match st.parks.reverse.find? fun p => p.reason.stalls && !p.on.isReady with
  | some p => some p
  | none => if st.park.any fun p => p.reason = .serial && p.on = .effect then s.waitDue x else none

/-- A member drives the line. -/
def State.drives (s : State) (x : SId) : Bool :=
  (s.strand x).run = .waiting || ((s.strand x).run = .running && (s.stallPark x).isSome)

/-- A member takes GANGSTALL at its parked instruction (R336, R363). -/
def State.stallTrap (s : State) (x : SId) : State :=
  match (s.waitDue x).or (s.stallPark x) with
  | some p =>
    let cc := s.clock.cc
    let s := s.modStrand x fun st =>
      { st with
        park := some (if st.park = some p then p else { p with since := cc }),
        under := none
        parkedCc := st.parkedCc + (if st.park = some p then 0 else st.parkCount cc),
        late := ⟨trapOf .gangstall (BitVec.ofNat 64 p.reason.code), none⟩ :: st.late }
    match s.dueLate x with
    | some l => s.takeLate x l
    | none => s
  | none => s

/-- The core cycle from which a member has driven the line through a word at which it waits while it stands in a wait that is no park
(R194, R435); 0 where it drives through a park. -/
def State.driveCc (s : State) (x : SId) : Nat :=
  let st := s.strand x
  if st.parks.any fun p => p.reason.stalls && !p.on.isReady then 0
  else ((st.inflight.filter fun e => e.atWord && e.faultVc ≤ st.vcAt s.clock.cc).map fun e => st.ccOf e.faultVc).foldl Nat.max 0

/-- GANGSTALL_EXPIRY: the line has been driven by every member for 256 core cycles. -/
def State.stallExpiry (s : State) (g : Nat) : State :=
  match Tab.find? s.gangs g with
  | some v =>
    let ms := v.members
    let since := ms.foldl (fun m x => Nat.max m (s.driveCc x)) v.quietFrom
    if ms ≠ [] && ms.all (fun x => s.drives x && (s.strand x).held = 0) && ms.any (fun x => (s.strand x).park.isSome) then
      if since + 256 ≤ s.clock.cc then ms.foldl (fun t x => t.stallTrap x) s
      else s.postOnce (since + 256 - s.clock.cc) (.gangstallExpiry g)
    else s
  | none => s

end Sys2Proof.Machine
end

