-- ==== Sys2Proof/Machine/StrandEvents.lean ====
section
/-! DEFINITION. The meanings of the steps of the opcode table that have no word: those of strands and their requests, macros, Woad and gangs. A step that is not
enabled changes nothing (notes/assumptions/1.md). -/

namespace Sys2Proof.Machine

/-- LATE_EVENT_TEST (R125). -/
def execLateEventTest (sid : SId) (s : State) : Host.Outcome State Fault Refusal := .next (s.lateTest sid)

/-- HOLD_END (R126). -/
def execHoldEnd (sid : SId) (rotations : Nat) (s : State) : Host.Outcome State Fault Refusal := .next (s.holdEnd sid rotations)

/-- LANDING (R128). -/
def execLanding (sid : SId) (s : State) : Host.Outcome State Fault Refusal := .next (s.landing sid)

/-- DEFERRED_EFFECT (R133). -/
def execDeferredEffect (sid : SId) (s : State) : Host.Outcome State Fault Refusal := .next (s.deferredEffect sid)

/-- PARK_RESUME (R127). -/
def execParkResume (sid : SId) (s : State) : Host.Outcome State Fault Refusal := .next (s.parkResume sid)

/-- REQUEST_RETRY (R179). -/
def execRequestRetry (sid : SId) (seq : Nat) (s : State) : Host.Outcome State Fault Refusal := .next (s.retryRequest sid seq)

/-- STORE_PERFORMED (R191). -/
def execStorePerformed (sid : SId) (delay : BitVec 16) (s : State) : Host.Outcome State Fault Refusal := .next (s.storeDone sid delay.toNat)

/-- FULL_EMPTY_HOME_OPERATION (R188). -/
def execFullEmptyHomeOperation (word : Nat) (s : State) : Host.Outcome State Fault Refusal := .next (s.serveWord (8 * word))

/-- HOME_SLICE_REQUEST (R352). -/
def execHomeSliceRequest (sid : SId) (seq : Nat) (refuse : Option (BitVec 6)) (s : State) :
    Host.Outcome State Fault Refusal := .next (s.homeRequest sid seq refuse)

/-- MEMORY_RESPONSE (R177). -/
def execMemoryResponse (sid : SId) (seq : Nat) (delay : BitVec 16) (s : State) :
    Host.Outcome State Fault Refusal := .next (s.respond sid seq delay.toNat)

/-- SEQUENCER_ACCEPT (R308). -/
def execSequencerAccept (sid : SId) (seq : Nat) (s : State) : Host.Outcome State Fault Refusal := .next (s.sequencer sid seq)

/-- RANGE_STEP (R198). -/
def execRangeStep (sid : SId) (s : State) : Host.Outcome State Fault Refusal := .next (s.rangeStep sid)

/-- REGISTRATION (R202). -/
def execRegistration (sid : SId) (s : State) : Host.Outcome State Fault Refusal := .next (s.registration sid)

/-- MAPNEW_COMPLETE (R320). -/
def execMapnewComplete (sid : SId) (s : State) : Host.Outcome State Fault Refusal := .next (s.mapnewStep sid)

/-- MAPSCAN_SLICE_STEP (R325). -/
def execMapscanSliceStep (sid : SId) (s : State) : Host.Outcome State Fault Refusal := .next (s.scanSlice sid)

/-- SETTLE_STEP (R326). -/
def execSettleStep (sid : SId) (s : State) : Host.Outcome State Fault Refusal := .next (s.settleMap sid)

/-- MAPCLR_SHARD_STEP (R327). -/
def execMapclrShardStep (sid : SId) (s : State) : Host.Outcome State Fault Refusal := .next (s.clearShardStep sid)

/-- MAPINFO_ANSWER (R328). -/
def execMapinfoAnswer (sid : SId) (s : State) : Host.Outcome State Fault Refusal := .next (s.infoAnswer sid)

/-- WOAD_ARRIVAL (R332). -/
def execWoadArrival (sid : SId) (s : State) : Host.Outcome State Fault Refusal := .next (s.woadStep sid)

/-- WOAD_RELEASE (R332). -/
def execWoadRelease (channel : Nat) (s : State) : Host.Outcome State Fault Refusal := .next (s.woadRelease channel)

/-- GANGSTALL_EXPIRY (R336). -/
def execGangstallExpiry (gang : Nat) (s : State) : Host.Outcome State Fault Refusal := .next (s.stallExpiry gang)

/-- SFU_ACCEPT (R265). -/
def execSfuAccept (cluster : Nat) (s : State) : Host.Outcome State Fault Refusal := .next (s.sfuTake cluster)

/-- SFU_RESULT (R265). -/
def execSfuResult (cluster : Nat) (s : State) : Host.Outcome State Fault Refusal := .next (s.sfuAnswer cluster)

/-- TLBINV_COMPLETE (R417). -/
def execTlbinvComplete (sid : SId) (s : State) : Host.Outcome State Fault Refusal := .next (s.tlbinvStep sid)

end Sys2Proof.Machine
end

