-- ==== Sys2Proof/Machine/Work.lean ====
section
/-! DEFINITION. The work instructions (R89 to R97) and TEND (R143, R158). -/

namespace Sys2Proof.Machine

/-- TSPAWN (R91). -/
def execTspawn (p : PField) (a : RField) (s : State) : Host.Outcome State Fault Refusal :=
  issue s {} [gA a] false fun s c =>
    withRecord s c <| match s.readRecord c.sid (c.g (gA a)) 64 64 with
    | (s, .inr t) => .faultIn s t
    | (s, .inl n) =>
      let r : Rec512 := BitVec.ofNat 512 n
      match s.spawnCheck c.sid r with
      | some b => .faultIn s (launchTrap b)
      | none => emit s c (.tspawn r p.toNat) c.next

/-- TYIELD (R92). -/
def execTyield (p : PField) (a : RField) (s : State) : Host.Outcome State Fault Refusal :=
  issue s {} [gA a] false fun s c =>
    let e := c.g (gA a)
    if (s.strand c.sid).gang.isSome then .fault (launchTrap (7, 0))
    else if e.toNat % 4 ≠ 0 then .fault (trapOf .misalign e)
    else emitStop s c (.tyield e p.toNat) fun t => if (t.strand c.sid).run = .running then .go t c.next else .over t

/-- LAUNCH (R93). -/
def execLaunch (p : PField) (a : RField) (s : State) : Host.Outcome State Fault Refusal :=
  issue s {} [gA a] false fun s c =>
    withRecord s c <| match s.readRecord c.sid (c.g (gA a)) 64 64 with
    | (s, .inr t) => .faultIn s t
    | (s, .inl n) =>
      let r : Rec512 := BitVec.ofNat 512 n
      match s.launchCheck (s.jobOf c.sid) r with
      | some b => .faultIn s (launchTrap b)
      | none => emit s c (.launch r p.toNat) c.next

/-- The check of a counter number in a register (R90). -/
def counterBad (s : State) (x : SId) (w : Word) : Option TrapInfo :=
  if w.toNat = 0 || 2 ^ 32 ≤ w.toNat || (s.job (s.jobOf x)).nctr < w.toNat then some (launchTrap (5, 0)) else none

/-- CNTRD (R94): the counter is read at its home; the fault is raised at the landing vc. -/
def execCntrd (d a : RField) (s : State) : Host.Outcome State Fault Refusal :=
  issue s {} [gD d, gA a] false fun s c =>
    match counterBad s c.sid (c.g (gA a)) with
    | some t => trapLater s c 96 t
    | none =>
      let s := s.addFlight c (c.flight (c.vc + 96) (some (.counter (c.g (gA a)).toNat (c.h.x (gD d)), .sent 0)) none)
      .go (s.post 0 (.homeSliceRequest c.sid c.seq none)) c.next

/-- CNTWAIT (R95): with the counter already DONE the strand goes on after LAT_LDG. -/
def execCntwait (a : RField) (s : State) : Host.Outcome State Fault Refusal :=
  issue s {} [gA a] false fun s c =>
    let n := (c.g (gA a)).toNat
    match counterBad s c.sid (c.g (gA a)) with
    | some t => .fault t
    | none =>
      let s := s.breakAt c.sid c.seq
      if (s.counter (s.jobOf c.sid) n).state = .done then
        .skip s c.next (c.vc + 96)
      else .wait s .barrierPhase (.counter n)

/-- CANCEL (R96). -/
def cancelEntry (kill : Bool) (a : RField) (s : State) : Host.Outcome State Fault Refusal :=
  issue s {} [gA a] false fun s c =>
    match counterBad s c.sid (c.g (gA a)) with
    | some t => .fault t
    | none => emit s c (.cancel kill (c.g (gA a)).toNat) c.next

/-- CANCEL.drain (R96). -/
def execCancelDrain (a : RField) (s : State) : Host.Outcome State Fault Refusal := cancelEntry false a s
/-- CANCEL.kill (R96). -/
def execCancelKill (a : RField) (s : State) : Host.Outcome State Fault Refusal := cancelEntry true a s

/-- REPART (R97). -/
def execRepart (n : Part) (s : State) : Host.Outcome State Fault Refusal :=
  issue s {} [] true fun s c =>
    if c.sid.strand ≠ 0 || !s.coreQuiet c.sid then .fault (trapOf .operand 1)
    else emitStop s c (.repart n) fun t => .go t c.next

/-- The group of the command with the earliest address whose start vc TEND precedes (R143). -/
def tendBad (starts : List (Nat × Word × Nat)) (vc : Nat) : Option Word :=
  (listMin ((starts.filter fun e => vc < e.1).map fun e => e.2.1.toNat)).map (BitVec.ofNat 64)

/-- TEND (R143, R158). -/
def execTend (s : State) : Host.Outcome State Fault Refusal :=
  issue s {} [] false fun s c =>
    match tendBad (s.strand c.sid).starts c.vc with
    | some w => .fault (timingTrap 4 w)
    | none => emitStop s c .tend .over

end Sys2Proof.Machine
end

