-- ==== Sys2Proof/Machine/System.lean ====
section
/-! DEFINITION. The system instructions (R390 to R396), with RDTIME and TLBINV (R417, R418). -/

namespace Sys2Proof.Machine

/-- TRAP (R391): EPC names the next word. -/
def execTrap (n : BitVec 12) (s : State) : Host.Outcome State Fault Refusal :=
  issue s {} [] false fun _ _ => .trapNext (trapOf .trapi (n.setWidth 64))

/-- BRK (R386, R391): with BRKEN = 1 the strand stops behind it, else BREAK. -/
def execBrk (n : BitVec 12) (s : State) : Host.Outcome State Fault Refusal :=
  issue s {} [] false fun s c =>
    if (s.strand c.sid).brken then
      .go (s.modStrand c.sid fun st => { st with stopAsked := true, brkAt := some c.seq, stepping := false, dbgCode := 0x14 }) c.next
    else .fault (trapOf .brk (n.setWidth 64))

/-- The word of ERET (R390). -/
def eretWord : Word := 0xB8000001

/-- ERET (R392). -/
def execEret (s : State) : Host.Outcome State Fault Refusal :=
  issue s {} [] false fun s c =>
    let t := c.regs.csr.epc
    if !c.regs.csr.status.inh then .fault (trapOf .illegal eretWord)
    else if t.toNat % 4 ≠ 0 then .fault (trapOf .misalign t)
    else emitStop s c .eret fun u => .go u t

/-- QUIESCE (R393, R396). -/
def execQuiesce (a : RField) (s : State) : Host.Outcome State Fault Refusal :=
  issue s {} [gA a] true fun s c =>
    let w := c.g (gA a)
    match s.quiesceBad c.sid w with
    | some r => .fault (trapOf .operand (BitVec.ofNat 64 r))
    | none =>
      let j := quiesceJob w
      if quiesceMode w = 2 then emit s c (.quiesce j 2) c.next
      else emitStop s c (.quiesce j (quiesceMode w)) fun t => match quiesceMode w with
        | 0 => .wait t .barrierPhase (.quiesce j)
        | 1 => .wait t .barrierPhase (.ready 0 [] none)
        | _ => .go t c.next

/-- MIGRATE (R394, R396). -/
def execMigrate (a b : RField) (s : State) : Host.Outcome State Fault Refusal :=
  issue s {} [gA a, gB b] true fun s c =>
    let x := c.g (gA a)
    let y := c.g (gB b)
    match s.migrateBad x y with
    | some r => .fault (trapOf .operand (BitVec.ofNat 64 r))
    | none => emitStop s c (.migrate x.toNat y.toNat) fun t => .wait t .barrierPhase (.migrate x.toNat y.toNat)

/-- TLBINV (R417); its scope is package without HSCOPE. -/
def execTlbinv (a b : RField) (s : State) : Host.Outcome State Fault Refusal :=
  issue s { scope := true } [gA a, gB b] true fun s c =>
    let base := c.g (gA a)
    let len := c.g (gB b)
    let scope := c.h.scope.getD 4
    if len = 0 then .go s c.next
    else if 2 ^ 57 ≤ base.toNat || 2 ^ 57 < base.toNat + len.toNat then .fault (trapOf .operand base)
    else
      emitStop s c (.tlbinv base len scope) fun t =>
        .wait t .serial (s.tlbRemove c.sid base.toNat len.toNat scope).2

/-- LAT_TIME (R135). -/
def latTime : Nat := 8

/-- RDTIME (R418): the time unit at the issue vc. -/
def execRdtime (d : RField) (s : State) : Host.Outcome State Fault Refusal :=
  issue s {} [gD d] false fun s c => .go (s.results c latTime [.g (c.h.x (gD d)) (BitVec.ofNat 64 s.clock.ns)]) c.next

/-- The counters of RDPERF (R395). -/
def perfCounter (s : State) (c : Ctx) (n : Nat) : Option Word :=
  let st := s.strand c.sid
  if n < 0x40 then some (Tab.get 0 (s.core c.sid.core).delays n)
  else match n with
    | 0x40 => some (BitVec.ofNat 64 st.issued)
    | 0x41 => some (BitVec.ofNat 64 st.hints)
    | 0x42 => some (BitVec.ofNat 64 st.parkedCc)
    | 0x43 => some (BitVec.ofNat 64 st.traps)
    | 0x44 => some (BitVec.ofNat 64 s.clock.cc)
    | _ => none

/-- RDPERF (R395, R396). -/
def execRdperf (d a : RField) (s : State) : Host.Outcome State Fault Refusal :=
  issue s {} [gD d, gA a] false fun s c =>
    match perfCounter s c (c.g (gA a)).toNat with
    | some v => .go (s.results c latTime [.g (c.h.x (gD d)) v]) c.next
    | none => .fault (trapOf .operand 8)

end Sys2Proof.Machine
end

