-- ==== Sys2Proof/Machine/WorkEvents.lean ====
section
/-! DEFINITION. The meanings of the steps of the opcode table that have no word: those of host queues, the dispatcher, the device runtime and pre-emption. A step that is not
enabled changes nothing (notes/assumptions/1.md). -/

namespace Sys2Proof.Machine

/-- LAUNCH_RECORD (R62). -/
def execLaunchRecord (queue : Nat) (aligned : Bool) (record : Rec512) (s : State) :
    Host.Outcome State Fault Refusal := .next (s.submit queue aligned record)

/-- COUNTER_RECORD (R68). -/
def execCounterRecord (queue : Nat) (aligned : Bool) (record : Rec512) (s : State) :
    Host.Outcome State Fault Refusal := .next (s.submit queue aligned record)

/-- QCFG_WRITE (R60). -/
def execQcfgWrite (queue : Nat) (value : Word) (s : State) : Host.Outcome State Fault Refusal := .next (s.writeQcfg queue value)

/-- DISPATCHER_TAKE (R63). -/
def execDispatcherTake (queue : Option Nat) (s : State) : Host.Outcome State Fault Refusal := .next (s.dispatch queue)

/-- GANG_START (R87). -/
def execGangStart (job counter : Nat) (s : State) : Host.Outcome State Fault Refusal := .next (s.tryGang job counter)

/-- DEAL_UNIT (R82). -/
def execDealUnit (_job _counter : Nat) (s : State) : Host.Outcome State Fault Refusal := .next (s.dealOne)

/-- UNIT_RETIRE (R73). -/
def execUnitRetire (job counter : Nat) (s : State) : Host.Outcome State Fault Refusal := .next (s.retireUnit job counter)

/-- PHASE_AGENT_ARRIVAL (R70). -/
def execPhaseAgentArrival (job die : Nat) (s : State) : Host.Outcome State Fault Refusal := .next (s.phaseArrive job die)

/-- PHASE_BARRIER (R70). -/
def execPhaseBarrier (job : Nat) (s : State) : Host.Outcome State Fault Refusal := .next (s.phaseEnd job)

/-- CANCEL_COMPLETE (R74). -/
def execCancelComplete (job counter : Nat) (s : State) : Host.Outcome State Fault Refusal := .next (s.finishCancel job counter)

/-- POP (R81). -/
def execPop (sid : SId) (s : State) : Host.Outcome State Fault Refusal := .next (s.pop sid)

/-- STEAL_REQUEST (R84). -/
def execStealRequest (sid : SId) (s : State) : Host.Outcome State Fault Refusal := .next (s.stealSend sid)

/-- STEAL_REPLY (R85). -/
def execStealReply (sid : SId) (s : State) : Host.Outcome State Fault Refusal := .next (s.stealAnswer sid)

/-- STEAL_ROUND_RETRY (R84). -/
def execStealRoundRetry (sid : SId) (s : State) : Host.Outcome State Fault Refusal := .next (s.stealRetry sid)

/-- JOB_CREATE (R66). -/
def execJobCreate (job : Nat) (cores : List Nat) (counters : Nat) (part : Part) (channels : List (Nat × Nat)) (phase : Option Nat) (s : State) :
    Host.Outcome State Fault Refusal := .next (s.createJob job cores counters part channels phase)

/-- JOB_DESTROY (R70). -/
def execJobDestroy (job : Nat) (s : State) : Host.Outcome State Fault Refusal := .next (s.destroyJob job)

/-- QUIESCE_SIGNAL_ARRIVAL (R368). -/
def execQuiesceSignalArrival (sid : SId) (s : State) : Host.Outcome State Fault Refusal := .next (s.signal sid)

/-- DOMAIN_STOP (R369). -/
def execDomainStop (sid : SId) (s : State) : Host.Outcome State Fault Refusal := .next (s.stopDomain sid)

/-- QUIESCE_MARKER_PASS (R371). -/
def execQuiesceMarkerPass (job : Nat) (engine : Engine) (s : State) : Host.Outcome State Fault Refusal := .next (s.passMarker job engine)

/-- MIGRATION_COMPLETE (R394). -/
def execMigrationComplete (source dest : Nat) (s : State) : Host.Outcome State Fault Refusal := .next (s.migrateEnd source dest)

/-- DBGCTL_STOP (R383). -/
def execDbgctlStop (sid : SId) (value : Word) (s : State) : Host.Outcome State Fault Refusal := .next ((s.setDbg sid value).askStop sid)

/-- DBGCTL_GO (R383). -/
def execDbgctlGo (sid : SId) (value : Word) (s : State) : Host.Outcome State Fault Refusal := .next ((s.setDbg sid value).go sid)

/-- DEBUG_STOP (R384). -/
def execDebugStop (sid : SId) (s : State) : Host.Outcome State Fault Refusal := .next (s.stopStrand sid)

/-- STEP_STOP (R385). -/
def execStepStop (sid : SId) (s : State) : Host.Outcome State Fault Refusal := .next (s.stopStrand sid)

end Sys2Proof.Machine
end

