-- ==== Sys2Proof/Machine/Dispatch.lean ====
section
/-! DEFINITION. One arm per constructor of Instr: each calls its meaning. -/

namespace Sys2Proof.Machine

/-- What an instruction does (R98, R120), by its constructor. -/
def exec (i : Instr) (s : State) : Host.Outcome State Fault Refusal :=
  match i with
  | .nop => Sys2Proof.Machine.execNop s
  | .add d a b => Sys2Proof.Machine.execAdd d a b s
  | .sub d a b => Sys2Proof.Machine.execSub d a b s
  | .mul d a b => Sys2Proof.Machine.execMul d a b s
  | .mulhs d a b => Sys2Proof.Machine.execMulhs d a b s
  | .mulhz d a b => Sys2Proof.Machine.execMulhz d a b s
  | .div d a b => Sys2Proof.Machine.execDiv d a b s
  | .divz d a b => Sys2Proof.Machine.execDivz d a b s
  | .rem d a b => Sys2Proof.Machine.execRem d a b s
  | .remz d a b => Sys2Proof.Machine.execRemz d a b s
  | .and d a b => Sys2Proof.Machine.execAnd d a b s
  | .or d a b => Sys2Proof.Machine.execOr d a b s
  | .xor d a b => Sys2Proof.Machine.execXor d a b s
  | .andn d a b => Sys2Proof.Machine.execAndn d a b s
  | .orn d a b => Sys2Proof.Machine.execOrn d a b s
  | .shl d a b => Sys2Proof.Machine.execShl d a b s
  | .shr d a b => Sys2Proof.Machine.execShr d a b s
  | .sar d a b => Sys2Proof.Machine.execSar d a b s
  | .rol d a b => Sys2Proof.Machine.execRol d a b s
  | .ror d a b => Sys2Proof.Machine.execRor d a b s
  | .min d a b => Sys2Proof.Machine.execMin d a b s
  | .max d a b => Sys2Proof.Machine.execMax d a b s
  | .minz d a b => Sys2Proof.Machine.execMinz d a b s
  | .maxz d a b => Sys2Proof.Machine.execMaxz d a b s
  | .slt d a b => Sys2Proof.Machine.execSlt d a b s
  | .sltz d a b => Sys2Proof.Machine.execSltz d a b s
  | .seq d a b => Sys2Proof.Machine.execSeq d a b s
  | .clz d a => Sys2Proof.Machine.execClz d a s
  | .ctz d a => Sys2Proof.Machine.execCtz d a s
  | .popc d a => Sys2Proof.Machine.execPopc d a s
  | .bswp d a => Sys2Proof.Machine.execBswp d a s
  | .sxtS8 d a => Sys2Proof.Machine.execSxtS8 d a s
  | .sxtS16 d a => Sys2Proof.Machine.execSxtS16 d a s
  | .sxtS32 d a => Sys2Proof.Machine.execSxtS32 d a s
  | .zxtB8 d a => Sys2Proof.Machine.execZxtB8 d a s
  | .zxtB16 d a => Sys2Proof.Machine.execZxtB16 d a s
  | .zxtB32 d a => Sys2Proof.Machine.execZxtB32 d a s
  | .csel d a b p => Sys2Proof.Machine.execCsel d a b p s
  | .pand d a b => Sys2Proof.Machine.execPand d a b s
  | .por d a b => Sys2Proof.Machine.execPor d a b s
  | .pxor d a b => Sys2Proof.Machine.execPxor d a b s
  | .pnot d a => Sys2Proof.Machine.execPnot d a s
  | .movpGP d a => Sys2Proof.Machine.execMovpGP d a s
  | .movpPG d a => Sys2Proof.Machine.execMovpPG d a s
  | .pcmpEq d a b => Sys2Proof.Machine.execPcmpEq d a b s
  | .pcmpNe d a b => Sys2Proof.Machine.execPcmpNe d a b s
  | .pcmpLt d a b => Sys2Proof.Machine.execPcmpLt d a b s
  | .pcmpGe d a b => Sys2Proof.Machine.execPcmpGe d a b s
  | .pcmpLtu d a b => Sys2Proof.Machine.execPcmpLtu d a b s
  | .pcmpGeu d a b => Sys2Proof.Machine.execPcmpGeu d a b s
  | .pcmpTst d a b => Sys2Proof.Machine.execPcmpTst d a b s
  | .addi d a im => Sys2Proof.Machine.execAddi d a im s
  | .movi d im => Sys2Proof.Machine.execMovi d im s
  | .lea d im => Sys2Proof.Machine.execLea d im s
  | .bfx d a l p => Sys2Proof.Machine.execBfx d a l p s
  | .bfxS d a l p => Sys2Proof.Machine.execBfxS d a l p s
  | .bfi d a l p => Sys2Proof.Machine.execBfi d a l p s
  | .loop d im => Sys2Proof.Machine.execLoop d im s
  | .csrr d n => Sys2Proof.Machine.execCsrr d n s
  | .csrw a n => Sys2Proof.Machine.execCsrw a n s
  | .csrs a n => Sys2Proof.Machine.execCsrs a n s
  | .csrc a n => Sys2Proof.Machine.execCsrc a n s
  | .ldB8 d b q o => Sys2Proof.Machine.execLdB8 d b q o s
  | .ldB16 d b q o => Sys2Proof.Machine.execLdB16 d b q o s
  | .ldB32 d b q o => Sys2Proof.Machine.execLdB32 d b q o s
  | .ldB64 d b q o => Sys2Proof.Machine.execLdB64 d b q o s
  | .ldS8 d b q o => Sys2Proof.Machine.execLdS8 d b q o s
  | .ldS16 d b q o => Sys2Proof.Machine.execLdS16 d b q o s
  | .ldS32 d b q o => Sys2Proof.Machine.execLdS32 d b q o s
  | .ldpr d b q o => Sys2Proof.Machine.execLdpr d b q o s
  | .stB8 d b q o => Sys2Proof.Machine.execStB8 d b q o s
  | .stB16 d b q o => Sys2Proof.Machine.execStB16 d b q o s
  | .stB32 d b q o => Sys2Proof.Machine.execStB32 d b q o s
  | .stB64 d b q o => Sys2Proof.Machine.execStB64 d b q o s
  | .ldv d b q o => Sys2Proof.Machine.execLdv d b q o s
  | .stv d b q o => Sys2Proof.Machine.execStv d b q o s
  | .ldf d b q o => Sys2Proof.Machine.execLdf d b q o s
  | .stf d b q o => Sys2Proof.Machine.execStf d b q o s
  | .ldfp d b q o => Sys2Proof.Machine.execLdfp d b q o s
  | .stnLo d a q => Sys2Proof.Machine.execStnLo d a q s
  | .stnHi d a q => Sys2Proof.Machine.execStnHi d a q s
  | .femarkE a q => Sys2Proof.Machine.execFemarkE a q s
  | .femarkF a q => Sys2Proof.Machine.execFemarkF a q s
  | .pref a q => Sys2Proof.Machine.execPref a q s
  | .flush d a q => Sys2Proof.Machine.execFlush d a q s
  | .inval d a q => Sys2Proof.Machine.execInval d a q s
  | .fill d a q => Sys2Proof.Machine.execFill d a q s
  | .aadd d a b q z => Sys2Proof.Machine.execAadd d a b q z s
  | .aand d a b q z => Sys2Proof.Machine.execAand d a b q z s
  | .aor d a b q z => Sys2Proof.Machine.execAor d a b q z s
  | .axor d a b q z => Sys2Proof.Machine.execAxor d a b q z s
  | .amin d a b q z => Sys2Proof.Machine.execAmin d a b q z s
  | .amax d a b q z => Sys2Proof.Machine.execAmax d a b q z s
  | .aminz d a b q z => Sys2Proof.Machine.execAminz d a b q z s
  | .amaxz d a b q z => Sys2Proof.Machine.execAmaxz d a b q z s
  | .axchg d a b q z => Sys2Proof.Machine.execAxchg d a b q z s
  | .acas d a b q z => Sys2Proof.Machine.execAcas d a b q z s
  | .afadd d a b q z => Sys2Proof.Machine.execAfadd d a b q z s
  | .fence k f => Sys2Proof.Machine.execFence k f s
  | .warv c => Sys2Proof.Machine.execWarv c s
  | .wwait c => Sys2Proof.Machine.execWwait c s
  | .wbar c => Sys2Proof.Machine.execWbar c s
  | .wsend a c => Sys2Proof.Machine.execWsend a c s
  | .wrecv d c => Sys2Proof.Machine.execWrecv d c s
  | .wredAdd d a c => Sys2Proof.Machine.execWredAdd d a c s
  | .wredMin d a c => Sys2Proof.Machine.execWredMin d a c s
  | .wredMax d a c => Sys2Proof.Machine.execWredMax d a c s
  | .wredOr d a c => Sys2Proof.Machine.execWredOr d a c s
  | .sopen a => Sys2Proof.Machine.execSopen a s
  | .ssend a => Sys2Proof.Machine.execSsend a s
  | .srecv d => Sys2Proof.Machine.execSrecv d s
  | .spoll d => Sys2Proof.Machine.execSpoll d s
  | .sclose => Sys2Proof.Machine.execSclose s
  | .cpy a b => Sys2Proof.Machine.execCpy a b s
  | .cpym a b => Sys2Proof.Machine.execCpym a b s
  | .cpyx d a b => Sys2Proof.Machine.execCpyx d a b s
  | .gath d a b => Sys2Proof.Machine.execGath d a b s
  | .scat d a b => Sys2Proof.Machine.execScat d a b s
  | .barinit a b => Sys2Proof.Machine.execBarinit a b s
  | .baradd a b => Sys2Proof.Machine.execBaradd a b s
  | .waitph a n => Sys2Proof.Machine.execWaitph a n s
  | .msgsend a b => Sys2Proof.Machine.execMsgsend a b s
  | .msgrecv d => Sys2Proof.Machine.execMsgrecv d s
  | .waitmsg => Sys2Proof.Machine.execWaitmsg s
  | .vadd d a b t => Sys2Proof.Machine.execVadd d a b t s
  | .vsub d a b t => Sys2Proof.Machine.execVsub d a b t s
  | .vmul d a b t => Sys2Proof.Machine.execVmul d a b t s
  | .vmulh d a b t => Sys2Proof.Machine.execVmulh d a b t s
  | .vfma d a b t => Sys2Proof.Machine.execVfma d a b t s
  | .vfms d a b t => Sys2Proof.Machine.execVfms d a b t s
  | .vfnma d a b t => Sys2Proof.Machine.execVfnma d a b t s
  | .vdiv d a b t => Sys2Proof.Machine.execVdiv d a b t s
  | .vmin d a b t => Sys2Proof.Machine.execVmin d a b t s
  | .vmax d a b t => Sys2Proof.Machine.execVmax d a b t s
  | .vabs d a t => Sys2Proof.Machine.execVabs d a t s
  | .vneg d a t => Sys2Proof.Machine.execVneg d a t s
  | .vsat d a u t => Sys2Proof.Machine.execVsat d a u t s
  | .vclz d a t => Sys2Proof.Machine.execVclz d a t s
  | .vpopc d a t => Sys2Proof.Machine.execVpopc d a t s
  | .vand d a b t => Sys2Proof.Machine.execVand d a b t s
  | .vor d a b t => Sys2Proof.Machine.execVor d a b t s
  | .vxor d a b t => Sys2Proof.Machine.execVxor d a b t s
  | .vandn d a b t => Sys2Proof.Machine.execVandn d a b t s
  | .vshl d a b t => Sys2Proof.Machine.execVshl d a b t s
  | .vshr d a b t => Sys2Proof.Machine.execVshr d a b t s
  | .vsar d a b t => Sys2Proof.Machine.execVsar d a b t s
  | .vsel d a b p => Sys2Proof.Machine.execVsel d a b p s
  | .vdot4 d a b t => Sys2Proof.Machine.execVdot4 d a b t s
  | .vdot2 d a b t => Sys2Proof.Machine.execVdot2 d a b t s
  | .vshuf d a b t => Sys2Proof.Machine.execVshuf d a b t s
  | .vperm d a b t => Sys2Proof.Machine.execVperm d a b t s
  | .vredadd d a t => Sys2Proof.Machine.execVredadd d a t s
  | .vredmin d a t => Sys2Proof.Machine.execVredmin d a t s
  | .vredmax d a t => Sys2Proof.Machine.execVredmax d a t s
  | .vrng d a b => Sys2Proof.Machine.execVrng d a b s
  | .vcvt d a x y => Sys2Proof.Machine.execVcvt d a x y s
  | .vsplat d a t => Sys2Proof.Machine.execVsplat d a t s
  | .vext d a n t => Sys2Proof.Machine.execVext d a n t s
  | .vins d a n t => Sys2Proof.Machine.execVins d a n t s
  | .vmov d a t => Sys2Proof.Machine.execVmov d a t s
  | .vcmp c d a b t => Sys2Proof.Machine.execVcmp c d a b t s
  | .sfexp2 d a t => Sys2Proof.Machine.execSfexp2 d a t s
  | .sflog2 d a t => Sys2Proof.Machine.execSflog2 d a t s
  | .sfrcp d a t => Sys2Proof.Machine.execSfrcp d a t s
  | .sfrsq d a t => Sys2Proof.Machine.execSfrsq d a t s
  | .sfsqrt d a t => Sys2Proof.Machine.execSfsqrt d a t s
  | .sfsin d a t => Sys2Proof.Machine.execSfsin d a t s
  | .sfcos d a t => Sys2Proof.Machine.execSfcos d a t s
  | .sftanh d a t => Sys2Proof.Machine.execSftanh d a t s
  | .sfsigm d a t => Sys2Proof.Machine.execSfsigm d a t s
  | .sferf d a t => Sys2Proof.Machine.execSferf d a t s
  | .mprecShort c a b k => Sys2Proof.Machine.execMprecShort c a b k s
  | .mprecImage a k => Sys2Proof.Machine.execMprecImage a k s
  | .mrdp d k => Sys2Proof.Machine.execMrdp d k s
  | .mma d a b k => Sys2Proof.Machine.execMma d a b k s
  | .mmas d a b k => Sys2Proof.Machine.execMmas d a b k s
  | .mzero k => Sys2Proof.Machine.execMzero k s
  | .mrdacc d a t r k => Sys2Proof.Machine.execMrdacc d a t r k s
  | .mwracc d a k => Sys2Proof.Machine.execMwracc d a k s
  | .mapprb d a b p q => Sys2Proof.Machine.execMapprb d a b p q s
  | .mapins d a b p q => Sys2Proof.Machine.execMapins d a b p q s
  | .mapups d a b p q => Sys2Proof.Machine.execMapups d a b p q s
  | .mapdel d a b p q => Sys2Proof.Machine.execMapdel d a b p q s
  | .mapadd d a b p q => Sys2Proof.Machine.execMapadd d a b p q s
  | .mapcas d a b p q => Sys2Proof.Machine.execMapcas d a b p q s
  | .mapnew a b q => Sys2Proof.Machine.execMapnew a b q s
  | .mapgetn d a b q => Sys2Proof.Machine.execMapgetn d a b q s
  | .mapscan d a b q => Sys2Proof.Machine.execMapscan d a b q s
  | .mapstl a q => Sys2Proof.Machine.execMapstl a q s
  | .mapclr a q => Sys2Proof.Machine.execMapclr a q s
  | .mapinfo d a q => Sys2Proof.Machine.execMapinfo d a q s
  | .tspawn p a => Sys2Proof.Machine.execTspawn p a s
  | .tyield p a => Sys2Proof.Machine.execTyield p a s
  | .launch p a => Sys2Proof.Machine.execLaunch p a s
  | .cntrd d a => Sys2Proof.Machine.execCntrd d a s
  | .cntwait a => Sys2Proof.Machine.execCntwait a s
  | .cancelDrain a => Sys2Proof.Machine.execCancelDrain a s
  | .cancelKill a => Sys2Proof.Machine.execCancelKill a s
  | .repart n => Sys2Proof.Machine.execRepart n s
  | .brr a => Sys2Proof.Machine.execBrr a s
  | .callr a => Sys2Proof.Machine.execCallr a s
  | .ret => Sys2Proof.Machine.execRet s
  | .tend => Sys2Proof.Machine.execTend s
  | .trap n => Sys2Proof.Machine.execTrap n s
  | .eret => Sys2Proof.Machine.execEret s
  | .quiesce a => Sys2Proof.Machine.execQuiesce a s
  | .migrate a b => Sys2Proof.Machine.execMigrate a b s
  | .tlbinv a b => Sys2Proof.Machine.execTlbinv a b s
  | .rdtime d => Sys2Proof.Machine.execRdtime d s
  | .rdperf d a => Sys2Proof.Machine.execRdperf d a s
  | .brk n => Sys2Proof.Machine.execBrk n s
  | .brp p o => Sys2Proof.Machine.execBrp p o s
  | .brpN p o => Sys2Proof.Machine.execBrpN p o s
  | .br o => Sys2Proof.Machine.execBr o s
  | .call o => Sys2Proof.Machine.execCall o s
  | .himm im => Sys2Proof.Machine.execHimm im s
  | .hdly n => Sys2Proof.Machine.execHdly n s
  | .hxreg d a b => Sys2Proof.Machine.execHxreg d a b s
  | .hstart f => Sys2Proof.Machine.execHstart f s
  | .hseq t => Sys2Proof.Machine.execHseq t s
  | .hpol p => Sys2Proof.Machine.execHpol p s
  | .hscope f => Sys2Proof.Machine.execHscope f s
  | .hrnd m => Sys2Proof.Machine.execHrnd m s
  | .launchRecord queue aligned record => Sys2Proof.Machine.execLaunchRecord queue aligned record s
  | .counterRecord queue aligned record => Sys2Proof.Machine.execCounterRecord queue aligned record s
  | .qcfgWrite queue value => Sys2Proof.Machine.execQcfgWrite queue value s
  | .dispatcherTake queue => Sys2Proof.Machine.execDispatcherTake queue s
  | .gangStart job counter => Sys2Proof.Machine.execGangStart job counter s
  | .dealUnit job counter => Sys2Proof.Machine.execDealUnit job counter s
  | .unitRetire job counter => Sys2Proof.Machine.execUnitRetire job counter s
  | .phaseAgentArrival job die => Sys2Proof.Machine.execPhaseAgentArrival job die s
  | .phaseBarrier job => Sys2Proof.Machine.execPhaseBarrier job s
  | .cancelComplete job counter => Sys2Proof.Machine.execCancelComplete job counter s
  | .pop sid => Sys2Proof.Machine.execPop sid s
  | .stealRequest sid => Sys2Proof.Machine.execStealRequest sid s
  | .stealReply sid => Sys2Proof.Machine.execStealReply sid s
  | .stealRoundRetry sid => Sys2Proof.Machine.execStealRoundRetry sid s
  | .lateEventTest sid => Sys2Proof.Machine.execLateEventTest sid s
  | .holdEnd sid rotations => Sys2Proof.Machine.execHoldEnd sid rotations s
  | .landing sid => Sys2Proof.Machine.execLanding sid s
  | .deferredEffect sid => Sys2Proof.Machine.execDeferredEffect sid s
  | .parkResume sid => Sys2Proof.Machine.execParkResume sid s
  | .requestRetry sid seq => Sys2Proof.Machine.execRequestRetry sid seq s
  | .storePerformed sid delay => Sys2Proof.Machine.execStorePerformed sid delay s
  | .fullEmptyHomeOperation word => Sys2Proof.Machine.execFullEmptyHomeOperation word s
  | .rangeStep sid => Sys2Proof.Machine.execRangeStep sid s
  | .registration sid => Sys2Proof.Machine.execRegistration sid s
  | .copyStart core => Sys2Proof.Machine.execCopyStart core s
  | .byteLanding core op pick => Sys2Proof.Machine.execByteLanding core op pick s
  | .heldFlipApply core => Sys2Proof.Machine.execHeldFlipApply core s
  | .messageArrival core pick => Sys2Proof.Machine.execMessageArrival core pick s
  | .followOnStart core => Sys2Proof.Machine.execFollowOnStart core s
  | .linkWordArrival core port => Sys2Proof.Machine.execLinkWordArrival core port s
  | .streamWordArrival core => Sys2Proof.Machine.execStreamWordArrival core s
  | .routeGrant core => Sys2Proof.Machine.execRouteGrant core s
  | .routeAutoClose sid => Sys2Proof.Machine.execRouteAutoClose sid s
  | .sfuAccept cluster => Sys2Proof.Machine.execSfuAccept cluster s
  | .sfuResult cluster => Sys2Proof.Machine.execSfuResult cluster s
  | .arrayCommandStart core => Sys2Proof.Machine.execArrayCommandStart core s
  | .kStepEnd core => Sys2Proof.Machine.execKStepEnd core s
  | .mzeroApply core => Sys2Proof.Machine.execMzeroApply core s
  | .bankRelease core bank => Sys2Proof.Machine.execBankRelease core bank s
  | .sequencerAccept sid seq => Sys2Proof.Machine.execSequencerAccept sid seq s
  | .mapnewComplete sid => Sys2Proof.Machine.execMapnewComplete sid s
  | .mapgetnDispatch core op => Sys2Proof.Machine.execMapgetnDispatch core op s
  | .mapgetnResult core op pick => Sys2Proof.Machine.execMapgetnResult core op pick s
  | .mapscanSliceStep sid => Sys2Proof.Machine.execMapscanSliceStep sid s
  | .settleStep sid => Sys2Proof.Machine.execSettleStep sid s
  | .mapclrShardStep sid => Sys2Proof.Machine.execMapclrShardStep sid s
  | .mapinfoAnswer sid => Sys2Proof.Machine.execMapinfoAnswer sid s
  | .woadArrival sid => Sys2Proof.Machine.execWoadArrival sid s
  | .woadRelease channel => Sys2Proof.Machine.execWoadRelease channel s
  | .gangstallExpiry gang => Sys2Proof.Machine.execGangstallExpiry gang s
  | .quiesceSignalArrival sid => Sys2Proof.Machine.execQuiesceSignalArrival sid s
  | .domainStop sid => Sys2Proof.Machine.execDomainStop sid s
  | .quiesceMarkerPass job engine => Sys2Proof.Machine.execQuiesceMarkerPass job engine s
  | .migrationComplete source dest => Sys2Proof.Machine.execMigrationComplete source dest s
  | .dbgctlStop sid value => Sys2Proof.Machine.execDbgctlStop sid value s
  | .dbgctlGo sid value => Sys2Proof.Machine.execDbgctlGo sid value s
  | .debugStop sid => Sys2Proof.Machine.execDebugStop sid s
  | .stepStop sid => Sys2Proof.Machine.execStepStop sid s
  | .pageWalk cluster job va access => Sys2Proof.Machine.execPageWalk cluster job va access s
  | .tlbinvComplete sid => Sys2Proof.Machine.execTlbinvComplete sid s
  | .ingressRequest pa request poison peer => Sys2Proof.Machine.execIngressRequest pa request poison peer s
  | .hostSnoop line data => Sys2Proof.Machine.execHostSnoop line data s
  | .coltailWrite die value => Sys2Proof.Machine.execColtailWrite die value s
  | .colheadErrClear die => Sys2Proof.Machine.execColheadErrClear die s
  | .collectiveStepStart die => Sys2Proof.Machine.execCollectiveStepStart die s
  | .collectiveStepEnd die incoming poison => Sys2Proof.Machine.execCollectiveStepEnd die incoming poison s
  | .watchdogExpiry die => Sys2Proof.Machine.execWatchdogExpiry die s
  | .madcfgClr die value => Sys2Proof.Machine.execMadcfgClr die value s
  | .madderSample sid => Sys2Proof.Machine.execMadderSample sid s
  | .ptpMessage lock offset slew forward => Sys2Proof.Machine.execPtpMessage lock offset slew forward s
  | .clampSample watts celsius => Sys2Proof.Machine.execClampSample watts celsius s
  | .deviceReset image signed version boot => Sys2Proof.Machine.execDeviceReset image signed version boot s
  | .recoveryImageWrite image signed version => Sys2Proof.Machine.execRecoveryImageWrite image signed version s
  | .attestationRequest nonce => Sys2Proof.Machine.execAttestationRequest nonce s
  | .registerWrite address value => Sys2Proof.Machine.execRegisterWrite address value s
  | .softError struck correctable => Sys2Proof.Machine.execSoftError struck correctable s
  | .homeSliceRequest sid seq refuse => Sys2Proof.Machine.execHomeSliceRequest sid seq refuse s
  | .memoryResponse sid seq delay => Sys2Proof.Machine.execMemoryResponse sid seq delay s
  | .jobCreate job cores counters part channels phase => Sys2Proof.Machine.execJobCreate job cores counters part channels phase s
  | .jobDestroy job => Sys2Proof.Machine.execJobDestroy job s

end Sys2Proof.Machine
end

