-- ==== Sys2Proof/Machine/EventRun.lean ====
section
/-! DEFINITION. The step that an entry of the agenda names: the meaning of the row of the same name. -/

namespace Sys2Proof.Machine

/-- What an event does: the meaning that exec gives its row. -/
def Event.run (e : Event) (s : State) : Host.Outcome State Fault Refusal :=
  match e with
  | .launchRecord queue aligned record => execLaunchRecord queue aligned record s
  | .counterRecord queue aligned record => execCounterRecord queue aligned record s
  | .qcfgWrite queue value => execQcfgWrite queue value s
  | .dispatcherTake queue => execDispatcherTake queue s
  | .gangStart job counter => execGangStart job counter s
  | .dealUnit job counter => execDealUnit job counter s
  | .unitRetire job counter => execUnitRetire job counter s
  | .phaseAgentArrival job die => execPhaseAgentArrival job die s
  | .phaseBarrier job => execPhaseBarrier job s
  | .cancelComplete job counter => execCancelComplete job counter s
  | .pop sid => execPop sid s
  | .stealRequest sid => execStealRequest sid s
  | .stealReply sid => execStealReply sid s
  | .stealRoundRetry sid => execStealRoundRetry sid s
  | .lateEventTest sid => execLateEventTest sid s
  | .holdEnd sid rotations => execHoldEnd sid rotations s
  | .landing sid => execLanding sid s
  | .deferredEffect sid => execDeferredEffect sid s
  | .parkResume sid => execParkResume sid s
  | .requestRetry sid seq => execRequestRetry sid seq s
  | .storePerformed sid delay => execStorePerformed sid delay s
  | .fullEmptyHomeOperation word => execFullEmptyHomeOperation word s
  | .rangeStep sid => execRangeStep sid s
  | .registration sid => execRegistration sid s
  | .copyStart core => execCopyStart core s
  | .byteLanding core op pick => execByteLanding core op pick s
  | .heldFlipApply core => execHeldFlipApply core s
  | .messageArrival core pick => execMessageArrival core pick s
  | .followOnStart core => execFollowOnStart core s
  | .linkWordArrival core port => execLinkWordArrival core port s
  | .streamWordArrival core => execStreamWordArrival core s
  | .routeGrant core => execRouteGrant core s
  | .routeAutoClose sid => execRouteAutoClose sid s
  | .sfuAccept cluster => execSfuAccept cluster s
  | .sfuResult cluster => execSfuResult cluster s
  | .arrayCommandStart core => execArrayCommandStart core s
  | .kStepEnd core => execKStepEnd core s
  | .mzeroApply core => execMzeroApply core s
  | .bankRelease core bank => execBankRelease core bank s
  | .sequencerAccept sid seq => execSequencerAccept sid seq s
  | .mapnewComplete sid => execMapnewComplete sid s
  | .mapgetnDispatch core op => execMapgetnDispatch core op s
  | .mapgetnResult core op pick => execMapgetnResult core op pick s
  | .mapscanSliceStep sid => execMapscanSliceStep sid s
  | .settleStep sid => execSettleStep sid s
  | .mapclrShardStep sid => execMapclrShardStep sid s
  | .mapinfoAnswer sid => execMapinfoAnswer sid s
  | .woadArrival sid => execWoadArrival sid s
  | .woadRelease channel => execWoadRelease channel s
  | .gangstallExpiry gang => execGangstallExpiry gang s
  | .quiesceSignalArrival sid => execQuiesceSignalArrival sid s
  | .domainStop sid => execDomainStop sid s
  | .quiesceMarkerPass job engine => execQuiesceMarkerPass job engine s
  | .migrationComplete source dest => execMigrationComplete source dest s
  | .dbgctlStop sid value => execDbgctlStop sid value s
  | .dbgctlGo sid value => execDbgctlGo sid value s
  | .debugStop sid => execDebugStop sid s
  | .stepStop sid => execStepStop sid s
  | .pageWalk cluster job va access => execPageWalk cluster job va access s
  | .tlbinvComplete sid => execTlbinvComplete sid s
  | .ingressRequest pa request poison peer => execIngressRequest pa request poison peer s
  | .hostSnoop line data => execHostSnoop line data s
  | .coltailWrite die value => execColtailWrite die value s
  | .colheadErrClear die => execColheadErrClear die s
  | .collectiveStepStart die => execCollectiveStepStart die s
  | .collectiveStepEnd die incoming poison => execCollectiveStepEnd die incoming poison s
  | .watchdogExpiry die => execWatchdogExpiry die s
  | .madcfgClr die value => execMadcfgClr die value s
  | .madderSample sid => execMadderSample sid s
  | .ptpMessage lock offset slew forward => execPtpMessage lock offset slew forward s
  | .clampSample watts celsius => execClampSample watts celsius s
  | .deviceReset image signed version boot => execDeviceReset image signed version boot s
  | .recoveryImageWrite image signed version => execRecoveryImageWrite image signed version s
  | .attestationRequest nonce => execAttestationRequest nonce s
  | .registerWrite address value => execRegisterWrite address value s
  | .softError struck correctable => execSoftError struck correctable s
  | .homeSliceRequest sid seq refuse => execHomeSliceRequest sid seq refuse s
  | .memoryResponse sid seq delay => execMemoryResponse sid seq delay s
  | .jobCreate job cores counters part channels phase => execJobCreate job cores counters part channels phase s
  | .jobDestroy job => execJobDestroy job s

end Sys2Proof.Machine
end

