-- ==== Sys2Proof/Machine/Step.lean ====
section
/-! DEFINITION. One step of the device: the step that is due first, or a core cycle in which nothing is (R7, R121;
notes/assumptions/1.md). -/

namespace Sys2Proof.Machine

/-- A strand fetches its next word and runs it (R98, R107). -/
def State.issueWord (s : State) (x : SId) : Host.Outcome State Fault Refusal :=
  let r := s.fetch x
  match r.2 with
  | .inr t => issueFetchFault r.1 t
  | .inl w => match decode w with
    | some i => exec i r.1
    | none => if isHintWord w then issueHint r.1 w else issueIllegal r.1 w

/-- The slot of a strand's next word: the word issues, or the domain is held since it has not been fetched (R124). -/
def State.issueNext (s : State) (x : SId) : Host.Outcome State Fault Refusal :=
  let t := s.atFetch x
  if t.fetchLate x = 0 then t.issueWord x else .next (t.holdFetch x (t.fetchLate x))

/-- The device's next step. -/
def step (s : State) : Host.Outcome State Fault Refusal :=
  match s.pick with
  | none => .next (s.tick (s.clock.cc + 1))
  | some c => match c.2 with
    | .agenda _ e | .duty e => e.run (s.atEvent c)
    | .issue x => s.issueNext x

/-- Where the next step fetches, if it is a strand's issue. -/
def State.nextFetch (s : State) : Option Nat :=
  match s.pick with
  | some c => match c.2 with
    | .issue x => s.fetchLoc x
    | _ => none
  | none => none

/-- The state with an instruction placed where the next step fetches; where it would fetch nothing, on a device that a
program has just been loaded to (State.loaded). -/
def State.withFetchWord (s : State) (nbits w : Nat) : State :=
  match s.nextFetch with
  | some l => s.placeWord l (w % 2 ^ nbits)
  | none => s.loaded.placeWord (Config.scratchLoc 0 0) (w % 2 ^ nbits)

end Sys2Proof.Machine
end

