-- ==== Sys2Proof/Safety.lean ====
section
/-! DEFINITION. The terms that statements use: a strand that issues its next word, the state after an instruction that has
run, what a run may count on, and the invariant that every step keeps. -/

namespace Sys2Proof.Machine

/-- The strand that `cur` names may issue its next word; `t` is the state in which it does and `c` what its entry is given
(R98, R107, R121). -/
structure Issuing (s t : State) (c : Ctx) : Prop where
  running : (s.strand s.cur).run = .running
  may : s.ready s.cur (s.issueVc s.cur) = true
  at_issue : t = s.atIssue s.cur (s.issueVc s.cur)
  context : c = (t.strand s.cur).ctx s.cur (s.issueVc s.cur)

/-- What follows an instruction: a domain that drains has its stop moved behind a group that it carries through, and one that
drains, or that a kill has reached, may come to its stop (R74, R368, R369). -/
def State.ended (s : State) (c : Ctx) : State := (s.carryDrain c.sid c.vc).lookDrain c.sid

/-- The state once an instruction has run and its strand goes on at `next` (R103). -/
def State.finish (s : State) (c : Ctx) (next : Word) : State := (s.advance c next).ended c

/-- The state once an instruction has issued and its strand parks (R119, R127). -/
def State.parked (s : State) (c : Ctx) (reason : ParkReason) (on : ParkOn) : State :=
  (s.settleAct c (.wait s reason on)).ended c

/-- The state once an instruction has raised a fault that is known at issue (R131, R357, R360). -/
def State.faulted (s : State) (c : Ctx) (t : TrapInfo) : State := (s.faultAt c t).ended c

/-- An instruction whose register results land `lat` vc after its issue and whose strand goes on at the next word. -/
def Lands (s t : State) (c : Ctx) (i : Instr) (lat : Nat) (ds : List Dest) : Prop :=
  exec i s = .next ((t.results c lat ds).finish c (c.pc + 4))

/-- An instruction without a register result whose effect leads to `u` and whose strand goes on at the next word. -/
def Passes (s u : State) (c : Ctx) (i : Instr) : Prop := exec i s = .next (u.finish c (c.pc + 4))

/-- An instruction that has issued with the state `u` and whose strand parks (R127). -/
def Parks (s u : State) (c : Ctx) (i : Instr) (reason : ParkReason) (on : ParkOn) : Prop :=
  exec i s = .next (u.parked c reason on)

/-- An instruction whose effect waits until every earlier instruction has passed its fault point (R133). -/
def Defers (s t : State) (c : Ctx) (i : Instr) (eff : Effect) : Prop :=
  exec i s = .next (((t.addFlight c (c.flight c.vc none none)).addDeferred c eff none).finish c (c.pc + 4))

/-- How a vector instruction comes by its sources (R250 to R254): from registers where it names no link port; else it pops
and pushes, for which the ports must exist, every earlier instruction must have passed its fault point, and words and room
must be there. -/
def Sources (t : State) (c : Ctx) (srcs : List RField) (dst : Option Nat) (u : State) (vs : List VWord) : Prop :=
  let pops := srcs.filterMap linkPort
  let fwd := onward c.regs.csr.linkcfg pops
  let pushes := fwd ++ dst.toList
  (pops = [] ∧ pushes = [] ∧ u = t ∧ vs = srcs.map c.v) ∨
    (¬(pops = [] ∧ pushes = []) ∧ (pops ++ dst.toList ++ fwd).findSome? (t.portBad c.sid) = none ∧ t.clear c.sid = true ∧
      t.linkReady c.sid pops pushes = true ∧ u = (readSources c.sid c.regs t srcs).1.wakeLinks ∧
      vs = (readSources c.sid c.regs t srcs).2)

/-- Neither a kill nor a stop is under way for a strand (R74, R368). -/
structure Calm (s : State) (x : SId) : Prop where
  alive : (s.strand x).dying = false
  flowing : (s.strand x).drainT = none

/-- Everything outside strand `x`, the clock and what is due is the same in both states. -/
structure SameOutside (x : SId) (s t : State) : Prop where
  strands : ∀ y, y ≠ x → t.strand y = s.strand y
  cores : ∀ n, { t.core n with strands := [] } = { s.core n with strands := [] }
  mem : t.mem = s.mem
  jobs : t.jobs = s.jobs
  queues : t.queues = s.queues
  disp : t.disp = s.disp
  gangs : t.gangs = s.gangs
  woad : t.woad = s.woad
  sfu : t.sfu = s.sfu
  coll : t.coll = s.coll
  fw : t.fw = s.fw
  out : t.out = s.out

/-- The invariant: memory is in its canonical form, so that equal memories are equal data. -/
def State.Inv (s : State) : Prop := Memory.wf s.mem.cells = true

/-- A safe run of n steps: none of them faults or is refused. -/
def SafeFor (s : State) : Nat → Prop
  | 0 => True
  | n + 1 => ∃ t, step s = .next t ∧ SafeFor t n

end Sys2Proof.Machine
end

