-- ==== Sys2Proof/Certificates/Slice0/Obligations.lean ====
section
/-! DEFINITION. The statements: what each instruction and each machine step does, as the numbered rules of the spec say it. -/

open Sys2Proof Sys2Proof.Machine

/-! ## Scalar instructions -/

/-- R145 with the latencies of R135 and R136: the results of the two-operand scalar instructions, MUL, MULHS and MULHZ at ISSUE + 4, the
divisions and remainders at ISSUE + 24, the others at ISSUE + 1. -/
def Obligations.ScalarTwoOperandResults : Prop :=
  ∀ (s t : State) (c : Ctx) (d a b : RField), Issuing s t c → decodeTrap {} [gD d, gA a, gB b] false t c = none →
    let x := c.g (gA a)
    let y := c.g (gB b)
    let R (i : Instr) (lat : Nat) (v : Word) : Prop := Lands s t c i lat [.g (c.h.x (gD d)) v]
    R (.add d a b) 1 (x + y) ∧ R (.sub d a b) 1 (x - y) ∧ R (.mul d a b) 4 (x * y) ∧
    R (.mulhs d a b) 4 (BitVec.ofInt 64 (x.toInt * y.toInt / 2 ^ 64)) ∧
    R (.mulhz d a b) 4 (BitVec.ofNat 64 (x.toNat * y.toNat / 2 ^ 64)) ∧
    R (.div d a b) 24 (if y = 0 then BitVec.allOnes 64 else x.sdiv y) ∧
    R (.divz d a b) 24 (if y = 0 then BitVec.allOnes 64 else x / y) ∧
    R (.rem d a b) 24 (if y = 0 then x else x.srem y) ∧ R (.remz d a b) 24 (if y = 0 then x else x % y) ∧
    R (.and d a b) 1 (x &&& y) ∧ R (.or d a b) 1 (x ||| y) ∧ R (.xor d a b) 1 (x ^^^ y) ∧
    R (.andn d a b) 1 (x &&& ~~~y) ∧ R (.orn d a b) 1 (x ||| ~~~y) ∧
    R (.shl d a b) 1 (x <<< (y.toNat % 64)) ∧ R (.shr d a b) 1 (x >>> (y.toNat % 64)) ∧
    R (.sar d a b) 1 (x.sshiftRight (y.toNat % 64)) ∧ R (.rol d a b) 1 (x.rotateLeft (y.toNat % 64)) ∧
    R (.ror d a b) 1 (x.rotateRight (y.toNat % 64)) ∧
    R (.min d a b) 1 (if x.toInt < y.toInt then x else y) ∧ R (.max d a b) 1 (if y.toInt < x.toInt then x else y) ∧
    R (.minz d a b) 1 (if x.toNat < y.toNat then x else y) ∧ R (.maxz d a b) 1 (if y.toNat < x.toNat then x else y) ∧
    R (.slt d a b) 1 (if x.toInt < y.toInt then 1 else 0) ∧ R (.sltz d a b) 1 (if x.toNat < y.toNat then 1 else 0) ∧
    R (.seq d a b) 1 (if x = y then 1 else 0)

/-- R146: the results of the one-operand scalar instructions.
R146: what the counts of CLZ, CTZ and POPC are. For 0, CLZ and CTZ give 64; else the bit at the count is a one and all
bits passed are zeros; POPC counts the one bits. -/
def Obligations.ScalarOneOperandResults : Prop :=
  (∀ (s t : State) (c : Ctx) (d a : RField), Issuing s t c → decodeTrap {} [gD d, gA a] false t c = none →
     let x := c.g (gA a)
     let R (i : Instr) (v : Word) : Prop := Lands s t c i 1 [.g (c.h.x (gD d)) v]
     R (.clz d a) (BitVec.ofNat 64 (leadingZeros 64 x.toNat)) ∧ R (.ctz d a) (BitVec.ofNat 64 (trailingZeros 64 x.toNat)) ∧
     R (.popc d a) (BitVec.ofNat 64 (onesCount 64 x.toNat)) ∧
     R (.bswp d a) (x.extractLsb' 0 8 ++ x.extractLsb' 8 8 ++ x.extractLsb' 16 8 ++ x.extractLsb' 24 8 ++
       x.extractLsb' 32 8 ++ x.extractLsb' 40 8 ++ x.extractLsb' 48 8 ++ x.extractLsb' 56 8) ∧
     R (.sxtS8 d a) ((x.setWidth 8).signExtend 64) ∧ R (.sxtS16 d a) ((x.setWidth 16).signExtend 64) ∧
     R (.sxtS32 d a) ((x.setWidth 32).signExtend 64) ∧ R (.zxtB8 d a) ((x.setWidth 8).setWidth 64) ∧
     R (.zxtB16 d a) ((x.setWidth 16).setWidth 64) ∧ R (.zxtB32 d a) ((x.setWidth 32).setWidth 64)) ∧
  ((∀ x : Word, x ≠ 0 → ∃ n, leadingZeros 64 x.toNat = n ∧ n < 64 ∧ x.getLsbD (63 - n) = true ∧
       ∀ k, 63 - n < k → x.getLsbD k = false) ∧
   (∀ x : Word, x ≠ 0 → ∃ n, trailingZeros 64 x.toNat = n ∧ n < 64 ∧ x.getLsbD n = true ∧ ∀ k, k < n → x.getLsbD k = false) ∧
   leadingZeros 64 0 = 64 ∧ trailingZeros 64 0 = 64 ∧
   ∀ x : Word, onesCount 64 x.toNat = ((List.range 64).filter fun k => x.getLsbD k).length)

/-- R147 to R150: CSEL, the predicate instructions and PCMP. A predicate that PCMP writes is all ones or 0. -/
def Obligations.SelectAndPredicateResults : Prop :=
  ∀ (s t : State) (c : Ctx) (d a b : RField) (pd pa pb : PField), Issuing s t c →
    let x := c.g (gA a)
    let y := c.g (gB b)
    let n := c.h.x (gD d)
    (decodeTrap {} [gD d, gA a, gB b] false t c = none →
      Lands s t c (.csel d a b pa) 1 [.g n (if (c.p pa).getLsbD 0 then x else y)]) ∧
    (decodeTrap {} [] false t c = none →
      Lands s t c (.pand pd pa pb) 1 [.p pd.toNat (c.p pa &&& c.p pb)] ∧
      Lands s t c (.por pd pa pb) 1 [.p pd.toNat (c.p pa ||| c.p pb)] ∧
      Lands s t c (.pxor pd pa pb) 1 [.p pd.toNat (c.p pa ^^^ c.p pb)] ∧
      Lands s t c (.pnot pd pa) 1 [.p pd.toNat (~~~c.p pa)]) ∧
    (decodeTrap {} [gD d] false t c = none → Lands s t c (.movpGP d pa) 1 [.g n ((c.p pa).setWidth 64)]) ∧
    (decodeTrap {} [gA a] false t c = none → Lands s t c (.movpPG pd a) 1 [.p pd.toNat (x.setWidth 16)]) ∧
    (decodeTrap {} [gA a, gB b] false t c = none →
      let R (i : Instr) (k : Prop) [Decidable k] : Prop := Lands s t c i 1 [.p pd.toNat (if k then 0xFFFF else 0)]
      R (.pcmpEq pd a b) (x = y) ∧ R (.pcmpNe pd a b) (x ≠ y) ∧ R (.pcmpLt pd a b) (x.toInt < y.toInt) ∧
      R (.pcmpGe pd a b) (y.toInt ≤ x.toInt) ∧ R (.pcmpLtu pd a b) (x.toNat < y.toNat) ∧
      R (.pcmpGeu pd a b) (y.toNat ≤ x.toNat) ∧ R (.pcmpTst pd a b) (x &&& y ≠ 0))

/-- R151 and R152: the immediate and bit-field instructions. BFX takes L + 1 bits from P on, BFI replaces them.
R99 and R105: an immediate without HIMM is its field sign-extended; HIMM put their 22 bits before it, the first the most
significant, up to three before a 14-bit immediate and two before a 22-bit offset, and the whole is taken modulo 2^64. -/
def Obligations.ImmediateAndFieldResults : Prop :=
  (∀ (s t : State) (c : Ctx) (d a : RField) (i : BitVec 14) (l p : BitVec 6), Issuing s t c →
     let x := c.g (gA a)
     let n := c.h.x (gD d)
     (decodeTrap { imm := 3 } [gD d, gA a] false t c = none → Lands s t c (.addi d a i) 1 [.g n (x + c.h.extend 14 i.toNat)]) ∧
     (decodeTrap { imm := 3 } [gD d] false t c = none →
       Lands s t c (.movi d i) 1 [.g n (c.h.extend 14 i.toNat)] ∧
       Lands s t c (.lea d i) 1 [.g n (c.pc + c.h.extend 14 i.toNat)]) ∧
     (decodeTrap {} [gD d, gA a] false t c = none → p.toNat + l.toNat + 1 ≤ 64 →
       let w := l.toNat + 1
       Lands s t c (.bfx d a l p) 1 [.g n ((x.extractLsb' p.toNat w).setWidth 64)] ∧
       Lands s t c (.bfxS d a l p) 1 [.g n ((x.extractLsb' p.toNat w).signExtend 64)] ∧
       Lands s t c (.bfi d a l p) 1 [.g n (insertField (c.g (gD d)) x p.toNat w)] ∧
       ∀ k, k < 64 → (insertField (c.g (gD d)) x p.toNat w).getLsbD k =
         if p.toNat ≤ k ∧ k < p.toNat + w then x.getLsbD (k - p.toNat) else (c.g (gD d)).getLsbD k)) ∧
  ((∀ (h : Hints) (i : BitVec 14), h.imms = [] → h.extend 14 i.toNat = i.signExtend 64) ∧
   (∀ (h : Hints) (o : BitVec 22), h.imms = [] → h.extend 22 o.toNat = o.signExtend 64) ∧
   (∀ (h : Hints) (p : BitVec 22) (i : BitVec 14), h.imms = [p.toNat] → h.extend 14 i.toNat = (p ++ i).signExtend 64) ∧
   (∀ (h : Hints) (p q : BitVec 22) (i : BitVec 14), h.imms = [p.toNat, q.toNat] →
     h.extend 14 i.toNat = (p ++ q ++ i).signExtend 64) ∧
   (∀ (h : Hints) (p q r : BitVec 22) (i : BitVec 14), h.imms = [p.toNat, q.toNat, r.toNat] →
     h.extend 14 i.toNat = (p ++ q ++ r ++ i).setWidth 64) ∧
   (∀ (h : Hints) (p : BitVec 22) (o : BitVec 22), h.imms = [p.toNat] → h.extend 22 o.toNat = (p ++ o).signExtend 64) ∧
   (∀ (h : Hints) (p q : BitVec 22) (o : BitVec 22), h.imms = [p.toNat, q.toNat] →
     h.extend 22 o.toNat = (p ++ q ++ o).setWidth 64))

/-- R153 to R157: where the branches go and what they link. A register target that is no multiple of 4 raises MISALIGN. -/
def Obligations.BranchTargets : Prop :=
  ∀ (s t : State) (c : Ctx) (d a : RField) (p : PField) (o : BitVec 22) (i : BitVec 14), Issuing s t c →
    let goal (w : Word) : Word := c.pc + 4 * w
    let link : State := t.results c 1 [.g 31 (c.pc + 4)]
    (decodeTrap { imm := 2 } [] false t c = none →
      exec (.br o) s = .next (t.finish c (goal (c.h.extend 22 o.toNat))) ∧
      exec (.brp p o) s = .next (t.finish c (if (c.p p).getLsbD 0 then goal (c.h.extend 22 o.toNat) else c.pc + 4)) ∧
      exec (.brpN p o) s = .next (t.finish c (if (c.p p).getLsbD 0 then c.pc + 4 else goal (c.h.extend 22 o.toNat))) ∧
      exec (.call o) s = .next (link.finish c (goal (c.h.extend 22 o.toNat)))) ∧
    (decodeTrap {} [gA a] false t c = none →
      let x := c.g (gA a)
      if x.toNat % 4 = 0 then
        exec (.brr a) s = .next (t.finish c x) ∧ exec (.callr a) s = .next (link.finish c x)
      else
        exec (.brr a) s = .next (t.faulted c (trapOf .misalign x)) ∧ exec (.callr a) s = .next (t.faulted c (trapOf .misalign x))) ∧
    (decodeTrap {} [] false t c = none →
      let x := c.regs.readG 31
      exec .ret s = .next (if x.toNat % 4 = 0 then t.finish c x else t.faulted c (trapOf .misalign x))) ∧
    (decodeTrap { imm := 3 } [gD d] false t c = none →
      let x := c.g (gD d) - 1
      exec (.loop d i) s = .next ((t.results c 1 [.g (c.h.x (gD d)) x]).finish c
        (if x = 0 then c.pc + 4 else goal (c.h.extend 14 i.toNat))))

/-- R101, R104, R121 and R159: a hint word joins its strand's group and takes one slot; NOP only takes its slot. -/
def Obligations.HintsAndNop : Prop :=
  (∀ (s : State) (n q : BitVec 16) (i v : BitVec 22) (p : BitVec 13) (k : Scope) (m : BitVec 3) (x y z : Bool),
    let st := s.strand s.cur
    let slot := nextSlot (s.rotation s.cur) st.phase st.slot
    st.run = .running → s.ready s.cur slot = true →
    ∀ h ∈ [Instr.himm i, .hdly n, .hxreg x y z, .hstart v, .hseq q, .hpol p, .hscope k, .hrnd m],
      ∃ t, exec h s = .next t ∧ SameOutside s.cur s t ∧
        (t.strand s.cur).group = st.group ++ [encode h] ∧ (t.strand s.cur).pc = st.pc + 4 ∧
        (t.strand s.cur).gpc = (if st.group = [] then st.pc else st.gpc) ∧
        (t.strand s.cur).regs = (st.landTo slot).regs ∧ slot < (t.strand s.cur).slot) ∧
  (∀ (s t : State) (c : Ctx), Issuing s t c → decodeTrap {} [] false t c = none → Passes s t c .nop)

/-- R387 and R389: CSRR reads a control register as it stands at issue; CSRW writes it, CSRS and CSRC set and clear the
bits given. WMEM and the registers of job scope are effects, which use the value that stands when they are performed; the
others land at ISSUE + LAT_ALU. A task's write to a register that it may only read has no effect.
R387 to R389: which bits of each control register a write changes, and that it changes nothing else; read-only fields keep
their value. That a landing write of SVEC waits with the strand for its core's register is the model's reading (log entry 49), and the
widths of JOBID, LAUNCHID and UNITX to UNITZ are its choice (log entry 59). -/
def Obligations.ControlRegisterForms : Prop :=
  (∀ (s t : State) (c : Ctx) (d a : RField) (n : BitVec 12), Issuing s t c →
     let k := n.toNat
     let old := t.csrRead c.sid c.vc k
     let x := c.g (gA a)
     let readOnly : Prop := k ∈ [0x003, 0x004, 0x005, 0x006, 0x007, 0x008, 0x009, 0x00A, 0x00B, 0x00D, 0x00E, 0x00F]
     (decodeTrap {} [gD d] (csrGuard k = some false) t c = none → Lands s t c (.csrr d n) 1 [.g (c.h.x (gD d)) old]) ∧
     (decodeTrap {} [gA a] (csrGuard k).isSome t c = none →
       let R (i : Instr) (f : CsrForm) (v : Word) : Prop :=
         (k ∉ [0x019, 0x030, 0x031, 0x034, 0x035, 0x036] → (readOnly → c.regs.csr.status.priv = true) →
           Lands s t c i 1 [.csr k v]) ∧
         (readOnly → c.regs.csr.status.priv = false → Passes s t c i) ∧
         (t.clear c.sid = true → k = 0x019 → Passes s (t.setWmem c.sid (v.setWidth 24)) c i) ∧
         (t.clear c.sid = true → k ∈ [0x030, 0x031, 0x034, 0x035, 0x036] →
           Passes s (t.writeJobCsr c.sid.core (t.jobOf c.sid) k v) c i) ∧
         (t.clear c.sid = false → k ∈ [0x019, 0x030, 0x031, 0x034, 0x035, 0x036] → Defers s t c i (.csr f k x))
       R (.csrw a n) .write x ∧ R (.csrs a n) .set (old ||| x) ∧ R (.csrc a n) .clear (old &&& ~~~x))) ∧
  (∀ (r : Csrs) (x : Word),
     r.write 0x000 x = { r with status := { r.status with wdone := x.getLsbD 4 } } ∧
     r.write 0x001 x = { r with fpmode := x &&& 0xFFFFFFFF0000000F } ∧ r.write 0x002 x = { r with srctr := x.setWidth 32 } ∧
     r.write 0x006 x = { r with jobId := x.setWidth 32 } ∧ r.write 0x007 x = { r with launchId := x.setWidth 32 } ∧
     r.write 0x008 x = { r with unitX := x.setWidth 24 } ∧ r.write 0x009 x = { r with unitY := x.setWidth 24 } ∧
     r.write 0x00A x = { r with unitZ := x.setWidth 24 } ∧ r.write 0x00B x = { r with taskArg := x } ∧
     r.write 0x00C x = { r with mpx := x } ∧ r.write 0x00F x = { r with vshift := x } ∧
     r.write 0x010 x = { r with cause := x.setWidth 8 } ∧ r.write 0x011 x = { r with eval := x } ∧
     r.write 0x012 x = { r with epc := x } ∧ r.write 0x013 x = { r with empx := x } ∧ r.write 0x014 x = { r with eother := x } ∧
     r.write 0x015 x = { r with tscr := x } ∧ r.write 0x016 x = { r with sscr := x } ∧
     r.write 0x018 x = { r with linkcfg := x.setWidth 4 } ∧
     r.write 0x032 x = { r with svecIn := some (x &&& 0x01FFFFFFFFFFFFFC) } ∧
     (∀ n, n < 8 → r.write (0x020 + n) x = { r with q := Tab.set 0 r.q n (x.setWidth 32) }) ∧
     (∀ n ∈ [0x003, 0x004, 0x005, 0x00D, 0x00E], r.write n x = r))

/-! ## Loads, stores and full/empty operations -/

/-- R190 to R193: a load whose address resolves and meets no fault. In scratch it is performed at issue and lands at ISSUE + 6, with the
strand's own deferred stores seen (R191); while an earlier operation that orders it is unperformed, it waits at the instruction (R348;
log entry 12). Elsewhere its request goes to the home and its fault point is ISSUE + 96; one that could not be answered by then issues
in a later slot (log entry 52). -/
def Obligations.LoadsComplete : Prop :=
  ∀ (s t : State) (c : Ctx) (d b : RField) (e : EField) (qn : QField) (o : BitVec 11), Issuing s t c →
    let p := c.q qn
    let R (i : Instr) (n : Nat) (us : List Use) (k : LoadDest) (w : Nat → List Dest) : Prop :=
      let ea := c.g (gA b) + o.signExtend 64 * BitVec.ofNat 64 n
      decodeTrap loadHints us false t c = none → polOk p = true → ea.toNat % n = 0 →
        (toScratch ea p = true →
          let l := Config.scratchLoc c.sid.core (ea.toNat % 0x40000)
          let u := t.before c.sid (isSync p) l n
          let m := u.managed c.sid l p
          (∀ g, c.h.seq = some g → t.tagAt l = g) →
          ((t.strand c.sid).nextWaits (isSync p) = true →
            exec i s = .next ((t.settleAct c (.again .serial (.order (isSync p)))).ended c)) ∧
          ((t.strand c.sid).nextWaits (isSync p) = false → u.writeLocked l n = false →
            firstBadOf (u.badFor (clusterOf c.sid.core)) l n = none → u.conflict c.sid (2 * l) (2 * n) false m = none →
            Tab.find? u.mem.shadow (l / 128) = none →
            let bs := t.overlay c.sid c.seq l ((List.range n).map fun k => u.seenByte c.sid (l + k))
            let v := u.after c.sid (isSync p) l n ⟨2 * l, 2 * n, false, m⟩
            exec i s = .next (((v.addFlight c (c.flight (c.vc + 6) none none)).results c 6 (w (leNat bs))).finish c (c.pc + 4)))) ∧
        (toScratch ea p = false → ∀ l leaf, t.resolve c.sid ea p { Need.read with dev := n = 8 } = .at_ l leaf →
          let f := c.flight (c.vc + 96) (some (.load ea l n k p, .sent 0)) none
          let u := t.countLeaf (t.jobOf c.sid) leaf ea.toNat l 1
          (t.laterVc c f = none → Passes s ((u.addFlight c f).post 0 (.homeSliceRequest c.sid c.seq none)) c i) ∧
          ∀ v, t.laterVc c f = some v → exec i s = .next ((t.settleAct c (.later v)).ended c))
    let x := c.h.x (gD d)
    let y := c.h.x (gPair e)
    let zero (w : Nat) (v : Nat) : List Dest := [.g x ((BitVec.ofNat w v).setWidth 64)]
    let sign (w : Nat) (v : Nat) : List Dest := [.g x ((BitVec.ofNat w v).signExtend 64)]
    R (.ldB8 d b qn o) 1 [gD d, gA b] (.g x false) (zero 8) ∧ R (.ldB16 d b qn o) 2 [gD d, gA b] (.g x false) (zero 16) ∧
    R (.ldB32 d b qn o) 4 [gD d, gA b] (.g x false) (zero 32) ∧ R (.ldB64 d b qn o) 8 [gD d, gA b] (.g x false) (zero 64) ∧
    R (.ldS8 d b qn o) 1 [gD d, gA b] (.g x true) (sign 8) ∧ R (.ldS16 d b qn o) 2 [gD d, gA b] (.g x true) (sign 16) ∧
    R (.ldS32 d b qn o) 4 [gD d, gA b] (.g x true) (sign 32) ∧
    R (.ldpr e b qn o) 16 [gPair e, gA b] (.pair y)
      (fun v => [.g y (BitVec.ofNat 64 v), .g (y + 1) (BitVec.ofNat 64 (v / 2 ^ 64))]) ∧
    R (.ldv d b qn o) 16 [vD d, gA b] (.v d.toNat) (fun v => [.v d.toNat (BitVec.ofNat 128 v)])

/-- R190 to R192, R196: a store performed at issue. In scratch its bytes are written and every sector written whole takes a
good code; a device register takes the dword; elsewhere the bytes, or STN's one nibble of a byte, go to the strand's buffer and open
region, or to a copy of the line that nobody tracks. It counts as it translates (R411). Its page's walk, where it misses the TLB, may
make the next vc late (log entry 52). -/
def Obligations.StoresComplete : Prop :=
  ∀ (s t : State) (c : Ctx) (d b : RField) (qn : QField) (o : BitVec 11), Issuing s t c → t.clear c.sid = true →
    let p := c.q qn
    let R (i : Instr) (n : Nat) (us : List Use) (v : VWord) : Prop :=
      let ea := c.g (gA b) + o.signExtend 64 * BitVec.ofNat 64 n
      decodeTrap policyHints us false t c = none → polOk p = true → ea.toNat % n = 0 →
        ∀ l leaf, t.resolve c.sid ea p { Need.write with dev := n = 8 } = .at_ l leaf →
          let u := (t.countWalk c.sid ea p).walkLate c.sid ea l (c.vc + 1)
          let w := u.before c.sid (isSync p) l n
          let m := w.managed c.sid l p
          if isDev l then Passes s (u.post 0 (.registerWrite l (v.setWidth 64))) c i
          else u.storeLocked l n = false → w.conflict c.sid (2 * l) (2 * n) true m = none →
            Passes s ((if isScratchLoc l then w.write l (leBytes n v.toNat)
              else w.storeBytes c.sid ea l c.vc (leBytes n v.toNat) p).after c.sid (isSync p) l n ⟨2 * l, 2 * n, true, m⟩) c i
    let x := (c.g (gD d)).setWidth 128
    R (.stB8 d b qn o) 1 [gD d, gA b] x ∧ R (.stB16 d b qn o) 2 [gD d, gA b] x ∧ R (.stB32 d b qn o) 4 [gD d, gA b] x ∧
    R (.stB64 d b qn o) 8 [gD d, gA b] x ∧ R (.stv d b qn o) 16 [vD d, gA b] (c.v d) ∧
    (decodeTrap policyHints [gD d, gA b] false t c = none → polOk p = true → toScratch (c.g (gA b)) p = true →
      let l := Config.scratchLoc c.sid.core ((c.g (gA b)).toNat % 0x40000)
      let w := t.before c.sid (isSync p) l 1
      let m := w.managed c.sid l p
      let y := ((c.g (gD d)).setWidth 4).setWidth 8
      t.storeLocked l 1 = false →
        (w.conflict c.sid (2 * l) 1 true m = none → Passes s
          ((w.setByte l ((w.byteAt l &&& 0xF0) ||| y)).after c.sid (isSync p) l 1 ⟨2 * l, 1, true, m⟩) c (.stnLo d b qn)) ∧
        (w.conflict c.sid (2 * l + 1) 1 true m = none → Passes s
          ((w.setByte l ((w.byteAt l &&& 0x0F) ||| (y <<< 4))).after c.sid (isSync p) l 1 ⟨2 * l + 1, 1, true, m⟩) c (.stnHi d b qn))) ∧
    (decodeTrap policyHints [gD d, gA b] false t c = none → polOk p = true → ∀ l leaf, isScratchLoc l = false →
      t.resolve c.sid (c.g (gA b)) p Need.write = .at_ l leaf →
        let ea := c.g (gA b)
        let u := (t.countWalk c.sid ea p).walkLate c.sid ea l (c.vc + 1)
        let w := u.before c.sid (isSync p) l 1
        let m := w.managed c.sid l p
        let k := w.passStore c.sid ea l c.vc p
        let x : BitVec 4 := (c.g (gD d)).setWidth 4
        let R (i : Instr) (lo : Nat) (mask : Byte) (hi : Bool) : Prop :=
          w.conflict c.sid lo 1 true m = none → Passes s ((
            if (k.untracked (clusterOf c.sid.core) (l / 128)).isSome then
              k.writeUntracked (clusterOf c.sid.core) l [putNibble (k.seenByte c.sid l) hi x]
            else k.modStrand c.sid fun st => { st with region := { st.region with
              held := st.region.held ++ [⟨l, mask, putNibble 0 hi x, ea.toNat, c.vc⟩] } }).after c.sid (isSync p) l 1 ⟨lo, 1, true, m⟩) c i
        u.storeLocked l 1 = false → R (.stnLo d b qn) (2 * l) 0x0F false ∧ R (.stnHi d b qn) (2 * l + 1) 0xF0 true)

/-- R188, R194 and R195: full/empty operations whose word's bit lets them go on. LDF leaves the word empty, STF full, LDFP
as it was; FEMARK sets the bit either way. Beyond scratch LDF, LDFP and STF are requests to the home.
R188, R194 and R195: one full/empty operation on a word that fits it. LDF takes the value and leaves the word empty, LDFP
leaves it, STF writes and leaves it full, FEMARK sets the bit. -/
def Obligations.FullEmptyForms : Prop :=
  (∀ (s t : State) (c : Ctx) (d b : RField) (qn : QField) (o : BitVec 11), Issuing s t c → t.clear c.sid = true →
     let p := c.q qn
     let ea := c.g (gA b) + o.signExtend 64 * 8
     let x := c.g (gD d)
     let n := c.h.x (gD d)
     let fine (u : State) (l : Nat) (w : Bool) : Prop :=
       u.storeLocked l 8 = false ∧ (w = false → u.firstBad l 8 = none ∧ Tab.find? u.mem.shadow (l / 128) = none)
     (polOk p = true → ea.toNat % 8 = 0 → toScratch ea p = true →
       let l := Config.scratchLoc c.sid.core (ea.toNat % 0x40000)
       let u := t.endRegion c.sid
       let v := u.natAt l 8
       (decodeTrap loadHints [gD d, gA b] false t c = none → (∀ g, c.h.seq = some g → u.tagAt l = g) → fine u l false →
         u.isEmpty l = false →
         let land (w : State) : State :=
           ((w.serveWord l).addFlight c (c.flight (c.vc + 6) none none)).results c 6 [.g n (BitVec.ofNat 64 v)]
         (u.conflict c.sid (2 * l) 16 true (polSwm p) = none → Passes s (land (u.setEmpty l true)) c (.ldf d b qn o)) ∧
         (u.conflict c.sid (2 * l) 16 false (polSwm p) = none → Passes s (land u) c (.ldfp d b qn o))) ∧
       (decodeTrap policyHints [gD d, gA b] false t c = none → fine u l true → u.isEmpty l = true →
         u.conflict c.sid (2 * l) 16 true (polSwm p) = none →
         Passes s (((u.write l (leBytes 8 x.toNat)).setEmpty l false).serveWord l) c (.stf d b qn o))) ∧
     (polOk p = true → ea.toNat % 8 = 0 → toScratch ea p = false → ∀ l leaf,
       let u := (t.countOnce c.sid c.seq ea p).endRegion c.sid
       let sent (op : FeOp) (lat : Nat) (v : Word) : State :=
         (u.addFlight c (c.flight (c.vc + lat) (some (.fe op ea l v n p, .sent 0)) none)).post 0 (.homeSliceRequest c.sid c.seq none)
       (t.resolve c.sid ea p (Need.fullEmpty true) = .at_ l leaf → decodeTrap loadHints [gD d, gA b] false t c = none →
         Passes s (sent .ldf 96 x) c (.ldf d b qn o) ∧ Passes s (sent .ldfp 96 x) c (.ldfp d b qn o)) ∧
       (t.resolve c.sid ea p (Need.fullEmpty false) = .at_ l leaf → decodeTrap policyHints [gD d, gA b] false t c = none →
         Parks s (sent .stf 0 x) c (.stf d b qn o) .fullEmpty (.home c.seq))) ∧
     (decodeTrap policyHints [gA b] false t c = none → polOk p = true → (c.g (gA b)).toNat % 8 = 0 →
       (polTc p = 0 → toScratch (c.g (gA b)) p = false → (t.strand c.sid).zeroOut = false) →
       ∀ l leaf, t.resolve c.sid (c.g (gA b)) p (Need.fullEmpty false) = .at_ l leaf →
       let u := (t.countOnce c.sid c.seq (c.g (gA b)) p).endRegion c.sid
       let w := u.passHome c.sid (c.g (gA b)) l p true
       fine u l true → u.conflict c.sid (2 * l) 16 true (polSwm p) = none →
       Passes s (((w.setEmpty l true).serveWord l).respondDelay c.sid (lineBank l)) c (.femarkE b qn) ∧
       Passes s (((w.setEmpty l false).serveWord l).respondDelay c.sid (lineBank l)) c (.femarkF b qn))) ∧
  (∀ (s : State) (l d : Nat) (x : Word),
     let v := BitVec.ofNat 64 (s.natAt l 8)
     (FeOp.ldf.fits true = false ∧ FeOp.ldfp.fits true = false ∧ FeOp.stf.fits false = false ∧ FeOp.stf.fits true = true ∧
       FeOp.ldf.fits false = true ∧ FeOp.ldfp.fits false = true) ∧
     s.feStep .ldf l x d = (s.setEmpty l true, [.g d v]) ∧ s.feStep .ldfp l x d = (s, [.g d v]) ∧
     s.feStep .stf l x d = ((s.write l (leBytes 8 x.toNat)).setEmpty l false, []) ∧
     s.feStep .markE l x d = (s.setEmpty l true, []) ∧ s.feStep .markF l x d = (s.setEmpty l false, []) ∧
     (s.setEmpty l true).isEmpty l = true)

/-- R197 to R199: PREF brings a line in where its address resolves and no lock stops a load of it, and is dropped where not. A
range operation of length 0
is complete at once, breaks the region in its order and clears MPX; another starts with the line that MPX names and parks its strand
until it is done.
R340 and R353: FENCE ends the strand's region and completes at once where every earlier access has been performed, an
acquire fence also where only stores are still under way; else the strand waits for them. -/
def Obligations.CacheAndFenceForms : Prop :=
  (∀ (s t : State) (c : Ctx) (d a : RField) (qn : QField), Issuing s t c →
     let p := c.q qn
     let ea := c.g (gA a)
     (decodeTrap policyHints [gA a] false t c = none →
       (∀ l leaf, polOk p = true → t.resolve c.sid ea p Need.read = .at_ l leaf →
         Passes s (if t.writeLocked l 1 then t else t.pass c.sid ea l p false) c (.pref a qn)) ∧
       ((polOk p = false ∨ ∀ l leaf, t.resolve c.sid ea p Need.read ≠ .at_ l leaf) → Passes s t c (.pref a qn))) ∧
     (decodeTrap policyHints [gD d, gA a] false t c = none → polOk p = true →
       ∀ i op, (i, op) ∈ [(Instr.flush d a qn, RangeOp.flush), (.inval d a qn, .inval), (.fill d a qn, .fill)] →
         (c.g (gD d) = 0 → Passes s ((t.breakAt c.sid c.seq).results c 0 [.csr 0x00C 0]) c i) ∧
         (c.g (gD d) ≠ 0 → Parks s (t.post 0 (.rangeStep c.sid)) c i .serial (.rangeMacro op ea (c.g (gD d)) p)))) ∧
  (∀ (s t : State) (c : Ctx) (k : Order) (m : Scope), Issuing s t c → decodeTrap { scope := true } [] false t c = none →
     let u := t.endRegion c.sid
     (t.clear c.sid = true → ((u.strand c.sid).storeBuf = [] ∨ k = .acquire) → Passes s u c (.fence k m)) ∧
     (t.clear c.sid = true → (u.strand c.sid).storeBuf ≠ [] → k ≠ .acquire → Parks s u c (.fence k m) .serial (.fence false)) ∧
     (t.clear c.sid = false → Parks s t c (.fence k m) .serial (.fence (k = .acquire))))

/-- R351 and R352: an atomic whose effect is performed at issue translates then and is sent to the place of that walk, with its
operands as they stand at issue and its fault point at ISSUE + 160; it counts as it translates (R411). AFADD takes the rounding
mode of R119.
R352: what an atomic does as one step at its place, and what it returns. ACAS writes only where the bytes equal the
comparand; an integer operation works on 4 or 8 bytes. -/
def Obligations.AtomicForms : Prop :=
  (∀ (s t : State) (c : Ctx) (d a b : RField) (qn : QField) (z : Bool), Issuing s t c → t.clear c.sid = true →
     let p := c.q qn
     let ea := c.g (gA a)
     let n := if z then 8 else 4
     let R (att : Attach) (i : Instr) (op : AOp) (mode : Nat) : Prop :=
       decodeTrap att [gD d, gA a, gB b] false t c = none → polOk p = true → ea.toNat % n = 0 →
         ∀ l leaf, t.resolve c.sid ea p Need.both = .at_ l leaf →
         let r (at_ : Option (Nat × Option Word)) : Request := .atomic op n ea at_ (c.g (gB b)) (c.g (gD d)) (c.h.x (gD d)) mode p
         let u := (t.addFlight c (c.flight (c.vc + 160) (some (r none, .unsent)) none)).countOnce c.sid c.seq ea p
         (∀ v : State, v.resolve c.sid ea p Need.both = .at_ l leaf → v.requestPlaced c.sid (r none) = r (some (l, leaf))) ∧
         (t.laterVc c (c.flight (c.vc + 160) (some (r none, .unsent)) none) = none → Passes s (u.performRequest c.sid c.seq (r none)) c i)
     R policyHints (.aadd d a b qn z) .add 0 ∧ R policyHints (.aand d a b qn z) .and 0 ∧
     R policyHints (.aor d a b qn z) .or 0 ∧ R policyHints (.axor d a b qn z) .xor 0 ∧
     R policyHints (.amin d a b qn z) .min 0 ∧ R policyHints (.amax d a b qn z) .max 0 ∧
     R policyHints (.aminz d a b qn z) .minz 0 ∧ R policyHints (.amaxz d a b qn z) .maxz 0 ∧
     R policyHints (.axchg d a b qn z) .xchg 0 ∧ R policyHints (.acas d a b qn z) .cas 0 ∧
     ∀ m, c.mode false = some m →
       R { policyHints with rnd := some false } (.afadd d a b qn z) .fadd (m + (if c.ftz then 8 else 0))) ∧
  (∀ (s : State) (x : SId) (ea y k : Word) (l n : Nat) (q : Policy), (n = 4 ∨ n = 8) →
     let u := s.endRegion x
     let old := u.natAt l n
     let w := 8 * n
     let v := y.toNat % 2 ^ w
     let sg (m : Nat) : Int := if m < 2 ^ (w - 1) then m else (m : Int) - (2 ^ w : Nat)
     u.storeLocked l n = false → u.firstBad l n = none → u.shadowTrap x ea l = none →
       (u.conflict x (2 * l) (2 * n) true (polSwm q) = none →
         let R (op : AOp) (new : Nat) : Prop :=
           s.atomicAt x op n ea l y k 0 q = ((u.passHome x ea l q true).write l (leBytes n new), .inl old)
         R .add ((old + v) % 2 ^ w) ∧ R .and (old &&& v) ∧ R .or (old ||| v) ∧ R .xor (old ^^^ v) ∧ R .xchg v ∧
         R .min (if sg v < sg old then v else old) ∧ R .max (if sg old < sg v then v else old) ∧
         R .minz (if v < old then v else old) ∧ R .maxz (if old < v then v else old) ∧
         (old = k.toNat % 2 ^ w → R .cas v)) ∧
       (old ≠ k.toNat % 2 ^ w → u.conflict x (2 * l) (2 * n) false (polSwm q) = none →
         s.atomicAt x .cas n ea l y k 0 q = (u.passHome x ea l q false, .inl old)))

/-! ## Woad, streams, messages, copies and barrier objects -/

/-- R331, R333, R334 and R337: WARV and WSEND send an arrival and go on; WBAR, WRECV and WRED send it and park until the
release; each waits for the strand's own write to WMEM (R133, R389). WWAIT is an effect: it ends the region and parks while the
strand's arrival is pending, and is deferred behind earlier fault points. With WDONE set a waiting form (WBAR, WRECV and the four
WRED) performs only its wait: it parks while the arrival is pending and takes the result of a release that came while the strand was
stopped (R370). -/
def Obligations.WoadFormsComplete : Prop :=
  ∀ (s t : State) (c : Ctx) (d a : RField) (ch : BitVec 5), Issuing s t c →
    let n := ch.toNat
    let x := c.h.x (gD d)
    let v : BitVec 32 := (c.g (gA a)).setWidth 32
    let u := t.endRegion c.sid
    let joined : Prop := (t.strand c.sid).joining = false
    (joined → ∀ q, t.memberOf c.sid n = some q → t.woadPending c.sid q = false → t.quietFor c.sid c.seq = true →
      let sent (k : WKind) (w : BitVec 32) : State := u.arrive q ⟨c.sid, k, w⟩
      (decodeTrap {} [] false t c = none → Passes s (sent .plain 0) c (.warv ch)) ∧
      (decodeTrap {} [gA a] false t c = none → Passes s (sent .send v) c (.wsend a ch)) ∧
      ((t.strand c.sid).regs.csr.status.wdone = false →
        (decodeTrap {} [] false t c = none → Parks s (sent .plain 0) c (.wbar ch) .woad (.woad q n true none)) ∧
        (decodeTrap {} [gD d] false t c = none → Parks s (sent .recv 0) c (.wrecv d ch) .woad (.woad q n true (some x))) ∧
        (decodeTrap {} [gD d, gA a] false t c = none →
          ∀ i k, (i, k) ∈ [(Instr.wredAdd d a ch, WKind.add), (.wredMin d a ch, .min), (.wredMax d a ch, .max),
            (.wredOr d a ch, .or)] → Parks s (sent k v) c i .woad (.woad q n true (some x))))) ∧
    (decodeTrap {} [] false t c = none →
      (t.clear c.sid = true →
        (∀ q, u.memberOf c.sid n = some q → u.woadPending c.sid q = true →
          Parks s ((u.addFlight c (c.flight c.vc none none)).addDeferred c (.wwait n) (some .woad)) c (.wwait ch) .woad .effect) ∧
        ((∀ q, u.memberOf c.sid n = some q → u.woadPending c.sid q = false) → Passes s u c (.wwait ch))) ∧
      (t.clear c.sid = false → Defers s t c (.wwait ch) (.wwait n)) ∧
      (¬joined → exec (.warv ch) s = .next ((t.settleAct c (.again .serial .again)).ended c))) ∧
    (joined → t.memberOf c.sid n = none →
      (decodeTrap {} [] false t c = none → exec (.warv ch) s = .next (t.faulted c (trapOf .operand (BitVec.ofNat 64 (n * 256 + 1))))) ∧
      (decodeTrap {} [gA a] false t c = none →
        exec (.wsend a ch) s = .next (t.faulted c (trapOf .operand (BitVec.ofNat 64 (n * 256 + 1)))))) ∧
    ((t.strand c.sid).regs.csr.status.wdone = true →
      let w := (t.breakAt c.sid c.seq).modStrand c.sid fun st => st.modCsrNow fun r => { r with status := { r.status with wdone := false } }
      let D (i : Instr) (us : List Use) (k : Option Nat) : Prop := decodeTrap {} us false t c = none →
        ∀ q, w.physChannel c.sid n = some q →
          (w.woadPending c.sid q = true → Parks s w c i .woad (.woad q n true k)) ∧
          (w.woadPending c.sid q = false → ∀ (r : BitVec 32) (mixed : Bool), Tab.find? (w.strand c.sid).woadGot q = some (r, mixed) →
            if mixed = true ∧ k.isSome = true then exec i s = .next (t.faulted c (trapOf .operand (BitVec.ofNat 64 (n * 256 + 2))))
            else Passes s ((w.modStrand c.sid fun st => { st with woadGot := [] }).results c 0
              (k.toList.map fun j => .g j (r.setWidth 64))) c i)
      D (.wbar ch) [] none ∧ D (.wrecv d ch) [gD d] (some x) ∧
      ∀ i ∈ [Instr.wredAdd d a ch, .wredMin d a ch, .wredMax d a ch, .wredOr d a ch], D i [gD d, gA a] (some x))

/-- R261 to R263 and R341: SOPEN ends the region and opens a free route, SSEND and SCLOSE use it, SRECV takes the head of the
inbound queue (landing at ISSUE + 2) or parks, and SPOLL shows whether the head is a word, the closing marker or nothing.
R177, R210, R225 and R226: MSGSEND ends the region and sends a message to a core of its partition that has room, unless an
earlier message of its core waits for that core; it is then its strand's class-0 request, and is deferred while another one is
outstanding; MSGRECV takes the oldest message (payload in gd, kind and sender in gd+1, landing at ISSUE + 4); WAITMSG goes on
when one is there. -/
def Obligations.StreamAndMessageForms : Prop :=
  (∀ (s t : State) (c : Ctx) (d a : RField) (pd : PField), Issuing s t c →
     let me := t.strand c.sid
     let u := t.endRegion c.sid
     let queue := (t.core c.sid.core).streamIn
     (t.clear c.sid = true →
       (decodeTrap {} [gA a] false t c = none →
         let w := c.g (gA a)
         let g := t.fwd w.toNat
         w.toNat < 8192 → coreIdOk w.toNat = true → w.toNat ∈ (t.job (t.jobOf c.sid)).cores → (u.strand c.sid).route = none →
           (u.core g).routeHolder = none → (u.core g).routeWait = [] →
           Passes s ((u.modCore g fun k => { k with routeHolder := some c.sid }).modStrand c.sid fun st =>
             { st with route := some w.toNat }) c (.sopen a)) ∧
       (decodeTrap {} [vA a] false t c = none → ∀ g, me.route = some g →
         (t.core (t.fwd g)).streamIn.length + (t.core (t.fwd g)).streamTransit.length < 16 →
         Passes s (t.sendStream g (some (c.v a))) c (.ssend a)) ∧
       (decodeTrap {} [] false t c = none → ∀ g, me.route = some g →
         Passes s (u.closeRoute c.sid) c .sclose) ∧
       (decodeTrap {} [vD d] false t c = none →
         (queue = [] → Parks s t c (.srecv d) .stream (.stream d.toNat)) ∧
         (∀ e es, queue = e :: es → ∃ w, t.popStream c.sid = some (e.getD 0, w) ∧
           (w.core c.sid.core).streamIn = es ∧ Passes s (w.results c 2 [.v d.toNat (e.getD 0)]) c (.srecv d)))) ∧
     (decodeTrap {} [] false t c = none →
       Lands s t c (.spoll pd) 1 [.p pd.toNat (match queue with | [] => 0 | some _ :: _ => 0xFFFF | none :: _ => 0xFF00)])) ∧
  (∀ (s t : State) (c : Ctx) (d : EField) (a b : RField), Issuing s t c → t.clear c.sid = true →
     let queue := (t.core c.sid.core).inbox
     let n := c.h.x (gPair d)
     (decodeTrap {} [gA a, gB b] false t c = none →
       let w := c.g (gA a)
       let u := t.endRegion c.sid
       w.toNat < 8192 → coreIdOk w.toNat = true → w.toNat ∈ (t.job (t.jobOf c.sid)).cores →
         ((t.strand c.sid).zeroOut = true → Defers s t c (.msgsend a b) (.msgsend w (c.g (gB b)))) ∧
         ((t.strand c.sid).zeroOut = false →
         (u.core (u.fwd w.toNat)).inbox.length + (u.core (u.fwd w.toNat)).transit.length < 16 →
         w.toNat ∉ (u.core c.sid.core).heldTo →
         Passes s (((u.modCore (u.fwd w.toNat) fun k =>
           { k with transit := k.transit ++ [⟨c.g (gB b), 0, c.sid.core, c.sid.strand⟩] }).post 0 (.messageArrival (u.fwd w.toNat) 0)).modStrand
             c.sid fun st => { st with msgOut := true }) c (.msgsend a b))) ∧
     (decodeTrap {} [gPair d] false t c = none →
       (queue = [] → Parks s t c (.msgrecv d) .message (.message (some n))) ∧
       (∀ m ms, queue = m :: ms → ∃ u, t.popMsg c.sid.core = some (m, u) ∧ (u.core c.sid.core).inbox = ms ∧
         Passes s ((u.endRegion c.sid).results c 4
           [.g n m.payload, .g (n + 1) (BitVec.ofNat 64 (m.kind * 65536 + m.sender))]) c (.msgrecv d))) ∧
     (decodeTrap {} [] false t c = none →
       (queue = [] → Parks s t c .waitmsg .message (.message none)) ∧
       (queue ≠ [] → Passes s (t.endRegion c.sid) c .waitmsg)))

/-- R137, R202, R220 to R222: a copy form whose record and object pass the checks of R220 and whose registration finds no
fault and no full place registers an operation that owns the captured command. Its record is read at issue, which waits for what the
strand must perform before that read (R42, R348; log entry 12).
R202, R203, R216: the registration of a copy form without a follow-on, with a place in the mailbox and the lock table
free and no unit that faults: the operation joins the core's list, not started, with the locks and landings of its window, the
strand's claim on a place is gone, and the engine is asked to start it. -/
def Obligations.CopyFormsRegister : Prop :=
  (∀ (s t u w : State) (c : Ctx) (d a b : RField) (n : Nat), Issuing s t c →
     let r : Rec768 := BitVec.ofNat 768 n
     let obj := c.g (gB b)
     let gd := c.g (gD d)
     ((t.strand c.sid).nextWaits false = true → decodeTrap { start := true } [gA a, gB b] false t c = none →
       ∀ i ∈ [Instr.cpy a b, .cpym a b], exec i s = .next ((t.settleAct c (.again .serial (.order false))).ended c)) ∧
     ((t.strand c.sid).nextWaits false = false →
     t.readRecord c.sid (c.g (gA a)) 32 96 = (u, .inl n) → layoutBad r = none → obj.toNat % 16 = 0 → inWindow obj = true →
       let cmd (k : CopyKind) (x : Word) (f : Option ArrayCmd) : CopyCmd :=
         { kind := k, record := r, obj := obj, third := x, q := 0, hstart := startVc c, hseq := c.h.seq, follow := f }
       let R (v : State) (i : Instr) (att : Attach) (us : List Use) (k : CopyKind) (x : Word) (f : Option ArrayCmd) : Prop :=
         decodeTrap att us false t c = none → v.clear c.sid = true → timingBad v c = none →
           (v.noteStart c).performCopy c.sid c.seq c.gpc c.vc (cmd k x f) = .done w →
             Passes s (if f.isSome then w.lockFollow c.sid.core else w) c i
       R u (.cpy a b) { start := true } [gA a, gB b] .cpy 0 none ∧ R u (.cpym a b) { start := true } [gA a, gB b] .cpym 0 none ∧
       (layMeshd r = 0 → ∀ v m f, u.readRecord c.sid gd 32 32 = (v, .inl m) → followCmd v c m r gd = .inl f →
         R v (.cpyx d a b) { start := true, seq := true } [gD d, gA a, gB b] .cpyx gd (some f)) ∧
       (layMeshd r = 0 → (layFmt r = 14 → layRank r ≠ 1) → inWindow gd = true → gd.toNat % 4 = 0 →
         gd.toNat + 4 * layWin r (layRank r - 1) ≤ Config.scratchBase + 0x40000 →
         R u (.gath d a b) { start := true } [gD d, gA a, gB b] .gath gd none ∧
         R u (.scat d a b) { start := true } [gD d, gA a, gB b] .scat gd none))) ∧
  (∀ (s : State) (x : SId) (seq : Nat) (gpc : Word) (issue : Nat) (cmd : CopyCmd), (cmd.kind = .cpy ∨ cmd.kind = .cpym) → cmd.follow = none →
     let u := s.endRegion x
     let v := (u.claim x 1 false).1
     let g := v.regUnits x cmd.kind cmd.record (layElems cmd.record x.core)
     (∀ e ∈ (u.core x.core).claims, e.1 ≠ x) → (u.core x.core).boxed < 4 → (u.core x.core).lockEntries < 16 →
       v.meshOutside x cmd.record = none → g.bad = none → g.blocked = none →
       ∃ w op, s.performCopy x seq gpc issue cmd = .done w ∧ (w.core x.core).ops = (u.core x.core).ops ++ [op] ∧
         op.id = u.nextId ∧ op.cmd = cmd ∧ op.owner = x ∧ op.started = false ∧ op.inBox = true ∧ op.open_ = false ∧
         op.todo = g.lands.reverse ∧
         op.wlocks = (if cmd.kind = .cpym then g.wlocks.map (fun e => (e.1 * 128, 128)) else g.wlocks.map fun e => (e.1 * 16, 16)) ∧
         (∀ e ∈ (w.core x.core).claims, e.1 ≠ x) ∧ ∃ p ∈ w.agenda, p.what = .copyStart x.core)

/-- R206, R207, R223 and R224: BARINIT writes the object's 16 bytes, BARADD changes its expected count and counts 0 bytes in
one step of the object, WAITPH breaks the region, goes on where the phase is the one it names and parks where not. That BARINIT and
BARADD settle the strand's own held stores to the object, make no race check and enter no region is the model's (log entry 35).
R205, R206 and R223: what counting n bytes at a barrier object, after a change d of its expected count, leaves. The count of
arrived bytes goes up; reaching a non-zero expected count flips the phase and takes that count off. -/
def Obligations.BarrierObjectForms : Prop :=
  (∀ (s t : State) (c : Ctx) (a b : RField) (n : Bool), Issuing s t c →
     let o := c.g (gA a)
     let w := c.g (gB b)
     let u := t.breakAt c.sid c.seq
     let l := Config.scratchLoc c.sid.core (o.toNat % 0x40000)
     o.toNat % 16 = 0 → Config.scratchBase ≤ o.toNat → o.toNat < Config.scratchBase + 0x40000 →
       (decodeTrap {} [gA a, gB b] false t c = none → t.clear c.sid = true →
         (bitsOf w 47 45 = 0 → (bitOf w 63 = true → coreIdOk (bitsOf w 44 32) = true) → t.storeLocked l 16 = false →
           Passes s ((t.settleOwn c.sid l 16).write l (leBytes 16 w.toNat)) c (.barinit a b)) ∧
         (∀ e : Nat, (e : Int) = ((t.settleOwn c.sid l 16).natAt l 4 : Int) +
             ((t.settleOwn c.sid l 16).core (locCore l)).heldChange l + (w.setWidth 32).toInt → e < 2 ^ 32 →
           Passes s ((t.settleOwn c.sid l 16).count l 0 (w.setWidth 32).toInt) c (.baradd a b))) ∧
       (decodeTrap {} [gA a] false t c = none →
         let phase := u.natAt (l + 12) 4 % 2
         (phase = n.toNat → Passes s u c (.waitph a n)) ∧
         (phase ≠ n.toNat → Parks s u c (.waitph a n) .barrierPhase (.phase l n)))) ∧
  (∀ (s : State) (l n : Nat) (d : Int), l + 16 ≤ Config.scratchLoc (locCore l) 0x40000 → isScratchLoc l = true →
     let k := s.core (locCore l)
     Tab.wf 0 k.scratch = true →
     let sum := (s.natAt (l + 8) 4 + n) % 2 ^ 32
     ∀ want : Nat, (want : Int) = (s.natAt l 4 : Int) + d → want < 2 ^ 32 → k.flips = [] → k.held.length < 4 →
       let t := s.count l n d
       if want ≠ 0 ∧ want ≤ sum then
         t.natAt (l + 8) 4 = sum - want ∧ t.natAt (l + 12) 4 = 1 - s.natAt (l + 12) 4 % 2 ∧ t.natAt l 4 = want
       else t.natAt (l + 8) 4 = sum ∧ t.natAt (l + 12) 4 = s.natAt (l + 12) 4 ∧ t.natAt l 4 = want)

/-! ## Vector instructions and special functions -/

/-- R235, R247, R248, R254 and R255: group A, lane by lane. Integer lanes are read by the type's signedness and wrap; floating
lanes are computed exactly and rounded once in the mode of R119, subnormals flushed under FTZ. That VMIN and VMAX of floating types
flush the operand that they choose is the model's reading (log entry 20), as is that they use no mode (log entry 58). A result goes
to its vector register or into the neighbour's link queue (R250).
R247: lanes. A lane-by-lane operation gives each lane its own result, and a vector is the list of its lanes. -/
def Obligations.VectorLaneResults : Prop :=
  (∀ (s t u : State) (c : Ctx) (d a b : RField) (T : Fmt) (x y : VWord), Issuing s t c →
     Sources t c [a, b] (linkPort d) u [x, y] →
     let us := [vD d, vA a, vB b]
     let z := c.v d
     let R (lat : Nat) (i : Instr) (v : VWord) : Prop := exec i s = .next ((u.vectorResult c lat d v).finish c (c.pc + 4))
     let I := laneInt T
     let W := wrapTo T.bits
     (T.isInt = true → decodeTrap {} us false t c = none →
       R 2 (.vadd d a b T) (lane2 T (fun p q => W (I p + I q)) x y) ∧ R 2 (.vsub d a b T) (lane2 T (fun p q => W (I p - I q)) x y) ∧
       R 4 (.vmul d a b T) (lane2 T (fun p q => W (I p * I q)) x y) ∧
       R 4 (.vmulh d a b T) (lane2 T (fun p q => W (I p * I q / (2 ^ T.bits : Nat))) x y) ∧
       R 4 (.vfma d a b T) (lane3 T (fun o p q => W (I o + I p * I q)) z x y) ∧
       R 4 (.vfms d a b T) (lane3 T (fun o p q => W (I o - I p * I q)) z x y) ∧
       R 4 (.vfnma d a b T) (lane3 T (fun o p q => W (-(I o + I p * I q))) z x y) ∧
       R 24 (.vdiv d a b T) (lane2 T (fun p q => if q % 2 ^ T.bits = 0 then 2 ^ T.bits - 1 else W ((I p).tdiv (I q))) x y) ∧
       R 2 (.vmin d a b T) (lane2 T (fun p q => if I p < I q then p else q) x y) ∧
       R 2 (.vmax d a b T) (lane2 T (fun p q => if I p < I q then q else p) x y)) ∧
     (T.isVFloat = true →
       let U := unpackFtz T c.ftz
       (decodeTrap { rnd := some false } us false t c = none → ∀ m, c.mode false = some m →
         let P := pack T m 0 c.ftz
         let add (vs : List FV) : FV := sumFV vs (m = 3)
         R 2 (.vadd d a b T) (lane2 T (fun p q => P (add [U p, U q])) x y) ∧
         R 2 (.vsub d a b T) (lane2 T (fun p q => P (add [U p, (U q).neg])) x y) ∧
         R 4 (.vmul d a b T) (lane2 T (fun p q => P ((U p).mul (U q))) x y) ∧
         R 4 (.vfma d a b T) (lane3 T (fun o p q => P (add [U o, (U p).mul (U q)])) z x y) ∧
         R 4 (.vfms d a b T) (lane3 T (fun o p q => P (add [U o, ((U p).mul (U q)).neg])) z x y) ∧
         R 4 (.vfnma d a b T) (lane3 T (fun o p q => P (add [U o, (U p).mul (U q)]).neg) z x y) ∧
         R 24 (.vdiv d a b T) (lane2 T (fun p q => divBits T m c.ftz (U p) (U q)) x y)) ∧
       (decodeTrap {} us false t c = none →
         let pick (max : Bool) (p q : Nat) : Nat :=
           if (U p).isNan || (U q).isNan then T.canonNan
           else flushBits T c.ftz (if ((U p).lt (U q) || ((U p).eq (U q) && (U p).isNeg && !(U q).isNeg)) != max then p else q)
         R 2 (.vmin d a b T) (lane2 T (pick false) x y) ∧ R 2 (.vmax d a b T) (lane2 T (pick true) x y)))) ∧
  (∀ (T : Fmt), T.isVec = true → ∀ (x y z : VWord) (f : Nat → Nat → Nat) (g : Nat → Nat) (h : Nat → Nat → Nat → Nat) (i : Nat),
     i < 128 / T.bits →
       let L (v : VWord) : Nat := lane v T.bits i
       L (lane2 T f x y) = f (L x) (L y) % 2 ^ T.bits ∧ L (lane1 T g x) = g (L x) % 2 ^ T.bits ∧
       L (lane3 T h x y z) = h (L x) (L y) (L z) % 2 ^ T.bits ∧ ofLanes T.bits (lanes x T.bits) = x)

/-- R255 to R257: the forms with one source: absolute value, negation, clamping, counts and reductions, lane by lane. That VABS, VNEG,
VSAT, VREDMIN and VREDMAX of floating types flush subnormals under FTZ is the model's reading of R235 (log entry 20), and that they use
no mode that of R238 (log entry 58). -/
def Obligations.VectorOneSourceResults : Prop :=
  ∀ (s t v : State) (c : Ctx) (d a : RField) (T U : Fmt) (x : VWord), Issuing s t c → Sources t c [a] (linkPort d) v [x] →
    let us := [vD d, vA a]
    let R (lat : Nat) (i : Instr) (w : VWord) : Prop := exec i s = .next ((v.vectorResult c lat d w).finish c (c.pc + 4))
    let I := laneInt T
    let W := wrapTo T.bits
    let flip (p : Nat) : Nat := if (unpack T p).isNan then T.canonNan else flushBits T c.ftz p ^^^ signBit T
    (decodeTrap {} us false t c = none →
      R 2 (.vmov d a T) x ∧ R 2 (.vclz d a T) (lane1 T (leadingZeros T.bits) x) ∧
      R 2 (.vpopc d a T) (lane1 T (onesCount T.bits) x) ∧
      (T.isInt = true →
        R 2 (.vabs d a T) (lane1 T (fun p => W ((I p).natAbs : Int)) x) ∧ R 2 (.vneg d a T) (lane1 T (fun p => W (-I p)) x) ∧
        R 2 (.vsat d a U T) (lane1 T (fun p => W (max U.intMin (min U.intMax (I p)))) x) ∧
        R 4 (.vredadd d a T) (vectorReduce T (fun p q => W (I p + I q)) x) ∧
        R 4 (.vredmin d a T) (vectorReduce T (fun p q => if I p < I q then p else q) x) ∧
        R 4 (.vredmax d a T) (vectorReduce T (fun p q => if I p < I q then q else p) x)) ∧
      (T.isVFloat = true →
        R 2 (.vabs d a T) (lane1 T (fun p => if (unpack T p).isNan then T.canonNan else flushBits T c.ftz p % signBit T) x) ∧
        R 2 (.vneg d a T) (lane1 T flip x) ∧ R 2 (.vsat d a U T) (lane1 T (laneSat T U c.ftz) x) ∧
        R 4 (.vredmin d a T) (vectorReduce T (laneMinMax T false c.ftz) x) ∧
        R 4 (.vredmax d a T) (vectorReduce T (laneMinMax T true c.ftz) x))) ∧
    (T.isVFloat = true → decodeTrap { rnd := some false } us false t c = none → ∀ m, c.mode false = some m →
      R 4 (.vredadd d a T) (vectorReduce T
        (fun p q => pack T m 0 c.ftz (sumFV [unpackFtz T c.ftz p, unpackFtz T c.ftz q] (m = 3))) x))

/-- R256: group B. Logic works on the whole vectors; shifts take the lane's count modulo its width; VSEL chooses byte by
byte; VSHUF interleaves the low halves; VPERM picks lanes, or 0 where bit 7 of the index is 1; VDOT4 and VDOT2 add products
to 32-bit lanes; VRNG is the counter generator of R237. -/
def Obligations.VectorMixedResults : Prop :=
  ∀ (s t u : State) (c : Ctx) (d a b : RField) (p : PField) (T : Fmt) (x y : VWord), Issuing s t c →
    Sources t c [a, b] (linkPort d) u [x, y] →
    let us := [vD d, vA a, vB b]
    let n := T.bits
    let R (lat : Nat) (i : Instr) (v : VWord) : Prop := exec i s = .next ((u.vectorResult c lat d v).finish c (c.pc + 4))
    let prod (w i : Nat) : Int := laneInt T (lane x w i) * laneInt T (lane y w i)
    (decodeTrap {} us false t c = none →
      R 2 (.vand d a b T) (x &&& y) ∧ R 2 (.vor d a b T) (x ||| y) ∧ R 2 (.vxor d a b T) (x ^^^ y) ∧
      R 2 (.vandn d a b T) (x &&& ~~~y) ∧
      R 2 (.vshl d a b T) (lane2 T (fun p q => p * 2 ^ (q % n)) x y) ∧
      R 2 (.vshr d a b T) (lane2 T (fun p q => p / 2 ^ (q % n)) x y) ∧
      R 2 (.vsar d a b T) (lane2 T (fun p q => wrapTo n (signedField n p / (2 ^ (q % n) : Nat))) x y) ∧
      R 2 (.vsel d a b p) (ofLanes 8 ((List.range 16).map fun j =>
        if (c.p p).getLsbD j then lane x 8 j else lane y 8 j)) ∧
      R 2 (.vshuf d a b T) (ofLanes n ((List.range (128 / n / 2)).flatMap fun i => [lane x n i, lane y n i])) ∧
      R 2 (.vperm d a b T) (lane1 T (fun k => if k / 128 % 2 = 1 then 0 else lane x n (k % (128 / n))) y) ∧
      R 4 (.vrng d a b) (lane2 .b32 counterG x y) ∧
      (n = 8 → R 4 (.vdot4 d a b T) (ofLanes 32 ((List.range 4).map fun i => wrapTo 32 ((lane (c.v d) 32 i : Int) +
        (prod 8 (4 * i) + prod 8 (4 * i + 1) + prod 8 (4 * i + 2) + prod 8 (4 * i + 3)))))) ∧
      (T.isInt = true → n = 16 → R 4 (.vdot2 d a b T) (ofLanes 32 ((List.range 4).map fun i => wrapTo 32
        ((lane (c.v d) 32 i : Int) + (prod 16 (2 * i) + prod 16 (2 * i + 1))))))) ∧
    (T.isVFloat = true → decodeTrap { rnd := some false } us false t c = none → ∀ m, c.mode false = some m →
      let prod (i : Nat) : FV := (unpackFtz T c.ftz (lane x 16 i)).mul (unpackFtz T c.ftz (lane y 16 i))
      R 4 (.vdot2 d a b T) (ofLanes 32 ((List.range 4).map fun i =>
        pack .f m 0 c.ftz (sumFV [unpackFtz .f c.ftz (lane (c.v d) 32 i), prod (2 * i), prod (2 * i + 1)] (m = 3)))))

/-- R236, R239, R258 to R260: VCVT converts the lanes that both formats have, with one draw for each under SR; VSPLAT, VEXT
and VINS move lanes between register files; VCMP writes every predicate bit of a lane. That the draws are made at issue is the
model's reading (log entry 34). -/
def Obligations.VectorMoveResults : Prop :=
  ∀ (s t u : State) (c : Ctx) (d a b : RField) (pd : PField) (k : VCond) (n : BitVec 6) (T X Y : Fmt) (x y : VWord), Issuing s t c →
    (Sources t c [a] (linkPort d) u [x] →
      let lanes := Nat.min (128 / Y.bits) (128 / X.bits)
      let R (v : State) (m : Nat) : Prop := exec (.vcvt d a X Y) s = .next ((v.vectorResult c 3 d (ofLanes X.bits
        ((List.range lanes).map fun i => convert X Y m (counterG ((c.regs.csr.srctr.toNat + i) % 2 ^ 32)
          (bitsOf c.regs.csr.fpmode 63 32)) c.ftz (lane x Y.bits i)))).finish c (c.pc + 4))
      (X.isFloat = false → Y.isFloat = false → decodeTrap {} [vD d, vA a] false t c = none → R u 0) ∧
      ((X.isFloat = true ∨ Y.isFloat = true) →
        decodeTrap { rnd := some (acceptsSr X Y) } [vD d, vA a] false t c = none → ∀ m, c.mode (acceptsSr X Y) = some m →
        R (if m = 4 then u.draw c lanes else u) m)) ∧
    (Sources t c [] (linkPort d) u [] → decodeTrap {} [vD d, gA a] false t c = none →
      exec (.vsplat d a T) s = .next ((u.vectorResult c 2 d (ofLanes T.bits (List.replicate (128 / T.bits) (c.g (gA a)).toNat))).finish
        c (c.pc + 4))) ∧
    (Sources t c [a] none u [x] → decodeTrap {} [gD d, vA a] false t c = none →
      let v := lane x T.bits n.toNat
      Passes s (u.results c 2 [.g (c.h.x (gD d)) (if T.isSigned then BitVec.ofInt 64 (signedField T.bits v) else BitVec.ofNat 64 v)])
        c (.vext d a n T)) ∧
    (decodeTrap {} [vD d, gA a] false t c = none →
      Lands s t c (.vins d a n T) 2 [.v d.toNat (ofLanes T.bits ((lanes (c.v d) T.bits).set n.toNat (c.g (gA a)).toNat))]) ∧
    (Sources t c [a, b] none u [x, y] → decodeTrap {} [vA a, vB b] false t c = none →
      ∃ w : PWord, Passes s (u.results c 2 [.p pd.toNat w]) c (.vcmp k pd a b T) ∧
        ∀ j, j < 16 → w.getLsbD j =
          laneCond T k c.ftz (lane x T.bits (8 * j / T.bits)) (lane y T.bits (8 * j / T.bits)))

/-- R227, R228, R234 and R235: rounding is exact. A pattern that is no NaN keeps its bits in every mode; a subnormal becomes
a zero of its sign under FTZ; a NaN becomes the canonical one. -/
def Obligations.RoundingIsExact : Prop :=
  ∀ (T : Fmt), T.isFloat = true → ∀ (x m k : Nat), x < 2 ^ T.bits → m ≤ 4 → k < 2 ^ 32 →
    ((unpack T x).isNan = false → pack T m k false (unpack T x) = x) ∧
    ((unpack T x).isNan = true → pack T m k false (unpack T x) = T.canonNan) ∧
    (isSubnormal T x = true → pack T m k true (unpack T x) = x / 2 ^ (T.bits - 1) * 2 ^ (T.bits - 1))

/-- R265 and R266: a special-function instruction sends its operand, function, type and mode to the cluster's unit and parks
until the result is there; its fault point is ISSUE + 40. -/
def Obligations.SpecialFunctionsComplete : Prop :=
  ∀ (s t : State) (c : Ctx) (d a : RField) (T : Fmt) (m : Nat), Issuing s t c →
    decodeTrap { rnd := some false } [gD d, gA a] false t c = none → c.mode false = some m →
    let kinds : List (Instr × Nat) := [(.sfexp2 d a T, 0), (.sflog2 d a T, 1), (.sfrcp d a T, 2), (.sfrsq d a T, 3), (.sfsqrt d a T, 4),
      (.sfsin d a T, 5), (.sfcos d a T, 6), (.sftanh d a T, 7), (.sfsigm d a T, 8), (.sferf d a T, 9)]
    ∀ i f, (i, f) ∈ kinds →
      let r : Request := .sfu f T (c.g (gA a)) (c.h.x (gD d)) m c.ftz
      let u := t.addFlight c (c.flight (c.vc + 40) (some (r, .sent 0)) none)
      let k := clusterOf c.sid.core
      let v := u.sfuOf k
      Parks s ((u.setSfu k { v with ring := v.ring ++ [(c.sid, c.seq)] }).post 0 (.sfuAccept k)) c i .sfu (.home c.seq)

/-- R267: the special cases of the functions, in every mode: any NaN operand, the zeros and infinities, and any operand below 0 of SFLOG2,
SFRSQ and SFSQRT. Under FTZ a subnormal operand counts as the zero of its sign (R266). -/
def Obligations.SpecialFunctionCases : Prop :=
  ∀ (T : Fmt), T.isVFloat = true → ∀ (m : Nat) (ftz : Bool), m ≤ 3 →
    let S (f x : Nat) : Nat := sfuValue f T m ftz x
    let neg := signBit T
    let one := T.bias * 2 ^ T.frac
    let inf := T.infBits
    (∀ f x, f ≤ 9 → x < 2 ^ T.bits → (unpack T x).isNan = true → S f x = T.canonNan) ∧
    (∀ x, 0 < x → x ≤ inf → (ftz = true → isSubnormal T x = false) →
      S 1 (neg + x) = T.canonNan ∧ S 3 (neg + x) = T.canonNan ∧ S 4 (neg + x) = T.canonNan) ∧
    (∀ f x, f ≤ 9 → x < 2 ^ T.bits → ftz = true → isSubnormal T x = true → S f x = S f (x / neg * neg)) ∧
    S 0 inf = inf ∧ S 0 (neg + inf) = 0 ∧ S 0 0 = one ∧ S 1 0 = neg + inf ∧ S 1 neg = neg + inf ∧ S 1 inf = inf ∧
    S 1 one = 0 ∧ S 2 0 = inf ∧ S 2 neg = neg + inf ∧ S 2 inf = 0 ∧ S 2 (neg + inf) = neg ∧
    S 3 0 = inf ∧ S 3 neg = neg + inf ∧ S 3 inf = 0 ∧ S 4 0 = 0 ∧ S 4 neg = neg ∧ S 4 inf = inf ∧
    S 5 0 = 0 ∧ S 5 neg = neg ∧ S 5 inf = T.canonNan ∧ S 5 (neg + inf) = T.canonNan ∧
    S 6 0 = one ∧ S 6 inf = T.canonNan ∧ S 6 (neg + inf) = T.canonNan ∧
    S 7 0 = 0 ∧ S 7 neg = neg ∧ S 7 inf = one ∧ S 7 (neg + inf) = neg + one ∧ S 8 0 = one - 2 ^ T.frac ∧ S 8 inf = one ∧
    S 8 (neg + inf) = 0 ∧ S 9 0 = 0 ∧ S 9 neg = neg ∧ S 9 inf = one ∧ S 9 (neg + inf) = neg + one

/-! ## The array, maps, work and the system -/

/-- R269 to R271, R290 and R291: MPREC sets a free or own bank's precision register to a valid image, owned by the strand,
and converts the bank where the accumulator format changes, flushing nothing by the model's choice (log entry 62); MRDP reads the
register, landing at ISSUE + 12.
R270, R294 and R295: MRDACC reads an element of an own bank whose commands have completed, converted to the named type
(landing at ISSUE + 12), and waits where not for those that entered the queue before it; MWRACC waits so too, and writes an element.
That the draw under SR is made at issue (log entry 34) and that FPMODE.FTZ governs the conversion (log entry 62) is the model's
reading. -/
def Obligations.PrecisionAndAccumulatorForms : Prop :=
  (∀ (s t : State) (c : Ctx) (a d : RField) (ta tb tc : BitVec 4) (k : BitVec 1), Issuing s t c →
     let core := t.core c.sid.core
     let old := core.prec k.toNat
     let free : Prop := precOwn old = true → precOstr old = c.sid.strand
     let conv (w : Word) (m : Core) (e : Nat) : Core := m.setAcc k.toNat e
       (BitVec.ofNat 64 (convert (accFmt (pcAcc w)) (accFmt (pcAcc old)) 0 0 false (m.accAt k.toNat e).toNat))
     let done (w : Word) : State :=
       let m := if pcAcc w = pcAcc old then core else (List.range 1024).foldl (conv w) core
       let m := m.setPrec k.toNat (putBits (putBits w 47 47 1) 46 44 c.sid.strand)
       t.setCore c.sid.core { m with releasing := m.releasing.filter fun b => b ≠ k.toNat }
     (t.clear c.sid = true → free →
       (decodeTrap {} [gA a] false t c = none →
         let w := c.g (gA a)
         precValid w = true → (pcAcc w = pcAcc old ∨ core.bankBusy k.toNat = false) → Passes s (done w) c (.mprecImage a k)) ∧
       (decodeTrap {} [] false t c = none →
         let w := shortPrec ta.toNat tb.toNat tc.toNat
         ta.toNat ≠ 15 → tb.toNat ≠ 15 → (tc.toNat = 7 ∨ tc.toNat = 10 ∨ tc.toNat = 11) → precValid w = true →
           (pcAcc w = pcAcc old ∨ core.bankBusy k.toNat = false) → Passes s (done w) c (.mprecShort tc ta tb k))) ∧
     (decodeTrap {} [gD d] false t c = none →
       Passes s ((t.addFlight c (c.flight (c.vc + 12) none none)).results c 12 [.g (c.h.x (gD d)) old]) c (.mrdp d k))) ∧
  (∀ (s t : State) (c : Ctx) (d a : RField) (ty : BitVec 4) (k : BitVec 1), Issuing s t c → (t.strand c.sid).deferred = [] →
     let core := t.core c.sid.core
     let p := core.prec k.toNat
     let acc := accFmt (pcAcc p)
     let i := (c.g (gA a)).toNat
     let raw := (core.accAt k.toNat i).toNat
     precOwn p = true → precOstr p = c.sid.strand → i < 1024 →
       (∀ rel T, mrdaccType ty = some T → decodeTrap { rnd := some (ty ≠ 3) } [gD d, gA a] false t c = none →
         (c.h.rnd = some 4 → mrdaccSr T acc = true) →
         (core.bankBusy k.toNat = true → (t.strand c.sid).resumed = false → (t.strand c.sid).park = none →
           ∃ u, exec (.mrdacc d a ty rel k) s = .next u ∧
             u = ((t.modStrand c.sid fun st => { st with slot := c.vc + t.rotation c.sid }).park c .barrierPhase
               (.bank k.toNat t.nextId)).ended c) ∧
         ((core.bankBusy k.toNat = false ∨ (t.strand c.sid).resumed = true) →
           let land (u : State) (x : Nat) : State :=
             let v := (u.addFlight c (c.flight (c.vc + 12) none none)).results c 12 [.g (c.h.x (gD d)) (BitVec.ofNat 64 x)]
             if rel then v.addDeferred c (.release k.toNat (c.vc + 12)) none else v
           (T = .b64 → Passes s (land t raw) c (.mrdacc d a ty rel k)) ∧
           (T ≠ .b64 → ∀ m, (if convRounds T acc then c.mode (mrdaccSr T acc) else some 0) = some m →
             Passes s (land (if m = 4 then t.draw c 1 else t)
               (convert T acc m (drawOf c.regs.csr.fpmode c.regs.csr.srctr 0) c.ftz (raw % 2 ^ acc.bits))) c (.mrdacc d a ty rel k)))) ∧
       (decodeTrap {} [gD d, gA a] false t c = none → core.bankBusy k.toNat = true → (t.strand c.sid).resumed = false →
         exec (.mwracc d a k) s = .next ((t.settleAct c (.again .barrierPhase (.bank k.toNat t.nextId))).ended c)) ∧
       (decodeTrap {} [gD d, gA a] false t c = none → t.clear c.sid = true →
         (core.bankBusy k.toNat = false ∨ (t.strand c.sid).resumed = true) →
         let v := (c.g (gD d)).toNat % 2 ^ acc.bits
         let w := if acc ≠ .s64 ∧ (unpack acc v).isNan = true then acc.canonNan else v
         Passes s (t.modCore c.sid.core fun m => m.setAcc k.toNat i (BitVec.ofNat 64 w)) c (.mwracc d a k)))

/-- R278, R283, R292 and R293: MMA, MMAS and MZERO by the bank's owner enter the command queue, with the precision register,
descriptor and addresses as captured at issue and, for MMA and MMAS, read locks on every chunk that they will read. -/
def Obligations.ArrayCommandsComplete : Prop :=
  ∀ (s t : State) (c : Ctx) (d a b : RField) (k : BitVec 1), Issuing s t c → t.clear c.sid = true →
    let core := t.core c.sid.core
    let owned : Prop := precOwn (core.prec k.toNat) = true ∧ precOstr (core.prec k.toNat) = c.sid.strand
    let cmd (zero clear : Bool) : ArrayCmd :=
      { zero := zero, clear := clear, bank := k.toNat, prec := core.prec k.toNat, dsc := if zero then 0 else c.g (gD d),
        pa := if zero then 0 else c.g (gA a), pb := if zero then 0 else c.g (gB b), step := 0, first := 0, owner := c.sid, gpc := c.gpc,
        hstart := if zero then none else startVc c, hseq := if zero then none else c.h.seq, skip := [], locks := [], id := t.nextId,
        waitCopy := none, handAt := 0, start := none, prev := 0, ends := 0, base := none }
    let queue (u : State) (a : ArrayCmd) : State :=
      { u with nextId := u.nextId + 1 }.modCore c.sid.core fun m => { m with array := m.array ++ [a] }
    owned → core.array.length < 4 →
      (decodeTrap {} [] false t c = none →
        Passes s ((queue (t.endRegion c.sid) (cmd true false)).post 0 (.mzeroApply c.sid.core)) c (.mzero k)) ∧
      (decodeTrap { start := true, seq := true } [gD d, gA a, gB b] false t c = none →
        mmaBad core c.sid.strand k.toNat (c.g (gD d)) (c.g (gA a)) (c.g (gB b)) = none → timingBad t c = none →
        core.lockEntries < 16 → (t.strand c.sid).regs.csr.mpx = 0 →
        ∀ i clear, (i, clear) ∈ [(Instr.mma d a b k, false), (.mmas d a b k, true)] →
          let x := cmd false clear
          let u := (t.noteStart c).endRegion c.sid
          let v := (queue u { x with locks := x.lockRanges c.sid.core 0 }).setMpx c.sid 0
          Passes s (v.post (match startVc c with | some n => v.ccTo c.sid n | none => 0) (.arrayCommandStart c.sid.core)) c i)

/-- R315, R317 and R319: a map key operation is a request to its home sequencer with the operands as they stand at issue and
its fault point at ISSUE + 200.
R320 to R328: MAPNEW with a well-formed block, MAPSCAN, MAPSTL, MAPCLR and MAPINFO park their strand and start their
first step; MAPGETN with a place in the mailbox registers its request. MAPNEW's block and MAPGETN's request are read at issue, once what
the strand must perform before that read has been performed (R42, R348; log entry 12). -/
def Obligations.MapFormsComplete : Prop :=
  (∀ (s t : State) (c : Ctx) (d : EField) (a b : RField) (pd : PField) (qn : QField), Issuing s t c → t.clear c.sid = true →
     decodeTrap policyHints [gPair d, gA a, gB b] false t c = none →
     let q := c.q qn
     let n := c.h.x (gPair d)
     let k := c.h.x (gB b)
     let handle := c.g (gA a)
     let R := c.regs.readG
     polOk q = true → polSpace q = 0 → handle.toNat % 128 = 0 →
       t.resolve c.sid handle q Need.map ≠ .blocked →
       ∀ i op, (i, op) ∈ [(Instr.mapprb d a b pd qn, MapOp.prb), (.mapins d a b pd qn, .ins), (.mapups d a b pd qn, .ups),
         (.mapdel d a b pd qn, .del), (.mapadd d a b pd qn, .add), (.mapcas d a b pd qn, .cas)] →
         let cmd : MapCmd :=
           { op := op, handle := handle, key := R (k + 1) ++ R k, val := R (n + 2) ++ R n, new := R (n + 1), d := n, b := k,
             p := pd.toNat, q := q }
         let f := c.flight (c.vc + 200) (some (.mapKey cmd, .unsent)) none
         t.laterVc c f = none → Passes s ((t.addFlight c f).performRequest c.sid c.seq (.mapKey cmd)) c i) ∧
  (∀ (s t : State) (c : Ctx) (d a b : RField) (qn : QField), Issuing s t c →
     let q := c.q qn
     let h := c.g (gA a)
     (decodeTrap policyHints [gD d, gA a, gB b] false t c = none →
       Parks s (t.post 0 (.mapscanSliceStep c.sid)) c (.mapscan d a b qn) .serial (.scan h (c.g (gB b)) (c.g (gD d)) q)) ∧
     (decodeTrap policyHints [gA a] false t c = none →
       Parks s (t.post 0 (.settleStep c.sid)) c (.mapstl a qn) .serial (.settle h 0 q) ∧
       Parks s (t.post 0 (.mapclrShardStep c.sid)) c (.mapclr a qn) .serial (.clear h q)) ∧
     (decodeTrap policyHints [gD d, gA a] false t c = none → ∀ m, t.mapCheck c.sid h q = .inl m →
       Parks s (t.post 0 (.mapinfoAnswer c.sid)) c (.mapinfo d a qn) .barrierPhase (.info h (c.h.x (gD d)) q)) ∧
     ((t.strand c.sid).nextWaits false = false →
     decodeTrap policyHints [gA a, gB b] false t c = none → polOk q = true → h.toNat % 128 = 0 → ∀ u n l leaf,
       t.readRecord c.sid (c.g (gB b)) 32 32 = (u, .inl n) → u.resolve c.sid h q Need.write = .at_ l leaf →
       mapParmOk (BitVec.ofNat 256 n) = true →
       Parks s (u.post 0 (.mapnewComplete c.sid)) c (.mapnew a b qn) .serial (.mapnew h (BitVec.ofNat 256 n) q)) ∧
     ((t.strand c.sid).nextWaits false = false →
     decodeTrap { policyHints with start := true } [gD d, gA a, gB b] false t c = none → ∀ u v m n,
       let r : Rec768 := BitVec.ofNat 768 n
       let obj := c.g (gD d)
       let cmd : CopyCmd :=
         { kind := .mapgetn, record := r, obj := obj, third := h, q := q, hstart := startVc c, hseq := none, follow := none }
       t.mapCheck c.sid h q false = .inl m → t.readRecord c.sid (c.g (gB b)) 32 32 = (u, .inl n) → getnKeys r % 8 = 0 →
       getnOut r % 8 = 0 → obj.toNat % 16 = 0 → inWindow obj = true → getnBad r m.p obj = false → u.clear c.sid = true →
       (c.regs.csr.mpx ≠ 0 → u.performGetn c.sid c.seq c.gpc c.vc cmd = .done v → Passes s v c (.mapgetn d a b qn)) ∧
       (c.regs.csr.mpx = 0 → timingBad u c = none → (u.noteStart c).performGetn c.sid c.seq c.gpc c.vc cmd = .done v →
         Passes s v c (.mapgetn d a b qn))))

/-- R89 to R93: TSPAWN and LAUNCH of a record that passes its checks, and TYIELD. A full deque or dispatcher gives pd = 0 and
nothing else; else the record is accepted and pd = 1, landing at ISSUE + 1; TYIELD then ends the task. That a TSPAWN into a counter
under cancellation succeeds, with a record that is marked as cancelled, is the model's reading (log entry 24). The record is read at
issue, once what the strand must perform before that read has been performed (R42, R348; log entry 12). -/
def Obligations.WorkFormsComplete : Prop :=
  ∀ (s t : State) (c : Ctx) (pd : PField) (a : RField), Issuing s t c → decodeTrap {} [gA a] false t c = none →
    let land (u : State) (v : PWord) : State := u.modStrand c.sid fun st => st.land (c.vc + 1) c.seq [.p pd.toNat v]
    ((t.strand c.sid).nextWaits false = true →
      ∀ i ∈ [Instr.tspawn pd a, .launch pd a], exec i s = .next ((t.settleAct c (.again .serial (.order false))).ended c)) ∧
    (∀ u n, (t.strand c.sid).nextWaits false = false → t.readRecord c.sid (c.g (gA a)) 64 64 = (u, .inl n) → u.clear c.sid = true →
      let r : Rec512 := BitVec.ofNat 512 n
      let v := u.endRegion c.sid
      let j := v.jobOf c.sid
      (u.spawnCheck c.sid r = none →
        let k := v.counter j (taskLaunchId r)
        if 256 ≤ ((v.core c.sid.core).deque (taskHi r)).length then Passes s (land v 0) c (.tspawn pd a)
        else Passes s ((land (v.setCounter j (taskLaunchId r) { k with pend := k.pend + 1 }) 1).pushRecord c.sid.core
          (if k.cancel.isSome then cancelMark r else r) (taskHi r) false) c (.tspawn pd a)) ∧
      (u.launchCheck (u.jobOf c.sid) r = none → v.launchCheck j r = none →
        if 4096 ≤ (v.job j).undone then Passes s (land v 0) c (.launch pd a)
        else
          let w := (land v 1).acceptLaunch j r
          if (w.counter j (recCnt r)).cancel.isSome then Passes s w c (.launch pd a)
          else Passes s ((w.modDisp fun d => { d with fromTasks := d.fromTasks ++ [(j, r)] }).post 0 (.dispatcherTake none)) c
            (.launch pd a))) ∧
    ((t.strand c.sid).gang = none → (t.strand c.sid).run = .running → (c.g (gA a)).toNat % 4 = 0 → t.clear c.sid = true →
      let v := t.endRegion c.sid
      let k := (v.strand c.sid).regs.csr
      let r := taskRecord (c.g (gA a)).toNat k.taskArg.toNat k.unitX.toNat k.unitY.toNat k.unitZ.toNat k.launchId.toNat false
      if 256 ≤ (v.core c.sid.core).normal.length then Passes s (land v 0) c (.tyield pd a)
      else (v.counter (v.jobOf c.sid) k.launchId.toNat).cancel = none → v.opsOf c.sid = [] →
        (∀ g ∈ v.gangs, c.sid.core ∉ g.2.cores) →
        ∃ u, exec (.tyield pd a) s = .next u ∧ (u.strand c.sid).run = .idle ∧
          (u.core c.sid.core).normal.getLast? = some (withLineage r (v.strand c.sid).lineage))

/-- R90, R94 to R97: CNTRD asks a counter's home, CNTWAIT goes on at ISSUE + 96 where the counter is DONE and parks where
not, CANCEL ends the region and cancels the counter and all below it, and REPART by strand 0 of a quiet core sets its
partition.
R73, R143 and R158: TEND ends the task: its unit will retire, nothing of the task is left, and the strand is idle, or
waits for its gang. A start vc that lies ahead is reason 4 of TIMING. -/
def Obligations.CounterFormsAndTaskEnd : Prop :=
  (∀ (s t : State) (c : Ctx) (d a : RField), Issuing s t c →
     let n := (c.g (gA a)).toNat
     let j := t.jobOf c.sid
     let u := t.endRegion c.sid
     (0 < n → n ≤ (t.job j).nctr → (t.job j).nctr < 2 ^ 32 →
       (decodeTrap {} [gD d, gA a] false t c = none →
         Passes s ((t.addFlight c (c.flight (c.vc + 96) (some (.counter n (c.h.x (gD d)), .sent 0)) none)).post 0
           (.homeSliceRequest c.sid c.seq none)) c (.cntrd d a)) ∧
       (decodeTrap {} [gA a] false t c = none →
         let w := t.breakAt c.sid c.seq
         ((w.counter (w.jobOf c.sid) n).state = .done →
           exec (.cntwait a) s = .next (((w.advance c (c.pc + 4)).modStrand c.sid fun st =>
             { st with slot := Nat.max st.slot (c.vc + 96) }).ended c)) ∧
         ((w.counter (w.jobOf c.sid) n).state ≠ .done → Parks s w c (.cntwait a) .barrierPhase (.counter n)) ∧
         (t.clear c.sid = true →
           Passes s (u.performCancel j n false) c (.cancelDrain a) ∧ Passes s (u.performCancel j n true) c (.cancelKill a)))) ∧
     (decodeTrap {} [] true t c = none → c.sid.strand = 0 → t.coreQuiet c.sid = true → t.clear c.sid = true →
       ∀ p : Part, ∃ v, Passes s v c (.repart p) ∧ (v.core c.sid.core).part = p ∧
         ∀ r, (r < 32 → (v.strand c.sid).regs.readG r = (t.strand c.sid).regs.readG r) ∧
           (32 ≤ r → (v.strand c.sid).regs.readG r = 0))) ∧
  (∀ (s t : State) (c : Ctx), Issuing s t c → decodeTrap {} [] false t c = none →
     let me := t.strand c.sid
     ((∀ e ∈ me.starts, e.1 ≤ c.vc) → t.clear c.sid = true → ∃ u, exec .tend s = .next u ∧
       u = ((t.retire c.sid .unit me.lineage).finishTask c.sid).ended c ∧ (u.strand c.sid).pending = [] ∧
       (u.strand c.sid).park = none ∧ (me.gang = none → (u.strand c.sid).run = .idle)) ∧
     (∀ n g k, me.starts = [(n, g, k)] → c.vc < n → exec .tend s = .next (t.faulted c ⟨.timing, 4, g⟩)))

/-- R357, R358, R386, R390 to R392, R395, R418: TRAP is taken with EPC at the next word; BRK is a trap, or with BRKEN a stop
behind it; ERET goes to EPC and restores the mode; RDTIME and RDPERF read the time unit and a counter at ISSUE + 8. -/
def Obligations.SystemFormsComplete : Prop :=
  ∀ (s t : State) (c : Ctx) (d a : RField) (n : BitVec 12), Issuing s t c →
    let me := t.strand c.sid
    (decodeTrap {} [] false t c = none →
      exec (.trap n) s = .next (t.faulted { c with gpc := c.pc + 4 } ⟨.trapi, n.setWidth 64, 0⟩) ∧
      (me.brken = false → exec (.brk n) s = .next (t.faulted c ⟨.brk, n.setWidth 64, 0⟩)) ∧
      (me.brken = true → Passes s (t.modStrand c.sid fun st =>
        { st with stopAsked := true, brkAt := some c.seq, stepping := false, dbgCode := 0x14 }) c (.brk n)) ∧
      (c.regs.csr.status.inh = false → exec .eret s = .next (t.faulted c ⟨.illegal, 0xB8000001, 0⟩)) ∧
      (c.regs.csr.status.inh = true →
        let e := c.regs.csr.epc
        (e.toNat % 4 ≠ 0 → exec .eret s = .next (t.faulted c ⟨.misalign, e, 0⟩)) ∧
        (e.toNat % 4 = 0 → t.clear c.sid = true →
          exec .eret s = .next ((t.leave c.sid).finish c e)))) ∧
    (decodeTrap {} [gD d] false t c = none →
      Lands s t c (.rdtime d) 8 [.g (c.h.x (gD d)) (BitVec.ofNat 64 t.clock.ns)]) ∧
    (decodeTrap {} [gD d, gA a] false t c = none →
      let k := (c.g (gA a)).toNat
      let R (v : Word) : Prop := Lands s t c (.rdperf d a) 8 [.g (c.h.x (gD d)) v]
      (k < 0x40 → R (Tab.get 0 (t.core c.sid.core).delays k)) ∧ (k = 0x40 → R (BitVec.ofNat 64 me.issued)) ∧
      (k = 0x41 → R (BitVec.ofNat 64 me.hints)) ∧ (k = 0x42 → R (BitVec.ofNat 64 me.parkedCc)) ∧
      (k = 0x43 → R (BitVec.ofNat 64 me.traps)) ∧ (k = 0x44 → R (BitVec.ofNat 64 t.clock.cc)) ∧
      (0x44 < k → exec (.rdperf d a) s = .next (t.faulted c ⟨.operand, 8, 0⟩)))

/-- R372, R393, R394, R396 and R417: QUIESCE stops, resumes or delivers PREEMPT to another job; MIGRATE parks until the move
is complete; TLBINV removes the entries of its range at once and waits for what still uses them. -/
def Obligations.SupervisorFormsComplete : Prop :=
  ∀ (s t : State) (c : Ctx) (a b : RField), Issuing s t c → t.clear c.sid = true →
    let x := c.g (gA a)
    let y := c.g (gB b)
    let u := t.endRegion c.sid
    (decodeTrap {} [gA a] true t c = none → t.quiesceBad c.sid x = none →
      let j := x.toNat % 2 ^ 32
      let mode := x.toNat / 2 ^ 32
      (mode = 0 → ∃ v, Parks s v c (.quiesce a) .barrierPhase (.quiesce j) ∧ (v.job j).run ≠ .running ∧
        ((t.job j).run = .running → (v.job j).run = .stopping ∧ (v.job j).markers = u.stopEngines j)) ∧
      (mode = 1 → ∃ v, Parks s v c (.quiesce a) .barrierPhase (.ready 0 [] none) ∧ (v.job j).run = .running) ∧
      (mode = 2 → Passes s (u.deliver j) c (.quiesce a))) ∧
    (decodeTrap {} [gA a, gB b] true t c = none → t.migrateBad x y = none →
      ∃ v, Parks s v c (.migrate a b) .barrierPhase (.migrate x.toNat y.toNat) ∧
        ∃ e ∈ v.agenda, e.what = .migrationComplete x.toNat y.toNat) ∧
    (decodeTrap { scope := true } [gA a, gB b] true t c = none →
      (y = 0 → Passes s t c (.tlbinv a b)) ∧
      (y ≠ 0 → (2 ^ 57 ≤ x.toNat ∨ 2 ^ 57 < x.toNat + y.toNat) → exec (.tlbinv a b) s = .next (t.faulted c ⟨.operand, x, 0⟩)) ∧
      (y ≠ 0 → x.toNat < 2 ^ 57 → x.toNat + y.toNat ≤ 2 ^ 57 → (t.strand c.sid).storeBuf = [] →
        let scope := c.h.scope.getD 4
        ∃ v on, Parks s v c (.tlbinv a b) .serial on ∧
          ∀ e, e ∈ v.mem.tlb ↔ e ∈ t.mem.tlb ∧
            ¬((if scope < 3 then e.cluster = some (clusterOf c.sid.core) else if scope = 3 then e.die = coreDie c.sid.core else True) ∧
              e.va < x.toNat + y.toNat ∧ x.toNat < e.va + e.size)))

/-- R133: an instruction with an effect beyond its strand's registers, issued before an earlier instruction has passed its
fault point: the effect waits, as captured at issue, behind those before it; a store's address is translated at issue, where it
counts (R411), and a walk that it needs may make the next vc late (R190; log entry 52). Stores, STN, streams, messages, precision registers,
cancellation and barrier objects; a full/empty operation does not issue until then (R194, R433).
The same of requests for a register result (atomics and map key operations, whose landing stays at ISSUE + 160 and + 200, and which
issue in a later slot where they could not be answered by then: log entry 52; that a deferred atomic neither translates nor counts
at issue is log entry 59), of copies, MAPGETN and array commands, of MPREC's short form and MWRACC, of TSPAWN and LAUNCH, and of the instructions after which the
strand issues nothing until their effect has been performed: TYIELD, QUIESCE, MIGRATE, TLBINV, REPART, ERET and TEND. -/
def Obligations.EffectsWaitForEarlierFaults : Prop :=
  (∀ (s t : State) (c : Ctx) (d a b : RField) (qn : QField) (o : BitVec 11) (k : BitVec 1), Issuing s t c →
     t.clear c.sid = false →
     let x := c.g (gA a)
     let y := c.g (gB b)
     let q := c.q qn
     let st (w : Nat) (i : Instr) (us : List Use) (v : VWord) : Prop :=
       let ea := x + o.signExtend 64 * BitVec.ofNat 64 w
       decodeTrap policyHints us false t c = none → polOk q = true → ea.toNat % w = 0 →
         ∀ l leaf, t.resolve c.sid ea q { Need.write with dev := w = 8 } = .at_ l leaf →
           Defers s ((t.countWalk c.sid ea q).walkLate c.sid ea l (c.vc + 1)) c i (.store ea (some (l, leaf)) w v q)
     let v := (c.g (gD d)).setWidth 128
     st 1 (.stB8 d a qn o) [gD d, gA a] v ∧ st 2 (.stB16 d a qn o) [gD d, gA a] v ∧ st 4 (.stB32 d a qn o) [gD d, gA a] v ∧
     st 8 (.stB64 d a qn o) [gD d, gA a] v ∧ st 16 (.stv d a qn o) [vD d, gA a] (c.v d) ∧
     (decodeTrap policyHints [gD d, gA a] false t c = none → polOk q = true → ∀ l leaf, t.resolve c.sid x q Need.write = .at_ l leaf →
       let u := (t.countWalk c.sid x q).walkLate c.sid x l (c.vc + 1)
       let n : BitVec 4 := (c.g (gD d)).setWidth 4
       Defers s u c (.stnLo d a qn) (.stn x (some (l, leaf)) false n q) ∧
       Defers s u c (.stnHi d a qn) (.stn x (some (l, leaf)) true n q)) ∧
     (∀ i ∈ [Instr.ldf d a qn o, .ldfp d a qn o], decodeTrap loadHints [gD d, gA a] false t c = none →
       exec i s = .next ((t.settleAct c (.again .fullEmpty .again)).ended c)) ∧
     (decodeTrap policyHints [gD d, gA a] false t c = none →
       exec (.stf d a qn o) s = .next ((t.settleAct c (.again .fullEmpty .again)).ended c)) ∧
     (∀ i ∈ [Instr.femarkE a qn, .femarkF a qn], decodeTrap policyHints [gA a] false t c = none →
       exec i s = .next ((t.settleAct c (.again .fullEmpty .again)).ended c)) ∧
     (decodeTrap {} [vA a] false t c = none → Defers s t c (.ssend a) (.ssend (c.v a))) ∧
     (decodeTrap {} [] false t c = none → Defers s t c .sclose .sclose) ∧
     (decodeTrap {} [gA a] false t c = none →
       Defers s t c (.mprecImage a k) (.mprec k.toNat false x) ∧
       (x.toNat < 8192 → coreIdOk x.toNat = true → x.toNat ∈ (t.job (t.jobOf c.sid)).cores → Defers s t c (.sopen a) (.sopen x)) ∧
       (0 < x.toNat → x.toNat ≤ (t.job (t.jobOf c.sid)).nctr → x.toNat < 2 ^ 32 →
         Defers s t c (.cancelDrain a) (.cancel false x.toNat) ∧ Defers s t c (.cancelKill a) (.cancel true x.toNat))) ∧
     (decodeTrap {} [gA a, gB b] false t c = none →
       (x.toNat < 8192 → coreIdOk x.toNat = true → x.toNat ∈ (t.job (t.jobOf c.sid)).cores →
         Defers s t c (.msgsend a b) (.msgsend x y)) ∧
       (x.toNat % 16 = 0 → inWindow x = true → Defers s t c (.baradd a b) (.baradd x y) ∧
         (bitsOf y 47 45 = 0 → (bitOf y 63 = true → coreIdOk (bitsOf y 44 32) = true) → Defers s t c (.barinit a b) (.barinit x y))))) ∧
  (∀ (s t : State) (c : Ctx) (d a b : RField) (e : EField) (pd : PField) (qn : QField) (k : BitVec 1) (z : Bool), Issuing s t c →
     t.clear c.sid = false →
     let x := c.g (gA a)
     let y := c.g (gB b)
     let w := c.g (gD d)
     let q := c.q qn
     let later (u : State) (i : Instr) (lat : Nat) (r : Request) : Prop :=
       let f := c.flight (c.vc + lat) (some (r, .unsent)) none
       (u.laterVc c f = none → Passes s ((u.addFlight c f).addDeferred c (.request r) none) c i) ∧
       ∀ v, u.laterVc c f = some v → exec i s = .next ((u.settleAct c (.later v)).ended c)
     let stops (i : Instr) (eff : Effect) : Prop :=
       Parks s ((t.addFlight c (c.flight c.vc none none)).addDeferred c eff none) c i .serial .effect
     let n := if z then 8 else 4
     (polOk q = true → x.toNat % n = 0 →
       let A (i : Instr) (op : AOp) (mode : Nat) : Prop := later t i 160 (.atomic op n x none y w (c.h.x (gD d)) mode q)
       (decodeTrap policyHints [gD d, gA a, gB b] false t c = none → ∀ i op, (i, op) ∈
         [(Instr.aadd d a b qn z, AOp.add), (.aand d a b qn z, .and), (.aor d a b qn z, .or), (.axor d a b qn z, .xor),
           (.amin d a b qn z, .min), (.amax d a b qn z, .max), (.aminz d a b qn z, .minz), (.amaxz d a b qn z, .maxz),
           (.axchg d a b qn z, .xchg), (.acas d a b qn z, .cas)] → A i op 0) ∧
       (decodeTrap { policyHints with rnd := some false } [gD d, gA a, gB b] false t c = none → ∀ m, c.mode false = some m →
         A (.afadd d a b qn z) .fadd (m + (if c.ftz then 8 else 0)))) ∧
     (decodeTrap policyHints [gPair e, gA a, gB b] false t c = none → polOk q = true → polSpace q = 0 → x.toNat % 128 = 0 →
       let g := c.h.x (gPair e)
       let j := c.h.x (gB b)
       let R := c.regs.readG
       ∀ i op, (i, op) ∈ [(Instr.mapprb e a b pd qn, MapOp.prb), (.mapins e a b pd qn, .ins), (.mapups e a b pd qn, .ups),
         (.mapdel e a b pd qn, .del), (.mapadd e a b pd qn, .add), (.mapcas e a b pd qn, .cas)] →
         later t i 200 (.mapKey
           { op := op, handle := x, key := R (j + 1) ++ R j, val := R (g + 2) ++ R g, new := R (g + 1), d := g, b := j, p := pd.toNat,
             q := q })) ∧
     ((t.strand c.sid).nextWaits false = false → ∀ u v m, t.readRecord c.sid x 32 96 = (u, .inl m) →
       let r : Rec768 := BitVec.ofNat 768 m
       layoutBad r = none → y.toNat % 16 = 0 → inWindow y = true → v.clear c.sid = false → timingBad v c = none →
       let C (i : Instr) (att : Attach) (us : List Use) (kind : CopyKind) (third : Word) (f : Option ArrayCmd) : Prop :=
         decodeTrap att us false t c = none → Defers s (v.noteStart c) c i (.copy
           { kind := kind, record := r, obj := y, third := third, q := 0, hstart := startVc c, hseq := c.h.seq, follow := f })
       (v = u → C (.cpy a b) { start := true } [gA a, gB b] .cpy 0 none ∧ C (.cpym a b) { start := true } [gA a, gB b] .cpym 0 none) ∧
       (∀ o f, layMeshd r = 0 → u.readRecord c.sid w 32 32 = (v, .inl o) → followCmd v c o r w = .inl f →
         C (.cpyx d a b) { start := true, seq := true } [gD d, gA a, gB b] .cpyx w (some f)) ∧
       (v = u → layMeshd r = 0 → (layFmt r = 14 → layRank r ≠ 1) → inWindow w = true → w.toNat % 4 = 0 →
         w.toNat + 4 * layWin r (layRank r - 1) ≤ Config.scratchBase + 0x40000 →
         C (.gath d a b) { start := true } [gD d, gA a, gB b] .gath w none ∧
         C (.scat d a b) { start := true } [gD d, gA a, gB b] .scat w none)) ∧
     ((t.strand c.sid).nextWaits false = false → decodeTrap { policyHints with start := true } [gD d, gA a, gB b] false t c = none →
       ∀ u m o, t.mapCheck c.sid x q false = .inl m → t.readRecord c.sid y 32 32 = (u, .inl o) →
       let r : Rec768 := BitVec.ofNat 768 o
       getnKeys r % 8 = 0 → getnOut r % 8 = 0 → w.toNat % 16 = 0 → inWindow w = true → getnBad r m.p w = false →
       u.clear c.sid = false → (c.regs.csr.mpx = 0 → timingBad u c = none) →
       Defers s (if c.regs.csr.mpx = 0 then u.noteStart c else u) c (.mapgetn d a b qn) (.copy
         { kind := .mapgetn, record := r, obj := w, third := x, q := q, hstart := startVc c, hseq := none, follow := none })) ∧
     (let core := t.core c.sid.core
       let cmd (zero clear : Bool) : ArrayCmd :=
         { zero := zero, clear := clear, bank := k.toNat, prec := core.prec k.toNat, dsc := if zero then 0 else w,
           pa := if zero then 0 else x, pb := if zero then 0 else y, step := 0, first := 0, owner := c.sid, gpc := c.gpc,
           hstart := if zero then none else startVc c, hseq := if zero then none else c.h.seq, skip := [], locks := [], id := 0,
           waitCopy := none, handAt := 0, start := none, prev := 0, ends := 0, base := none }
       (decodeTrap {} [] false t c = none → ownerBad core c.sid.strand k.toNat = none →
         Defers s t c (.mzero k) (.array (cmd true false))) ∧
       (decodeTrap { start := true, seq := true } [gD d, gA a, gB b] false t c = none →
         mmaBad core c.sid.strand k.toNat w x y = none → (c.regs.csr.mpx = 0 → timingBad t c = none) →
         let u := if c.regs.csr.mpx = 0 then t.noteStart c else t
         Defers s u c (.mma d a b k) (.array (cmd false false)) ∧ Defers s u c (.mmas d a b k) (.array (cmd false true)))) ∧
     (decodeTrap {} [] false t c = none → ∀ tc ta tb : BitVec 4,
       Defers s t c (.mprecShort tc ta tb k) (.mprec k.toNat true (shortPrec ta.toNat tb.toNat tc.toNat))) ∧
     (decodeTrap {} [gD d, gA a] false t c = none → elementBad ((t.ahead c.sid).core c.sid.core) c.sid.strand k.toNat false x = none →
       ((t.core c.sid.core).bankBusy k.toNat = false ∨ (t.strand c.sid).resumed = true) →
       Defers s t c (.mwracc d a k) (.mwracc k.toNat x w)) ∧
     (decodeTrap {} [gA a] false t c = none →
       (∀ u m, (t.strand c.sid).nextWaits false = false → t.readRecord c.sid x 64 64 = (u, .inl m) → u.clear c.sid = false →
         let r : Rec512 := BitVec.ofNat 512 m
         (u.spawnCheck c.sid r = none → Defers s u c (.tspawn pd a) (.tspawn r pd.toNat)) ∧
         (u.launchCheck (u.jobOf c.sid) r = none → Defers s u c (.launch pd a) (.launch r pd.toNat))) ∧
       ((t.strand c.sid).gang = none → x.toNat % 4 = 0 → stops (.tyield pd a) (.tyield x pd.toNat))) ∧
     (decodeTrap {} [gA a] true t c = none → t.quiesceBad c.sid x = none →
       let j := x.toNat % 2 ^ 32
       let mode := x.toNat / 2 ^ 32
       (mode = 2 → Defers s t c (.quiesce a) (.quiesce j 2)) ∧ (mode ≠ 2 → stops (.quiesce a) (.quiesce j mode))) ∧
     (decodeTrap {} [gA a, gB b] true t c = none → t.migrateBad x y = none → stops (.migrate a b) (.migrate x.toNat y.toNat)) ∧
     (decodeTrap { scope := true } [gA a, gB b] true t c = none → y ≠ 0 → x.toNat < 2 ^ 57 → x.toNat + y.toNat ≤ 2 ^ 57 →
       stops (.tlbinv a b) (.tlbinv x y (c.h.scope.getD 4))) ∧
     (decodeTrap {} [] true t c = none → c.sid.strand = 0 → t.coreQuiet c.sid = true → ∀ p : Part, stops (.repart p) (.repart p)) ∧
     (decodeTrap {} [] false t c = none →
       (c.regs.csr.status.inh = true → c.regs.csr.epc.toNat % 4 = 0 → stops .eret .eret) ∧
       ((∀ m ∈ (t.strand c.sid).starts, m.1 ≤ c.vc) → stops .tend .tend)))

/-! ## The steps of queues, the dispatcher and idle strands -/

/-- R49, R60 to R63, R68 and R72: a record written to an enabled queue with room is checked; one that passes is accepted, counted
and queued, one that fails shows in QSTAT and changes nothing else. A queue's configuration can be written while it is off, and
it is enabled only once firmware has booted (R431). Log entry 38: 8, less urgent than every PRIO, marks a queued record with no
work to take, a counter's or a cancelled launch's; log entry 51: a counter record's tasks come last in the order of R65, its
priority being 7 and its stamp that of its acceptance. Both are the model's choices.
R49: the checks of a launch record, one by one, with reason and field of the first that fails: a reserved bit (3), more
than 2^24 units (1), extents whose product is not the count (2), an entry that is no word (4), a missing or doubly named
counter (4), and a gang's rectangle (4). -/
def Obligations.HostQueueSteps : Prop :=
  (∀ (s : State) (q : Nat) (r : Rec512) (w : Word),
     let v := s.queue q
     let j := v.job.toNat
     let refused (reason field : Nat) : State := s.setQueue q
       { v with refused := v.refused + 1, reason := BitVec.ofNat 8 reason, field := BitVec.ofNat 10 field }
     let queued (u : State) (p : Nat) : State := (u.setQueue q { u.queue q with
       accepted := (u.queue q).accepted + 1, waiting := (u.queue q).waiting ++ [(r, p)] }).post 0 (.dispatcherTake (some q))
     (∀ i ∈ [Instr.launchRecord q, Instr.counterRecord q],
       exec (i false r) s = .next (refused 9 0) ∧ (v.en = false → exec (i true r) s = .next (refused 8 0)) ∧
       (v.en = true → Tab.find? s.jobs j = none → exec (i true r) s = .next (refused 10 0)) ∧
       (v.en = true → Tab.find? s.jobs j ≠ none → 64 ≤ v.waiting.length → exec (i true r) s = .next (refused 7 0))) ∧
     (v.en = true → Tab.find? s.jobs j ≠ none → v.waiting.length < 64 →
       (recCnt r ≠ 0 →
         (∀ b, s.launchCheck j r = some b → exec (.launchRecord q true r) s = .next (refused b.1 b.2)) ∧
         (s.launchCheck j r = none →
           let u := s.acceptLaunch j r
           exec (.launchRecord q true r) s = .next
             (queued u (if (u.counter j (recCnt r)).cancel.isSome then 8 else Nat.max v.prio (recPrio r))))) ∧
       (recCnt r = 0 →
         (∀ b, s.counterCheck j r = some b → exec (.counterRecord q true r) s = .next (refused b.1 b.2)) ∧
         (s.counterCheck j r = none → exec (.counterRecord q true r) s = .next (queued (s.acceptCounter j r) 8) ∧
           (s.acceptCounter j r).counter j (crNum r) =
             { canc := false, state := .active, level := crLevel r, pred := 0, pend := crExpect r, succ := [crSucc r 0, crSucc r 1],
               parent := crParent r, cancel := none, prio := 7, stamp := s.nextId }))) ∧
     (v.en = true → exec (.qcfgWrite q w) s = .next (s.setQueue q { v with en := bitOf w 31 && s.booted })) ∧
     (v.en = false → v.waiting = [] → exec (.qcfgWrite q w) s = .next (s.setQueue q
       { v with en := bitOf w 31 && s.booted, job := BitVec.ofNat 32 (bitsOf w 63 32), prio := bitsOf w 2 0 }))) ∧
  (∀ r : Rec512,
     let clean : Prop := ∀ k, (57 ≤ k ∧ k ≤ 63 ∨ 153 ≤ k ∧ k ≤ 159 ∨ 185 ≤ k ∧ k ≤ 191 ∨ 217 ≤ k ∧ k ≤ 223 ∨ 249 ≤ k ∧ k ≤ 255 ∨
       k = 271 ∨ 304 ≤ k ∧ k ≤ 319 ∨ 336 ≤ k ∧ k ≤ 351) → r.getLsbD k = false
     let n := recCount r
     let gangOk : Prop := if recGang r then 0 < recGw r ∧ recGw r ≤ 24 ∧ 0 < recGh r ∧ recGh r ≤ 24 ∧ n ≤ 7 * (recGw r * recGh r)
       else recGw r = 0 ∧ recGh r = 0
     (launchBad r = none ↔ clean ∧ n ≤ 2 ^ 24 ∧ recSx r * recSy r * recSz r = n ∧ recEntry r % 4 = 0 ∧ recCnt r ≠ 0 ∧
       recCnt r ≠ recGraphc r ∧ (∀ c ∈ recSuccs r, c ≠ 0 → c ≠ recCnt r) ∧ gangOk) ∧
     (clean → 2 ^ 24 < n → launchBad r = some (1, 128)) ∧
     (clean → n ≤ 2 ^ 24 → recSx r * recSy r * recSz r ≠ n → launchBad r = some (2, 128)))

/-- R63, R65, R73, R82, R86 and R87: the dispatcher takes the oldest record, which gives a launch its place in the order of
acceptance; deals the first work in its order, a unit or a
record that a gang's rectangle returned, to the bottom of a core's deque; places a gang, and starts one whose rectangle is idle
on every member strand in one core cycle; and counts a unit that has retired and whose operations have completed.
R65 and R82: of all work that can be served, what is served comes first: none has a more urgent priority, nor the same and an
earlier acceptance; that a returned record stands where its launch does is the model's choice (log entry 51). A unit goes to a
core of its job that takes work and whose deque has room. -/
def Obligations.DispatcherSteps : Prop :=
  (∀ (s : State) (j n q c : Nat) (l : Launch) (r : Rec512),
     (∀ p rest, (s.queue q).waiting = (r, p) :: rest → exec (.dispatcherTake (some q)) s =
       .next ((s.setQueue q { s.queue q with waiting := rest }).takeLaunch (s.queue q).job.toNat r p)) ∧
     (∀ rest, s.disp.fromTasks = (j, r) :: rest → exec (.dispatcherTake none) s =
       .next ((s.modDisp fun d => { d with fromTasks := rest }).takeLaunch j r (recPrio r))) ∧
     (∀ p, p < 8 → 0 < recCount r → Tab.find? s.jobs j ≠ none → (s.takeLaunch j r p).disp.launches =
       s.disp.launches ++ [⟨j, r, p, 0, (s.counter j (recCnt r)).state = .active⟩] ∧
       (s.takeLaunch j r p).nextId = s.nextId + 1 ∧ ((s.takeLaunch j r p).counter j (recCnt r)).prio = p ∧
       ((s.takeLaunch j r p).counter j (recCnt r)).stamp = s.nextId) ∧
     (s.nextServe = none → exec (.dealUnit j n) s = .next s) ∧
     (s.nextServe = some (.unit l c) → ∃ u, exec (.dealUnit j n) s = .next u ∧
       (u.core c).deque (taskHi (unitRecord l.record l.next)) =
         unitRecord l.record l.next :: (s.core c).deque (taskHi (unitRecord l.record l.next)) ∧
       (u.job l.job).lastDealt = some c ∧
       u.disp.launches = (if recCount l.record ≤ l.next + 1 then s.disp.launches.erase l
         else s.disp.launches.map fun m => if m = l then { m with next := m.next + 1 } else m)) ∧
     (s.nextServe = some (.back j r c) → ∃ u, exec (.dealUnit j n) s = .next u ∧
       (u.core c).deque (taskHi r) = r :: (s.core c).deque (taskHi r) ∧ u.disp.returned = s.disp.returned.erase (j, r)) ∧
     (s.nextServe = some (.place l) → exec (.dealUnit j n) s = .next (s.placeGang l)) ∧
     (s.launchOf j n = some l → l.released = true → recGang l.record = true → s.flows j = true →
       (s.placed j n = none → s.nextServe = some (.place l) → exec (.gangStart j n) s = .next (s.placeGang l)) ∧
       (∀ g v ch, s.placed j n = some (g, v) → v.cores.all s.coreIdle = true → s.gangBefore v l = false →
         s.freeChannel v.die = some ch → s.clock.cc % (s.core (v.cores.headD 0)).part.strands = 0 →
         ∃ u, exec (.gangStart j n) s = .next u ∧ u = s.releaseGang g v l (16 * v.die + ch) ∧
           ∀ m, m < recCount l.record →
             let st := u.strand ⟨v.cores.getD (m % (v.w * v.h)) 0, m / (v.w * v.h)⟩
             st.run = .running ∧ st.base = s.clock.cc ∧ st.gang = some g)) ∧
     (∀ e, s.disp.retiring.find? (s.disp.settled j n) = some e →
       let t := s.modDisp fun d => { d with retiring := d.retiring.erase e }
       let u := if e.ended = .unit then t.countDown j n else t
       let w := if u.disp.retiring.any (fun e => e.job = j && e.counter = n) then u.post 0 (.unitRetire j n) else u
       exec (.unitRetire j n) s = .next (if (w.counter j n).cancel.isSome then w.post 0 (.cancelComplete j n) else w)) ∧
     (s.disp.retiring.find? (s.disp.settled j n) = none → exec (.unitRetire j n) s = .next s)) ∧
  (∀ (s : State),
     (∀ a b, s.serveBefore a b = true ↔
       let x := s.counter a.of.1 a.of.2
       let y := s.counter b.of.1 b.of.2
       x.prio < y.prio ∨ (x.prio = y.prio ∧ x.stamp < y.stamp)) ∧
     (∀ a, s.nextServe = some a →
       (∀ l ∈ s.disp.launches, ∀ b, s.canServe l = some b → s.serveBefore b a = false) ∧
       (∀ e ∈ s.disp.returned, s.flows e.1 = true → ∀ c, s.dealTo e.1 (taskHi e.2) = some c →
         s.serveBefore (.back e.1 e.2 c) a = false)) ∧
     (∀ l m c, s.canServe l = some (.unit m c) → m = l ∧ l.released = true ∧ recGang l.record = false ∧ s.flows l.job = true ∧
       c ∈ (s.job l.job).cores ∧ s.takesWork c = true ∧ ((s.core c).deque (recLaunchHi l.record)).length < 16))

/-- R66 to R70, R74, R394, R427, R428: the last die's arrival starts the phase barrier, whose end makes the phase counter DONE; a
cancelled counter with no task left is DONE, once; a job takes free cores, when firmware has booted, and leaves them.
R66, R69 and R70: what happens to a counter. A member takes one off PEND and completes it at the last; a counter that
completes is DONE and signals its successors, then its parent, a phase counter only once the agents of the job's dies, which are
then asked, have arrived, and once however often a member counts meanwhile; a signal takes one off PRED and releases a held launch,
which in a stopped job stays held with PRED 0 until the job resumes (R372). -/
def Obligations.JobAndCounterSteps : Prop :=
  (∀ (s : State) (j n die : Nat) (cores : List Nat) (part : Part) (channels : List (Nat × Nat)) (phase : Option Nat),
     let b := s.job j
     (b.phaseOf ≠ [] → die ∈ b.dies → die ∉ b.phaseDies →
       let u := s.modJob j fun b => { b with phaseDies := die :: b.phaseDies }
       ((∀ d ∈ b.dies, d = die ∨ d ∈ b.phaseDies) → exec (.phaseAgentArrival j die) s = .next (u.post 64 (.phaseBarrier j))) ∧
       ((∃ d ∈ b.dies, d ≠ die ∧ d ∉ b.phaseDies) → exec (.phaseAgentArrival j die) s = .next u)) ∧
     (∀ p ps, b.phaseOf = p :: ps → (∀ d ∈ b.dies, d ∈ b.phaseDies) →
       let u := ((s.modJob j fun b => { b with phaseOf := ps, phaseDies := [] }).dropForwards j).counters j [.finish p]
       exec (.phaseBarrier j) s = .next (if ps = [] then u else u.phaseCall j)) ∧
     (n ∈ b.phaseOf → exec (.cancelComplete j n) s = .next s) ∧
     ((s.counter j n).state.armed = true → (s.counter j n).cancel ≠ none → n ∉ b.phaseOf → s.cancelReady j n = true →
       let u := (s.setCounter j n { s.counter j n with state := .active }).counters j [.complete n]
       exec (.cancelComplete j n) s = .next
         (if (s.counter j n).parent = 0 then u else u.post 0 (.cancelComplete j (s.counter j n).parent))) ∧
     (s.booted = false → exec (.jobCreate j cores n part channels phase) s = .next s) ∧
     (s.booted = true → j < 2 ^ 32 → cores ≠ [] → (∀ c ∈ cores, (s.core c).job = none ∧ (s.core c).forward = none) →
       (∀ e ∈ s.jobs, e.1 % 65536 ≠ j % 65536) → ∃ u, exec (.jobCreate j cores n part channels phase) s = .next u ∧
         u.job j = { Job.empty with cores := cores, nctr := n, channels := channels, phase := phase } ∧
         ∀ c ∈ cores, (u.core c).job = some j ∧ (u.core c).part = part ∧ (u.core c).delays = [] ∧ (u.core c).high = [] ∧
           (u.core c).normal = []) ∧
     (Tab.find? s.jobs j = some b → ∃ u, exec (.jobDestroy j) s = .next u ∧ u.jobs = Tab.drop s.jobs j ∧
       ∀ c ∈ b.cores, (u.core c).job = none ∧ (u.core c).high = [] ∧ (u.core c).normal = [])) ∧
  (∀ (s : State) (j n : Nat),
     let c := s.counter j n
     (c.state = .active → s.counterStep j (.member n) =
       (s.setCounter j n { c with pend := (c.pend + (2 ^ 32 - 1)) % 2 ^ 32 }, if c.pend = 1 then [.complete n] else [])) ∧
     (c.state ≠ .active → s.counterStep j (.member n) = (s, [])) ∧
     (c.level ≠ 2 → s.counterStep j (.complete n) = (s, [.finish n])) ∧
     (c.level = 2 → (s.job j).phase ≠ none → n ∈ (s.job j).phaseOf → s.counterStep j (.complete n) = (s, [])) ∧
     (c.level = 2 → (s.job j).phase ≠ none → n ∉ (s.job j).phaseOf →
       let t := s.modJob j fun b => { b with phaseOf := b.phaseOf ++ [n] }
       s.counterStep j (.complete n) = (if (s.job j).phaseOf = [] then t.phaseCall j else t, [])) ∧
     (∃ u, s.counterStep j (.finish n) = (u, (c.succ.filter (· ≠ 0)).map .signal ++ (if c.parent ≠ 0 then [.member c.parent] else [])) ∧
       (u.counter j n).state = .done ∧ (u.counter j n).cancel = none ∧ (u.counter j n).pend = c.pend ∧
       (u.counter j n).canc = (c.canc || c.cancel.isSome)) ∧
     (c.state = .held → s.counterStep j (.signal n) =
       if c.pred ≤ 1 then (s.setCounter j n { c with pred := 0 }, [.release n])
       else (s.setCounter j n { c with pred := c.pred - 1 }, [])) ∧
     ((c.state = .idle ∨ c.state = .done) → s.counterStep j (.signal n) =
       (s.setCounter j n { c with canc := false, state := .idle, pred := c.pred - 1 }, [])) ∧
     ((s.job j).run = .stopped → s.counterStep j (.release n) = (s, [])) ∧
     ((s.job j).run ≠ .stopped → c.pend = 0 → s.counterStep j (.release n) =
       (s.setCounter j n { c with state := .active }, [.complete n])) ∧
     ((s.job j).run ≠ .stopped → c.pend ≠ 0 → s.counterStep j (.release n) =
       ((s.setCounter j n { c with state := .active }).releaseLaunch j n, [])))

/-- R44, R80, R81, R84, R85 and R122: an idle strand pops the bottom record of its core, high deque first, and starts it in
its first slot; else it probes one core or die after another and takes the top record of the first that has one; a round without
success is followed by a wait of 64 core cycles. That a strand pops its own deque also while a probe is outstanding is the model's
choice (log entry 51). -/
def Obligations.SeekingSteps : Prop :=
  ∀ (s : State) (x : SId),
    let k := s.core x.core
    let me := s.strand x
    let first := nextSlot k.part.strands x.strand (s.clock.cc + 1)
    let starts (u : State) (r : Rec512) : Prop :=
      let st := u.strand x
      st.run = .running ∧ st.pc = BitVec.ofNat 64 (recEntry r) ∧ st.base = first ∧ st.regs.g = [] ∧ st.regs.v = [] ∧ st.regs.p = [] ∧
      st.regs.csr.taskArg = BitVec.ofNat 64 (recArg r) ∧ st.regs.csr.launchId = BitVec.ofNat 32 (taskLaunchId r) ∧
      st.regs.csr.unitX = BitVec.ofNat 24 (bitsOf r 151 128) ∧ st.regs.csr.unitY = BitVec.ofNat 24 (bitsOf r 183 160) ∧
      st.regs.csr.unitZ = BitVec.ofNat 24 (bitsOf r 215 192) ∧ st.regs.csr.status = ⟨false, false, false, false, false, false⟩
    (s.seeks x = true →
      (∀ r rs, k.high = r :: rs → r.getLsbD 511 = false →
        ∃ u, exec (.pop x) s = .next u ∧ starts u r ∧ (u.core x.core).high = rs ∧ (u.core x.core).normal = k.normal) ∧
      (∀ r rs, k.high = [] → k.normal = r :: rs → r.getLsbD 511 = false →
        ∃ u, exec (.pop x) s = .next u ∧ starts u r ∧ (u.core x.core).high = [] ∧ (u.core x.core).normal = rs) ∧
      (k.high = [] → k.normal = [] → me.steal.round = 0 → exec (.pop x) s =
        .next ((s.modStrand x fun st => { st with steal := ⟨0, false, 1, 0⟩ }).post 0 (.stealRequest x))) ∧
      (me.steal.round = 1 → me.steal.awaiting = false → me.steal.due ≤ s.clock.cc →
        (∀ c, (s.stealTargets x)[me.steal.probe]? = some (.core c) → exec (.stealRequest x) s =
          .next ((s.modStrand x fun st => { st with steal := { st.steal with awaiting := true, due := s.clock.cc + 40 } }).post 40
            (.stealReply x))) ∧
        (∀ d, (s.stealTargets x)[me.steal.probe]? = some (.die d) → exec (.stealRequest x) s =
          .next ((s.modStrand x fun st => { st with steal := { st.steal with awaiting := true, due := s.clock.cc + 200 } }).post 200
            (.stealReply x))) ∧
        ((s.stealTargets x)[me.steal.probe]? = none → exec (.stealRequest x) s =
          .next ((s.modStrand x fun st => { st with steal := { st.steal with round := 2, due := s.clock.cc + 64 } }).post 64
            (.stealRoundRetry x)))) ∧
      (me.steal.awaiting = true → me.steal.due ≤ s.clock.cc → ∀ g c r rs, (s.stealTargets x)[me.steal.probe]? = some g →
        s.stealFrom x g = some (c, false) → (s.core c).normal = rs ++ [r] → r.getLsbD 511 = false →
        ∃ u, exec (.stealReply x) s = .next u ∧ starts u r ∧ (u.core c).normal = rs)) ∧
    (me.run = .idle → me.steal.round = 2 → me.steal.due ≤ s.clock.cc → exec (.stealRoundRetry x) s =
      .next ((s.modStrand x fun st => { st with steal := ⟨0, false, 0, 0⟩ }).post 0 (.pop x))) ∧
    ((me.steal.round ≠ 2 ∨ s.clock.cc < me.steal.due) → exec (.stealRoundRetry x) s = .next s)

/-! ## The steps of strands and of their requests -/

/-- R128, R131, R132, R141 and R376: at a strand's step of landing, the fault of its oldest instruction that is due is raised with
everything later undone; else every write whose vc has come lands in its order, one to SVEC on the core once no fault can undo it,
and a late trap is taken where the strand stands at a group boundary, PREEMPT once no write is left to land. That a write to SVEC
becomes the core's once no earlier instruction can fault is log entry 49, that PREEMPT waits for the strand's writes log entry 16.
R100, R129 and R135: a landing write changes its register alone; g0 and p0 stay as they are. -/
def Obligations.LandingSteps : Prop :=
  (∀ (s : State) (x : SId),
     let me := s.strand x
     let v := me.vcAt s.clock.cc
     let u := (s.modStrand x fun st => st.settle v).commitSvec x
     me.run = .running →
       (∀ e t, me.dueTrap v = some (e, t) → exec (.landing x) s = .next ((s.raise x e t v).look x)) ∧
       (me.dueTrap v = none → u.dueLate x = none → exec (.landing x) s = .next ((u.parkWaiting x v).look x)) ∧
       (∀ l, me.dueTrap v = none → u.dueLate x = some l →
         (l.info.cause ≠ .preempt ∨ (u.strand x).pending = [] → exec (.landing x) s = .next ((u.takeLate x l).look x)) ∧
         (l.info.cause = .preempt → (u.strand x).pending ≠ [] → exec (.landing x) s = .next (u.look x)))) ∧
  (∀ (r : Regs) (n k : Nat) (x : Word) (y : VWord) (z : PWord), Tab.wf 0 r.g = true → Tab.wf 0 r.v = true → Tab.wf 0 r.p = true →
     (Dest.g n x).land r = { r with g := ((Dest.g n x).land r).g } ∧
     ((Dest.g n x).land r).readG k = (if k = 0 then 0 else if k = n then x else r.readG k) ∧
     (Dest.v n y).land r = { r with v := ((Dest.v n y).land r).v } ∧
     ((Dest.v n y).land r).readV k = (if k = n then y else r.readV k) ∧
     (Dest.p n z).land r = { r with p := ((Dest.p n z).land r).p } ∧
     ((Dest.p n z).land r).readP k = (if k = 0 then 0xFFFF else if k = n then z else r.readP k) ∧
     (Dest.csr n x).land r = { r with csr := ((Dest.csr n x).land r).csr })

/-- R129: writes wait in the order of vc and, at one vc, of issue; landing up to vc v lands those of a vc up to v in that order and
keeps the others, so that each general, vector and predicate register then holds the last of its writes that has landed, and what it
held where none has. A write to g0 or p0 lands nowhere, and of two writes to a control register the later stays. -/
def Obligations.LandingOrder : Prop :=
  (∀ (ps : List Pending) (v : Nat) (r : Regs), ps.Pairwise (fun p q => p.vc ≤ q.vc) →
    (landAll ps v r).2 = ps.filter (fun p => v < p.vc) ∧
    (landAll ps v r).1 = (ps.filter fun p => p.vc ≤ v).foldl (fun r p => p.dest.land r) r) ∧
  (∀ (ps : List Pending) (n : Pending), ps.Pairwise (fun p q => p.vc < q.vc ∨ p.vc = q.vc ∧ p.seq ≤ q.seq) →
    (addPending ps n).Pairwise (fun p q => p.vc < q.vc ∨ p.vc = q.vc ∧ p.seq ≤ q.seq) ∧
    ∀ p, p ∈ addPending ps n ↔ p = n ∨ p ∈ ps) ∧
  (∀ (ps : List Pending) (v : Nat) (r : Regs), ps.Pairwise (fun p q => p.vc ≤ q.vc) → Tab.wf 0 r.g = true → Tab.wf 0 r.v = true →
    Tab.wf 0 r.p = true →
    let u := (landAll ps v r).1
    let due := (ps.filter fun p => p.vc ≤ v).map (·.dest)
    (∀ k, k ≠ 0 → u.readG k = ((due.filterMap fun d => match d with | .g n x => if n = k then some x else none | _ => none).getLast?).getD
      (r.readG k)) ∧
    (∀ k, u.readV k = ((due.filterMap fun d => match d with | .v n x => if n = k then some x else none | _ => none).getLast?).getD
      (r.readV k)) ∧
    (∀ k, k ≠ 0 → u.readP k = ((due.filterMap fun d => match d with | .p n x => if n = k then some x else none | _ => none).getLast?).getD
      (r.readP k))) ∧
  (∀ (r : Regs) (x : Word) (z : PWord), (Dest.g 0 x).land r = r ∧ (Dest.p 0 z).land r = r) ∧
  (∀ (r : Regs) (n : Nat) (x y : Word), Tab.wf 0 r.csr.q = true →
    (Dest.csr n y).land ((Dest.csr n x).land r) = (Dest.csr n y).land r)

/-- R124 to R126: a domain whose awaited item is not there when it is tested, W core cycles before its vc (24 in a gang), is held
before that vc, and goes on a whole number of rotations later, with every later vc moved by as much. -/
def Obligations.HoldingSteps : Prop :=
  ∀ (s : State) (x : SId) (n : Nat),
    let me := s.strand x
    (let w := (s.domain x).foldl (fun u y => u.modStrand y fun st => st.fixLates s.clock.cc) s
      let h := (w.strand x).held
      ∀ t, w.lateAt x = some t → (h = 0 ∨ t < h) →
        (w.strand x).base + t - (if (w.strand x).gang.isSome then 24 else 0) ≤ s.clock.cc →
        ∃ u, exec (.lateEventTest x) s = .next u ∧ (∀ y ∈ w.domain x, u.strand y = { w.strand y with held := t }) ∧
          (∀ y, y ∉ w.domain x → u.strand y = w.strand y) ∧ u.mem = s.mem ∧ u.jobs = s.jobs ∧
          ∀ k, { u.core k with strands := [] } = { s.core k with strands := [] }) ∧
    (me.gang = none → me.held ≠ 0 → s.present x = true → 0 < n → s.clock.cc = me.base + me.held + n * s.rotation x →
      ∃ u, exec (.holdEnd x n) s = .next u ∧ (u.strand x).base = me.base + n * s.rotation x ∧
        (u.strand x).vpause = me.vpause + n * s.rotation x ∧
        (u.strand x).lates = (me.lates.filter fun l => !(l.known = 0 && l.here && l.vc ≤ me.held)) ∧
        (∀ t, (u.strand x).held = t → t = 0 ∨ me.held < t) ∧
        (∀ y, y ≠ x → u.strand y = s.strand y) ∧ u.mem = s.mem ∧ u.jobs = s.jobs)

/-- R127, R131 to R133 and R432: the head of the deferred effects is performed once every earlier instruction has passed its
fault point; it then leaves the list, or its instruction faults, or the effect must wait: it is marked so, and a strand that runs
parks for it, with the effect's reason, its instruction and its issue vc. A park whose condition has held ends, and its writes
land after the slot in which the strand resumes. -/
def Obligations.EffectAndParkSteps : Prop :=
  ∀ (s : State) (x : SId),
    let me := s.strand x
    (∀ e, me.effectDue = some e → me.effectCc e ≤ s.clock.cc →
      exec (.deferredEffect x) s = .next ((((s.performHead x).nextRequest x).look x).tlbLook) ∧
      (∀ t, s.performEffect x e = .done t → s.performHead x = t.effectDone x e.seq) ∧
      (∀ t f i, s.performEffect x e = .fault t f → (t.strand x).inflight.find? (fun i => i.seq = e.seq) = some i →
        s.performHead x = t.raise x i f ((t.strand x).vcAt t.clock.cc)) ∧
      (∀ t reason, s.performEffect x e = .park t reason → reason ≠ .serial →
        let st := t.strand x
        let marks : List Deferred := st.deferred.map fun d => if d.seq = e.seq then { d with stuck := some reason } else d
        let u := s.performHead x
        (u.strand x).deferred = marks ∧ u.mem = t.mem ∧ (∀ y, y ≠ x → u.strand y = t.strand y) ∧
        (∀ k, { u.core k with strands := [] } = { t.core k with strands := [] }) ∧
        (st.park = none → u.strand x =
          { st with deferred := marks, park := some ⟨reason, .effect, e.gpc, e.seq, e.issue, t.clock.cc⟩ }) ∧
        (∀ p, st.park = some p → p.seq = e.seq → ∃ q, (u.strand x).park = some q ∧ q.reason = reason ∧ q.seq = p.seq ∧ q.on = p.on) ∧
        (∀ p, st.park = some p → p.seq ≠ e.seq → (u.strand x).park = some p))) ∧
    (me.run = .running → me.deferred.any (fun e => e.stuck.isSome) = false → ∀ p lat ws, me.park = some p →
      p.on = .ready lat ws none →
      let slot := s.parkSlot x p.reason
      ∃ u, exec (.parkResume x) s = .next u ∧ (u.strand x).park = none ∧ (u.strand x).slot = s.resumeSlot x ∧
        (u.strand x).parkedCc = me.parkedCc + p.counted s.clock.cc + (me.under.map (s.clock.cc - ·)).getD 0 ∧
        (p.reason ≠ .serial → p.counted s.clock.cc = s.clock.cc - p.since) ∧ (u.strand x).regs = me.regs ∧
        (u.strand x).pending = ws.foldl (fun ps d => addPending ps ⟨slot + lat, p.seq, d⟩) me.pending)

/-- R166, R177, R179, R186, R188, R191, R308 and R427: a request is refused with a wait hint k, to be tried again 8 (k + 1) cc later,
or served once, at its home and in its strand's program order, which is the model's reading (log entry 12), one of class 0 after an
earlier one of its strand; a request of class
0, and after four refusals any that finds a waiter's place, is not refused; its response makes the results pending for the landing vc;
an acknowledged store leaves the buffer, not before its retry; a waiter whose word has become bad takes INTEGRITY. -/
def Obligations.RequestSteps : Prop :=
  ∀ (s : State) (x : SId) (seq n : Nat) (h : Option (BitVec 6)) (dl : BitVec 16) (e : Inflight) (r : Request),
    let me := s.strand x
    let again (u : State) (k : Nat) : State :=
      (u.modStrand x fun st => st.setStage seq (.sent (n + 1))).post (8 * (k + 1)) (.requestRetry x seq)
    (s.waitersFull r = false → (4 ≤ n ∨ ∀ p l, s.requestHome x r = some (p, l) → polTc p = 0) → s.refusesNow x r n h = (s, none)) ∧
    (me.inflight.find? (fun e => e.seq = seq) = some e →
      (e.req = some (r, .sent n) → (me.firstSent seq = false ∨ s.classWaits x r = true) →
        exec (.homeSliceRequest x seq h) s = .next s ∧ exec (.sequencerAccept x seq) s = .next s) ∧
      (e.req = some (r, .sent n) → me.firstSent seq = true → s.classWaits x r = false →
        (∀ u k, s.refusesNow x r n h = (u, some k) → exec (.homeSliceRequest x seq h) s = .next (again u k)) ∧
        (∀ u, s.refusesNow x r n h = (u, none) → exec (.homeSliceRequest x seq h) s =
          .next (((u.served x seq (u.servedAt x r)).serveRequest x seq r).nextRequest x)) ∧
        (∀ c, r = .mapKey c →
          (∀ u k, s.refusesNow x r n none = (u, some k) → exec (.sequencerAccept x seq) s = .next (again u k)) ∧
          (∀ u v ds, s.refusesNow x r n none = (u, none) → (u.served x seq (u.servedAt x r)).mapKeyAt x c = (v, .inl ds) →
            exec (.sequencerAccept x seq) s = .next ((v.serve x seq ds none).nextRequest x)))) ∧
      (e.req = some (r, .sent (n + 1)) → exec (.requestRetry x seq) s =
        .next (s.post 0 (match r with | .mapKey _ => .sequencerAccept x seq | _ => .homeSliceRequest x seq none))) ∧
      (∀ ds, e.req = some (r, .served ds none) → (∀ p, me.park = some p → p.on ≠ .home seq) →
        ∃ u, exec (.memoryResponse x seq dl) s = .next u ∧ (u.strand x).regs = me.regs ∧
          (u.strand x).pending = ds.foldl (fun ps d => addPending ps ⟨e.faultVc, seq, d⟩) me.pending ∧ u.mem = s.mem)) ∧
    (∀ l ls, me.storeBuf = l :: ls →
      (l.due ≤ s.clock.cc → (l.zero = false ∨ me.msgOut = false ∧ s.classOut x = false) →
        ∃ u, exec (.storePerformed x dl) s = .next u ∧ (u.strand x).storeBuf = ls ∧ u.mem = s.mem) ∧
      ((s.clock.cc < l.due ∨ l.zero = true ∧ (me.msgOut = true ∨ s.classOut x = true)) →
        exec (.storePerformed x dl) s = .next s)) ∧
    (∀ w, s.mem.waiters = [w] → w.op.fits (s.isEmpty w.loc) = true → w.loc % 8 = 0 →
      let v := s.modMem fun m => { m with waiters := [] }
      let u := v.feStep w.op w.loc w.x w.d
      exec (.fullEmptyHomeOperation (w.loc / 8)) s = .next (
        if w.op.reads = true ∧ s.isBad w.loc = true then
          v.fill w.sid w.seq [] (some ⟨.integrity, (s.strand w.sid).feAddress w.seq &&& ~~~31, 0⟩)
        else u.1.fill w.sid w.seq u.2 none))

/-- R198 to R200, R320, R324 to R328, R364 and R403: a macro's step does one line, slice or shard, leaves MPX at the next and
comes again, or completes with MPX 0 and ends the park. That the next step comes one core cycle later is the model's choice (log
entry 5), as is that MAPINFO's response adds to the accumulator of shard 0's slice (log entry 59). -/
def Obligations.MacroStepsGoOn : Prop :=
  ∀ (s : State) (x : SId) (p : Park) (hd : Word) (q : Policy),
    (s.strand x).park = some p → s.quietFor x p.seq = true →
    let clear : Prop := (s.strand x).blockedBy p.seq = false ∧ s.resolve x hd q Need.map ≠ .blocked
    let ready : State := s.parkReason x .serial
    let ended (u : State) : State := (u.setMpx x 0).makeReady x 0 [] none
    (∀ op base len, p.on = .rangeMacro op base len q → (s.strand x).run = .running →
      let i := (s.strand x).regs.csr.mpx.toNat
      let line := (base &&& ~~~127) + BitVec.ofNat 64 (128 * i)
      (rangeLines base len ≤ i → exec (.rangeStep x) s = .next (ended s)) ∧
      (∀ u, (s.endRegion x).rangeLine x op base line q = .inl u → i + 1 < rangeLines base len →
        exec (.rangeStep x) s = .next ((u.setMpx x (BitVec.ofNat 64 (i + 1))).post 1 (.rangeStep x))) ∧
      (∀ u, (s.endRegion x).rangeLine x op base line q = .inl u → i + 1 = rangeLines base len →
        exec (.rangeStep x) s = .next (ended u))) ∧
    ((s.strand x).blockedBy p.seq = false → ∀ b u, p.on = .mapnew hd b q → s.performMapnew x p.seq hd b q = .done u →
      exec (.mapnewComplete x) s = .next (u.makeReady x 0 [] none)) ∧
    (clear → ∀ r b u, p.on = .scan hd r b q →
      (ready.scanStep x p.seq p.issue hd r b q = .more u → exec (.mapscanSliceStep x) s = .next (u.post 1 (.mapscanSliceStep x))) ∧
      (ready.scanStep x p.seq p.issue hd r b q = .complete u → exec (.mapscanSliceStep x) s = .next (ended u))) ∧
    (clear → ∀ i j u, p.on = .settle hd i q → ready.settleOnce x hd i q = (.more u, j) →
      ∃ w, exec (.settleStep x) s = .next w ∧ (∃ e ∈ w.agenda, e.what = .settleStep x) ∧
        ∀ p', (u.strand x).park = some p' → p'.on = .settle hd i q → (w.strand x).park = some { p' with on := .settle hd j q }) ∧
    (clear → ∀ u, p.on = .clear hd q →
      (ready.clearOnce x hd q = .more u → exec (.mapclrShardStep x) s = .next (u.post 1 (.mapclrShardStep x))) ∧
      (ready.clearOnce x hd q = .complete u → exec (.mapclrShardStep x) s = .next (ended u))) ∧
    (clear → ∀ d m, p.on = .info hd d q →
      let u := (s.parkReason x .barrierPhase).endRegion x
      u.mapCheck x hd q = .inl m → exec (.mapinfoAnswer x) s =
        .next ((u.respondDelay x (m.bank 0)).makeReady x 0 [.g d (BitVec.ofNat 64 m.info)] none)) ∧
    (∀ area ops reqs held, p.on = .tlbinv area ops reqs held → s.tlbClear ops reqs held = true → exec (.tlbinvComplete x) s =
      .next ((s.makeReady x 0 [] none).walksAgain area)) ∧
    (∀ c ch a d, p.on = .arrival c ch a false d → p.reason = .serial → s.memberOf x ch = some c → s.woadPending x c = false →
      exec (.woadArrival x) s = .next (((s.endRegion x).arrive c a).makeReady x 0 [] none)) ∧
    (∀ e c, (s.strand x).headEffect = some e → e.eff = .copy c → exec (.registration x) s = .next ((s.retryHead x).look x)) ∧
    ((s.strand x).blockedBy p.seq = true → (∃ b, p.on = .mapnew hd b q) → exec (.mapnewComplete x) s = .next s)

/-- R331 to R333, R335, R336 and R370: a generation closes when every member has arrived and is released after its latency,
whichever closed before it, with the result that its arrivals give: every strand that waits for it resumes with that result, and a
strand that was stopped while it waited keeps the result; members of a gang that has stalled for 256 cycles take GANGSTALL. -/
def Obligations.WoadAndGangSteps : Prop :=
  (∀ (s : State) (c : Nat) (a : Arrival),
    let ch := s.channel c
    let u := s.setChannel c { ch with open_ := ch.open_ ++ [a] }
    let late := woadLatency c (ch.open_ ++ [a])
    (u.members c).all (fun x => (ch.open_ ++ [a]).any fun e => e.sid = x) = true →
      s.arrive c a = (u.setChannel c ⟨[], ch.closed ++ [(s.clock.cc + late, ch.open_ ++ [a])]⟩).post late (.woadRelease c)) ∧
  (∀ (c : Nat) (as : List Arrival), woadLatency c as =
    (if c < 128 then (if as.any fun a => a.kind = .add ∨ a.kind = .min ∨ a.kind = .max ∨ a.kind = .or then 32 else 24)
      else if as.any fun a => a.kind = .add ∨ a.kind = .min ∨ a.kind = .max ∨ a.kind = .or then 72 else 64)) ∧
  (∀ (s : State) (c t : Nat) (as : List Arrival),
    (s.channel c).closed.find? (fun g => g.1 ≤ s.clock.cc) = some (t, as) →
    let after := s.setChannel c ⟨(s.channel c).open_, (s.channel c).closed.erase (t, as)⟩
    ((∀ a ∈ as, (s.strand a.sid).regs.csr.status.wdone = false) →
      (∀ w ∈ s.woadWaiters c, ∃ ch sent d, w.2.on = .woad c ch sent d) →
      exec (.woadRelease c) s = .next ((s.woadWaiters c).foldl (fun u w => match w.2.on with
        | .woad _ ch _ d => if as.any (·.sid = w.1) then u.woadDone w.1 ch d (woadResult as) else u
        | _ => u) (after.wake fun _ p => p.on = .effect && p.reason = .woad))) ∧
    (s.woadWaiters c = [] → ∀ x, x ∈ as.map (·.sid) → (s.strand x).regs.csr.status.wdone = true →
      ∃ u, exec (.woadRelease c) s = .next u ∧ Tab.find? (u.strand x).woadGot c = some (woadResult as) ∧
        u.channel c = after.channel c)) ∧
  (∀ (s : State) (x y : SId) (ch : Nat) (d : Option Nat) (r : BitVec 32 × Bool) (p : Park), (s.strand x).park = some p →
    ((s.woadDone x ch d r).strand x).park = (
      if r.2 && d.isSome then some { p with on := .ready 0 [] (some (woadTrap ch 2)) }
      else some { p with on := .ready 0 (woadWrites d r.1) none }) ∧
    (y ≠ x → (s.woadDone x ch d r).strand y = s.strand y)) ∧
  (∀ as : List Arrival,
    ((∀ a ∈ as, a.kind = .add) → woadResult as = ((as.map (·.value)).foldl (· + ·) 0, false)) ∧
    ((∃ a ∈ as, a.kind = .add ∨ a.kind = .min ∨ a.kind = .max) → (∃ a ∈ as, a.kind = .plain ∨ a.kind = .send ∨ a.kind = .recv ∨ a.kind = .or) →
      (woadResult as).2 = true) ∧
    ((∀ a ∈ as, a.kind ≠ .add ∧ a.kind ≠ .min ∧ a.kind ≠ .max) →
      woadResult as = ((as.map (·.value)).foldl (· ||| ·) 0, false))) ∧
  (∀ (s : State) (g : Nat) (v : Gang), Tab.find? s.gangs g = some v → v.members ≠ [] → v.quietFrom + 256 ≤ s.clock.cc →
    (∀ x ∈ v.members, s.drives x = true ∧ (s.strand x).held = 0 ∧ s.driveCc x + 256 ≤ s.clock.cc) → (∃ x ∈ v.members, (s.strand x).park ≠ none) →
    exec (.gangstallExpiry g) s = .next (v.members.foldl (fun t x => t.stallTrap x) s))

/-! ## The steps of engines, units, links and streams -/

/-- R79, R203, R204, R206, R209, R210, R211, R221, R322: the engine starts the first request of the mailbox once nothing conflicts
with it, in a slot of the movement strand or at its start vc, fails one that conflicts at its start vc and one whose start vc
comes while an earlier one cannot start, lands bytes and counts them, bytes that several positions of a window name in their order,
sends the first held message that has room and makes the steps that wait no longer; messages enter the queue; a follow-on is freed in
the core cycle after its copy completes; MAPGETN's elements are dispatched and answered. When a copy starts, where neither its start
vc nor R79 says so, is log entry 54: also outside a slot of the movement strand, where the start vc of a later request comes. -/
def Obligations.CopyEngineSteps : Prop :=
  ∀ (s : State) (core pick : Nat) (o : CopyOp),
    let c := s.fwd core
    let k := s.core c
    let find : Prop := k.ops.find? (fun p => p.id = o.id) = some o
    (∀ rest, k.ops.filter (fun p => p.inBox && !p.started) = o :: rest → s.engineRuns c (.copy c) = true → find →
      let clash := s.opHeld o
      let early : Prop := ∃ n, o.cmd.hstart = some n ∧ s.opVc o < n
      let ready : Prop := ¬early ∧ clash = false ∧ k.held.length < 4
      (o.cmd.hstart = some (s.opVc o) → clash = true → o.cmd.hseq = none →
        exec (.copyStart core) s = .next ((s.failStart c o 2).enginesLook c)) ∧
      ((o.cmd.hstart = some (s.opVc o) → clash = true → o.cmd.hseq ≠ none) → ¬ready →
        ∀ p, rest.find? (fun p => p.cmd.hstart = some (s.opVc p)) = some p →
          exec (.copyStart core) s = .next ((s.failStart c p 1).enginesLook c)) ∧
      (ready → (s.moveSlot c = 0 ∨ o.cmd.hstart = some (s.opVc o) ∨ ∃ p ∈ rest, p.cmd.hstart = some (s.opVc p)) →
        o.cmd.kind ≠ .mapgetn → o.todo ≠ [] → ∃ u, exec (.copyStart core) s = .next u ∧ u.mem = s.mem ∧
          (u.core c).ops = (k.ops.map fun p => if p.id = o.id then
            { p with started := true, todo := p.todo ++ (freeRows s.opLive p.rows).1, rows := (freeRows s.opLive p.rows).2,
                     inBox := if o.open_ = false ∧ (freeRows s.opLive o.rows).2 = [] then false else p.inBox } else p) ∧
          ∃ d ∈ u.agenda, d.what = .byteLanding c o.id 0)) ∧
    (∀ s', s' = (if s.engineRuns c (.copy c) then (s.startRows c o.id).unbox c o.id else s) →
      (s'.core c).ops.find? (fun p => p.id = o.id) = some o → o.started = true →
      ∀ i l, landIndex o.todo pick = some i → o.todo[i]? = some l → (1 < o.todo.length ∨ o.rows ≠ []) →
        let t := (s'.modOp c o.id fun p => { p.withLanded l with todo := p.todo.eraseIdx i }).landOne o c l
        exec (.byteLanding core o.id pick) s = .next ((((t.stampSlots c o.id).completeOp c o.id).post 1
          (.byteLanding c o.id pick)).enginesLook c)) ∧
    (∀ (ls : List Land) (i n : Nat) (l m : Land), landIndex ls pick = some i → ls[i]? = some l → n < i → ls[n]? = some m →
      m.meets l = false) ∧
    (find → o.started = true →
      (o.next < getnCount o.cmd.record → o.cmd.kind = .mapgetn → s.engineRuns c (.copy c) = true →
        exec (.mapgetnDispatch core o.id) s = .next ((s.getnDispatch c o).enginesLook c))) ∧
    (find → ∀ p, o.probes = [p] → exec (.mapgetnResult core o.id pick) s = .next ((s.getnResult c o 0).enginesLook c)) ∧
    (∀ i m t, s.nextHeld c = some i → k.held[i]? = some m → k.heldTo[i]? = some t →
      s.inboxRoom (s.fwd t) = true ∧ t ∉ k.heldTo.take i ∧
      exec (.heldFlipApply core) s = .next (((((s.modCore c fun k =>
        { k with held := k.held.eraseIdx i, heldTo := k.heldTo.eraseIdx i }).sendMsg t m).freeSteps c k.flips.length).wake
          fun x p => x.core = c && p.reason = .message && p.on = .effect).postAll [.heldFlipApply c, .copyStart c])) ∧
    (s.nextHeld c = none → exec (.heldFlipApply core) s = .next s) ∧
    (∀ f, s.freeStep c = some f → f ∈ k.flips ∧ s.stepWaits f.1 f.2.1 f.2.2 = false ∧
      s.freeSteps c 1 = (s.modCore c fun k => { k with flips := k.flips.erase f }).countNow f.1 f.2.1 f.2.2) ∧
    (∀ m e, k.transit[pick % Nat.max 1 k.transit.length]? = some m → k.inbox.length < 16 →
      k.transit.find? (fun n => n.sender = m.sender) = some e →
      ∃ u, exec (.messageArrival core pick) s = .next u ∧ u.mem = s.mem ∧
        (u.core c).transit = k.transit.erase e ∧ (u.core c).inbox = k.inbox ++ [e]) ∧
    (∃ u, exec (.followOnStart core) s = .next u ∧ u.mem = s.mem ∧
      (u.core c).array = (k.array.map fun a =>
        if a.handAt ≠ 0 ∧ a.handAt ≤ s.clock.cc then { a with waitCopy := none, handAt := 0 } else a) ∧
      ∃ d ∈ u.agenda, d.what = .arrayCommandStart c) ∧
    (find → o.started = true → o.open_ = false → o.todo = [] → o.rows = [] → o.cmd.kind ≠ .mapgetn → o.cmd.follow ≠ none →
      let u := s.completeOp c o.id
      (u.core c).ops = (k.ops.filter fun p => p.id ≠ o.id) ∧
      (u.core c).array = (k.array.map fun a => if a.waitCopy = some o.id then { a with handAt := s.clock.cc + 1 } else a) ∧
      ⟨s.clock.cc + 1, .followOnStart c⟩ ∈ u.agenda)

/-- R126, R249, R250, R262 and R263: the words that entered a link 4 cc ago or more are present, in push order, and the next is
awaited; stream entries enter the queue in order while it has room, the closing marker releasing the route; the first strand
that waits for a free route gets it; an ended task's route is closed. -/
def Obligations.LinkAndStreamSteps : Prop :=
  ∀ (s : State) (c p core : Nat) (x : SId),
    let g := s.fwd core
    (let now := ((s.core c).linkComing p).takeWhile fun w => s.linkPresent w.1 w.2.1
      let left := ((s.core c).linkComing p).drop now.length
      ∃ u, exec (.linkWordArrival c p) s = .next u ∧ (u.core c).linkComing p = left ∧
        (u.core c).linkWords p = (s.core c).linkWords p ++ now.map (·.2.2) ∧ u.mem = s.mem ∧
        (∀ w ws, left = w :: ws → (s.strand w.2.1).run ≠ .drained → ∃ d ∈ u.agenda, d.what = .linkWordArrival c p)) ∧
    (∀ e y, s.linkPresent e y = true ↔
      e + 4 ≤ s.clock.cc ∧ ((s.strand y).held = 0 ∨ e < (s.strand y).base + (s.strand y).held) ∧
        ((s.strand y).run = .drained → e ≤ (s.strand y).base + (s.strand y).drainT.getD 0)) ∧
    (∀ e es, (s.core c).streamTransit = e :: es → (s.core c).streamIn.length < 16 →
      ∃ u, exec (.streamWordArrival c) s = .next u ∧ (u.core c).streamTransit = es ∧
        (u.core c).streamIn = (s.core c).streamIn ++ [e] ∧ u.mem = s.mem ∧
        (u.core c).routeHolder = (if e.isNone then none else (s.core c).routeHolder)) ∧
    (∀ y ys d w, (s.core g).routeHolder = none → (s.core g).routeWait = y :: ys → (s.strand y).headEffect = some d →
        d.eff = .sopen w →
        let t := (s.modCore g fun k => { k with routeHolder := some y, routeWait := ys }).modStrand y fun st =>
          { st with route := some w.toNat }
        exec (.routeGrant core) s = .next (((t.endRegion y).effectDone y d.seq).look y)) ∧
    (∀ g, (s.strand x).route = some g → exec (.routeAutoClose x) s =
      .next ((s.sendStream g none).modStrand x fun st => { st with route := none })) ∧
    ((s.strand x).route = none → exec (.routeAutoClose x) s = .next s)

/-- R140, R265, R269, R279, R280, R282, R284 and R286: the SFU takes the request that its ring reaches first and answers 40 cc
later; a command of the array starts once every earlier one has started, the array is free and no copy registered before it writes
its data, or takes TIMING where that does not hold at its start vc; a k-step is applied when it ends, which no hold of its domain puts
off; MZERO clears its bank in its turn; the banks of a task that has ended become free once none of its commands is left. What a debug
stop of the array is, is the model's reading (log entry 61). -/
def Obligations.UnitSteps : Prop :=
  ∀ (s : State) (n core : Nat) (b : BitVec 1),
    let v := s.sfuOf n
    let c := s.fwd core
    let k := s.core c
    (v.ring ≠ [] → v.idleAt ≤ s.clock.cc → ∃ r ∈ v.ring, ∃ u,
      (∀ q ∈ v.ring, ringDistance v.last r.1 ≤ ringDistance v.last q.1) ∧ exec (.sfuAccept n) s = .next u ∧
      u.sfuOf n = ⟨v.ring.erase r, v.accepted ++ [(s.clock.cc, r)], l1Slice r.1.core, s.clock.cc + 2⟩) ∧
    (∀ t x seq rest e f T w d m ftz h, v.accepted = (t, x, seq) :: rest → t + 40 ≤ s.clock.cc →
      (s.strand x).inflight.find? (fun e => e.seq = seq) = some e → e.req = some (.sfu f T w d m ftz, .sent h) →
      ∃ u, exec (.sfuResult n) s = .next u ∧ (u.sfuOf n).accepted = rest ∧ u.mem = s.mem ∧
        (u.strand x).pending = addPending (s.strand x).pending
          ⟨e.faultVc, seq, .g d (BitVec.ofNat 64 (sfuValue f T m ftz w.toNat))⟩) ∧
    (∀ a, s.arrayGoes c = true →
      let idle := k.array.filter fun a => !a.zero && a.start.isNone
      let due := idle.find? fun a => a.hstart.any fun n => n ≤ s.cmdVc a
      let clear := s.conflictsEarlier a.id a.locks [] = false
      ((∀ e ∈ idle, e.hstart = none) → idle.find? (fun a => orderReached k.array a) = some a → a.waitCopy = none →
        s.freeCc c a ≤ s.clock.cc → s.tagBad c a = none → clear →
        exec (.arrayCommandStart core) s = .next ((s.startCmd c a).enginesLook c)) ∧
      (due = some a → orderReached k.array a = true → s.freeCc c a ≤ s.clock.cc → s.tagBad c a = none →
        ((clear ∨ a.hseq ≠ none) → exec (.arrayCommandStart core) s = .next ((s.startCmd c a).enginesLook c)) ∧
        (¬clear → a.hseq = none →
          exec (.arrayCommandStart core) s = .next ((s.failCmd c a ⟨.timing, 2, 0⟩ a.first).enginesLook c))) ∧
      (due = some a → (orderReached k.array a = false ∨ s.clock.cc < s.freeCc c a) →
        exec (.arrayCommandStart core) s = .next ((s.failCmd c a ⟨.timing, 1, 0⟩ a.first).enginesLook c))) ∧
    (∀ a w, (k.array.filter fun a => a.start.isSome && !s.stepHeld a a.step).find? (fun a => a.ends = 0 || a.ends ≤ s.clock.cc) = some a →
      a.start = some w →
      a.ends ≠ 0 →
      let t := s.stepsDone a (· = a.step)
      (t.stepBad c a a.step = none → dscSteps a.dsc ≤ a.step + 1 → exec (.kStepEnd core) s =
        .next ((((t.applyStep c a a.step).dropCmd c a).holdCheck a.owner).enginesLook c)) ∧
      (t.stepBad c a a.step = none → a.step + 1 < dscSteps a.dsc → s.arrayGoes c = true →
        let d := { a with step := a.step + 1, prev := a.ends, ends := 0 }
        exec (.kStepEnd core) s = .next (((((t.applyStep c a a.step).modArray c a.id fun _ => d).beginStep c d w).holdCheck
          a.owner).enginesLook c)) ∧
      (∀ z, t.stepBad c a a.step = some z → exec (.kStepEnd core) s =
        .next (((t.failCmd c a ⟨.integrity, z, 0⟩ a.step).holdCheck a.owner).enginesLook c))) ∧
    (∀ a, s.arrayGoes c = true →
      k.array.find? (fun a => a.zero && orderReached k.array a && (earlierCmds k.array a.id).all fun e => e.bank ≠ a.bank) = some a →
      ∃ u, exec (.mzeroApply core) s = .next u ∧ u.mem = s.mem ∧
        (u.core c).array = (k.array.filter fun e => e.id ≠ a.id) ∧
        ∀ m e, e < 1024 → (u.core c).accAt m e = if m = a.bank then 0 else k.accAt m e) ∧
    (k.releasing.contains b.toNat = true → k.bankBusy b.toNat = false → k.leftBy (precOstr (k.prec b.toNat)) = true →
      exec (.bankRelease core b) s = .next s) ∧
    (k.releasing.contains b.toNat = true → k.bankBusy b.toNat = false → k.leftBy (precOstr (k.prec b.toNat)) = false →
      ∃ u, exec (.bankRelease core b) s = .next u ∧ u.mem = s.mem ∧
        (u.core c).prec b.toNat = k.prec b.toNat &&& 0xFFFF0FFFFFFFFFFF ∧
        (u.core c).prec (1 - b.toNat) = k.prec (1 - b.toNat) ∧
        (u.core c).releasing = (k.releasing.filter fun n => n ≠ b.toNat))

/-! ## The steps of pre-emption and debug -/

/-- R368, R369, R371, R372, R377, R379, R383 to R385: the signal fixes the stop vc; a strand stops there with its registers;
an engine's marker passes and the last one stops the job; a move takes the core's strands along and leaves its forwarding
entry, and that a core which forwards already has none to take is the model's choice (log entry 59), while SVEC stays with each core
by its reading (log entry 41); STOP, GO, and the stops of debugging and stepping, whose write of BRKEN and STEP is log entry 19. -/
def Obligations.StoppingSteps : Prop :=
  ∀ (s : State) (x : SId) (w : Word) (j a b : Nat) (e : Engine),
    let me := s.strand x
    let S := s.rotation x
    (me.run = .running → me.drainT = none → (s.job (s.jobOf x)).run = .stopping →
      (me.gang = none → (me.regs.csr.status.priv && me.regs.csr.status.inh) = false →
        let t := nextSlot S me.phase (if me.base ≤ s.clock.cc then me.vcAt s.clock.cc + 1 else 0)
        ∃ u, exec (.quiesceSignalArrival x) s = .next u ∧ (u.strand x).drainT = some t ∧ (u.strand x).regs = me.regs ∧
          (∀ y, y ≠ x → u.strand y = s.strand y) ∧
          ⟨s.clock.cc + (me.base + t - s.clock.cc), .domainStop x⟩ ∈ u.agenda) ∧
      (me.gang = none → (me.regs.csr.status.priv && me.regs.csr.status.inh) = true →
        exec (.quiesceSignalArrival x) s = .next (s.modStrand x fun st => { st with drainCc := s.clock.cc + 24 })) ∧
      (me.gang ≠ none → me.drainCc = 0 →
        (∀ y ∈ s.runners x, ((s.strand y).regs.csr.status.priv && (s.strand y).regs.csr.status.inh) = false) →
        ∃ u, exec (.quiesceSignalArrival x) s = .next u ∧
          ∀ y ∈ s.runners x, (u.strand y).drainT = some (roundUp S (s.clock.cc + 24 - me.base)))) ∧
    (∀ t, me.gang = none → me.run = .running → me.dying = false → me.held = 0 → me.drainT = some t → me.quiet = true →
      let v := roundUp S (Nat.max t (me.vcAt s.clock.cc))
      me.base + v ≤ s.clock.cc → ∃ u, exec (.domainStop x) s = .next u ∧ (u.strand x).run = .drained ∧
        (u.strand x).drainT = some v ∧ (u.strand x).pc = me.pc ∧
        (u.strand x).regs = { me.regs with csr := { me.regs.csr with vshift := me.regs.csr.vshift + BitVec.ofNat 64 (v - t) } }) ∧
    ((s.job j).run = .stopping → (s.job j).markers.contains e = true → s.markerReady j e = true →
      ∃ u, exec (.quiesceMarkerPass j e) s = .next u ∧ u.mem = s.mem ∧ (u.job j).markers = (s.job j).markers.erase e ∧
        ((∀ y ∈ s.tasksOf j, (s.strand y).run ≠ .running) → (s.job j).markers = [e] → (u.job j).run = .stopped)) ∧
    ((s.core a).forward = none → a ≠ b → (∃ y ∈ s.allStrands, ∃ p, (s.strand y).park = some p ∧ p.on = .migrate a b) →
      ∃ u, exec (.migrationComplete a b) s = .next u ∧ (u.core a).forward = some b ∧
        (u.core a).svec = (s.core a).svec ∧ (u.core b).svec = (s.core b).svec ∧ (u.core b).scratch = (s.core a).scratch ∧
        (u.core b).tags = (s.core a).tags ∧ (u.core b).acc = (s.core a).acc ∧
        (∀ n, (u.strand ⟨b, n⟩).regs = (s.strand ⟨a, n⟩).regs ∧ (u.strand ⟨b, n⟩).pc = (s.strand ⟨a, n⟩).pc) ∧
        u.mem.cells = s.mem.cells) ∧
    ((s.core a).forward ≠ none → a ≠ b → (∃ y ∈ s.allStrands, ∃ p, (s.strand y).park = some p ∧ p.on = .migrate a b) →
      ∃ u, exec (.migrationComplete a b) s = .next u ∧ u.core a = s.core a ∧ (∀ y, u.strand y = s.strand y) ∧ u.mem = s.mem ∧
        (u.core b).job = (match (s.core a).job with | some j => some j | none => (s.core b).job)) ∧
    (me.run = .running ∨ me.run = .drained → ∃ u, exec (.dbgctlStop x w) s = .next u ∧ (u.strand x).stopAsked = true ∧
      (u.strand x).brken = w.getLsbD 3 ∧ (u.strand x).stepBit = w.getLsbD 2 ∧ (u.strand x).regs = me.regs ∧ u.mem = s.mem) ∧
    (me.run = .halted → me.gang = none → ∃ u, exec (.dbgctlGo x w) s = .next u ∧ (u.strand x).run = .idle ∧
      (u.strand x).park = none ∧ (u.strand x).pending = [] ∧ ∃ d ∈ u.agenda, d.what = .pop x) ∧
    (me.run = .running → me.stopAsked = true → me.standing = true → ∀ i ∈ [Instr.debugStop x, .stepStop x],
      ∃ u, exec i s = .next u ∧ (u.strand x).run = .debugStopped ∧ (u.strand x).stopAsked = false ∧
        (u.strand x).dbgCode = (if me.stepping then 0x15 else me.dbgCode) ∧ (u.strand x).regs = me.regs ∧
        (u.strand x).pc = me.pc)

/-! ## The steps of agents outside the cores -/

/-- R8, R9, R185, R187, R401, R402, R405, R407, R408 and R413: a walk leaves what it read in the TLB and the die's cache and changes
no memory; a host or peer request reads or writes, through the home, and a peer's atomic is performed there; an answer carries a mark
for each sector; a snoop recalls a host line; an uncorrectable soft error marks its sector, in memory, in scratch or in one cached
copy; a register write changes the register's writable bits alone. That a read answers the whole line of its address is the model's
choice (log entry 42), and that an atomic that meets a bad sector changes nothing (log entry 59). -/
def Obligations.MemoryAgentSteps : Prop :=
  ∀ (s : State) (cluster job pa n c : Nat) (va v : Word) (k : Access) (poison peer : Bool) (bs : List Byte),
    let die := clusterDie cluster
    let line := pa / 128 * 128
    (s.heldLeaf cluster job va.toNat = none →
      let alone : Prop := ∀ y ∈ s.allStrands, (s.strand y).lates = []
      (s.walkHeld cluster job va.toNat = none → alone → exec (.pageWalk cluster job va k) s = .next s) ∧
      (∀ e es, s.walkHeld cluster job va.toNat = some (e :: es) → ∃ u, exec (.pageWalk cluster job va k) s = .next u ∧
        ⟨some cluster, die, job, e.2.1, e.2.2, e.1⟩ ∈ u.mem.tlb ∧
        (∀ f ∈ e :: es, ⟨none, die, job, f.2.1, f.2.2, f.1⟩ ∈ u.mem.tlb) ∧ (∀ f ∈ s.mem.tlb, f ∈ u.mem.tlb) ∧
        u.mem = { s.mem with tlb := u.mem.tlb } ∧ (alone → u = { s with mem := { s.mem with tlb := u.mem.tlb } }))) ∧
    (s.fw.recovery = false →
      (line + 128 ≤ Config.hbmEnd → (peer = true ∨ s.inHostWindow line 128 = true) → s.loadLocked line 128 = false →
        ∃ u, exec (.ingressRequest pa .read poison peer) s = .next u ∧ u.mem = (s.homeAll line 128 false).mem ∧
          let v := s.homeAll line 128 false
          u.out = v.out ++ [.data (v.bytesAt line 128) [v.isBad line, v.isBad (line + 32), v.isBad (line + 64), v.isBad (line + 96)]]) ∧
      (∀ (op : AOp) (m mode : Nat) (y z : Word), 0 < m → pa + m ≤ Config.hbmEnd →
        s.mapLocked pa m = false → s.storeLocked pa m = false → (∀ b ∈ s.sectorMarks pa m, b = false) →
          let old := s.natAt pa m
          let h := s.homeAll pa m true
          let new := atomicNew op m (mode % 8) (mode / 8 = 1) old (y.toNat % 2 ^ (8 * m))
          let w := if op = .cas ∧ old ≠ z.toNat % 2 ^ (8 * m) then h else h.write pa (leBytes m new)
          exec (.ingressRequest pa (.atomic op m y z mode) poison true) s =
            .next (w.answer (.data (leBytes m old) (s.sectorMarks pa m)))) ∧
      (bs ≠ [] →
        (pa + bs.length ≤ Config.hbmEnd → (peer = true ∨ s.inHostWindow pa bs.length = true) →
          s.mapLocked pa bs.length = false → s.storeLocked pa bs.length = false →
          exec (.ingressRequest pa (.write bs) poison peer) s =
            .next (((s.homeAll pa bs.length true).ingress pa bs poison).answer .done)) ∧
        (peer = false → s.inHostWindow pa bs.length = false →
          exec (.ingressRequest pa (.write bs) poison peer) s = .next (s.answer .error))) ∧
      (isHost (n * 128) = true →
        let t : State := (s.modMem fun m => m.recallLine n fun _ => true).answer
          (.snoop (s.bytesAt (n * 128) 128) (s.sectorMarks (n * 128) 128))
        exec (.hostSnoop n none) s = .next t ∧
        exec (.hostSnoop n (some bs)) s = .next (t.ingress (n * 128) (bs.take 128) false))) ∧
    ((∀ z, exec (.softError z true) s = .next s) ∧
      (isMemory (n * 32) = true → ∃ u, exec (.softError (.mem n) false) s = .next u ∧ NSet.has u.mem.bad n = true ∧
        u.mem.cells = s.mem.cells ∧ u.mem.cache = s.mem.cache) ∧
      (∀ p f, s.mem.cached p (n / 4) = some f → ∃ u g, exec (.softError (.copy p n) false) s = .next u ∧
        u.mem.cached p (n / 4) = some g ∧ NSet.has g.bad n = true ∧ u.mem.cells = s.mem.cells ∧ u.mem.bad = s.mem.bad) ∧
      (coreIdOk c = true → n < 8192 → ∃ u, exec (.softError (.scratch c n) false) s = .next u ∧
        u.isBad (Config.scratchLoc c (n * 32)) = true ∧ (u.core c).scratch = (s.core c).scratch)) ∧
    (∀ m, devMask pa = some m → pa < 0x300000A000000 ∨ 0x300000A000800 ≤ pa → pa < 0x300000C000000 ∨ 0x300000C800000 ≤ pa →
      ∃ u, exec (.registerWrite pa v) s = .next u ∧ u.mem.devReg pa = (s.mem.devReg pa &&& ~~~m) ||| (v &&& m) ∧
        (∀ r, r ≠ pa → u.mem.devReg r = s.mem.devReg r) ∧ u = { s with mem := { s.mem with dev := u.mem.dev } })

/-- R414 to R416: posting steps, more of them than the ring holds setting ERR; a step starts where none runs, is carried out
once its peer's bytes are there, and ends with its number counted and its status in a trace record; a failure sets ERR, which no end
of a step clears; a step that exceeds its watchdog ends with status 1. That a record in a bad sector ends with status 2 is the model's
choice (log entry 59). -/
def Obligations.CollectiveSteps : Prop :=
  ∀ (s : State) (d : Nat) (v : Word) (bs : List Byte) (poison : Bool),
    let idx (t : State) : Nat := (t.colHead d).toNat % 2 ^ 32
    let busy (t : State) : Option (Rec512 × Nat) := (Tab.get Collective.idle t.coll d).running
    let r := s.colStep d
    let t : State := s.modMem fun m => m.writeDev (colReg d + 8) v
    ((t.colPosted d ≤ 2 ^ t.colLog2 d → exec (.coltailWrite d v) s = .next (t.post 0 (.collectiveStepStart d))) ∧
      (2 ^ t.colLog2 d < t.colPosted d → ∃ u, exec (.coltailWrite d v) s = .next u ∧ u.colErr d = true ∧ idx u = idx t)) ∧
    (∃ u, exec (.colheadErrClear d) s = .next u ∧ u.colErr d = false ∧ idx u = idx s ∧ u.mem.cells = s.mem.cells) ∧
    (busy s = none → s.colErr d = false → s.colPosted d ≠ 0 → d < 8 → (s.job (stepJob r)).run = .running →
      let w : State := { s.colEvent d r 0 0 with coll := Tab.put s.coll d ⟨some (r, s.clock.ns)⟩ }
      let bad := (w.sectorMarks (w.colStepAt d) 64).any id
      (bad = true → exec (.collectiveStepStart d) s = .next (w.colEnd d r 2)) ∧
      (bad = false → stepRecordBad r = true → exec (.collectiveStepStart d) s = .next (w.colEnd d r 3)) ∧
      (bad = false → stepRecordBad r = false → ∃ u, exec (.collectiveStepStart d) s = .next u ∧ busy u = some (r, s.clock.ns) ∧
        u.mem = (s.colEvent d r 0 0).mem)) ∧
    (∀ q t, busy s = some (q, t) →
      (∀ u, s.colRun d q bs poison = .inl u → exec (.collectiveStepEnd d bs poison) s = .next (u.colEnd d q 0)) ∧
      (∀ n, s.colRun d q bs poison = .inr n → exec (.collectiveStepEnd d bs poison) s = .next (s.colEnd d q n)) ∧
      (stepWdog q ≠ 0 → t + stepWdog q ≤ s.clock.ns → exec (.watchdogExpiry d) s =
        .next ((s.colEvent d q 2 1).colEnd d q 1))) ∧
    (d < 8 → ∀ q n, busy (s.colEnd d q n) = none ∧ (s.colEnd d q n).colErr d = (s.colErr d || (n ≠ 0 : Bool)) ∧
      idx (s.colEnd d q n) = (idx s + 1) % 2 ^ 32)

/-- R423, R425, R426, R428 to R431: Madder's histogram is cleared by CLR and counts a sample in the bin of the strand's next group
and of its slot's highest state; a 1588 message slews the time unit by at most 200 ppm; the clamp lowers the core clock; a device reset
boots the accepted firmware with every register at reset, measures and loads an accepted runtime image and starts it at supervisor
privilege, or waits in recovery, where an image can be written, firmware sets nothing, no 1588 message comes, no queue is enabled and
no job is made; a report carries the nonce and measurements, signed with the identity key. The model's choices: the report's order and
length (log entry 7), the row of a slot in no state that R426 lists, a free value (10), the clamp's step, which never raises the clock
(27), where the power limit is written (28), that a device reset drops HBM's contents (43), and what a runtime strand starts with and
that queues and jobs wait for firmware (60). -/
def Obligations.DeviceSteps : Prop :=
  ∀ (s : State) (d watts celsius forward : Nat) (v : Word) (x : SId) (lock : Bool) (offset : BitVec 32)
      (slew : Int) (flash image : Image) (boot : Boot) (nonce : Rec512),
    (∃ u, exec (.madcfgClr d v) s = .next u ∧ (∀ e ∈ u.mem.bins, e.1 / 65536 ≠ d) ∧
      (∀ n, n / 65536 ≠ d → Tab.get 0 u.mem.bins n = Tab.get 0 s.mem.bins n) ∧ u.mem.cells = s.mem.cells) ∧
    (∀ per, s.sampling x = some per → s.sampleCc x per = s.clock.cc →
      let engine := 0x300000C000000 + coreDie x.core * 0x100000
      let shift := bitsOf (s.mem.devReg engine) 61 56
      let base := bitsOf (s.mem.devReg (engine + 8)) 56 0
      let p := (s.strand x).groupPc.toNat
      let bucket := if p < base then 4095 else Nat.min 4095 ((p - base) / 2 ^ shift)
      let rows := s.slotRows x (s.clock.cc - (s.strand x).base)
      let row := if rows = [] then (Config.unlistedSlot s.clock.cc).toNat else rows.foldl Nat.max 0
      let n := coreDie x.core * 65536 + 16 * bucket + row
      ∃ u, exec (.madderSample x) s = .next u ∧
        (Tab.get 0 u.mem.bins n).toNat = Nat.min ((Tab.get 0 s.mem.bins n).toNat + 1) (2 ^ 32 - 1) ∧
        (∀ m, m ≠ n → Tab.get 0 u.mem.bins m = Tab.get 0 s.mem.bins m) ∧
        u.strand x = { s.strand x with sampled := s.clock.cc + 1 }) ∧
    (s.fw.recovery = true → exec (.ptpMessage lock offset slew forward) s = .next s ∧
      exec (.registerWrite (2 ^ 52 + 32) v) s = .next s) ∧
    (s.fw.measured = none → ∀ q j cores counters part channels phase,
      (∃ u, exec (.qcfgWrite q v) s = .next u ∧ (u.queue q).en = false) ∧
      exec (.jobCreate j cores counters part channels phase) s = .next s) ∧
    (s.fw.recovery = false → ∃ u, exec (.ptpMessage lock offset slew forward) s = .next u ∧ u = { s with clock := u.clock } ∧
      u.clock.lock = lock ∧ u.clock.cc = s.clock.cc ∧ -200 ≤ u.clock.ppm ∧ u.clock.ppm ≤ 200 ∧
      (-200 ≤ slew → slew ≤ 200 → u.clock.ppm = slew) ∧
      u.clock.ns = (if lock = true ∧ s.clock.lock = false then s.clock.ns + forward else s.clock.ns) ∧
      (offset ≠ 0x80000000 → u.clock.offset = offset)) ∧
    (∃ u, exec (.clampSample watts celsius) s = .next u ∧ u = { s with clock := u.clock } ∧ u.clock.cc = s.clock.cc ∧
      u.clock.ns = s.clock.ns ∧
      u.clock.mhz = (if s.fw.powerLimit < watts ∨ 105 < celsius then Nat.max 300 (s.clock.mhz - 25) else s.clock.mhz)) ∧
    (let i := s.fw.flash.getD flash
      let good (i : Image) : Prop := i.signed = true ∧ Config.minVersion ≤ i.version
      ∃ u, exec (.deviceReset flash.bytes flash.signed flash.version boot) s = .next u ∧ u.jobs = [] ∧ u.fw.flash = some i ∧
        (good i → u.fw.recovery = false ∧ u.fw.measured = some (Config.shake256 i.bytes) ∧
          (∀ r, boot.runtime = some r → good r → u.fw.runtime = some (Config.shake256 r.bytes) ∧
            (∀ y pc, boot.starts = [(y, pc)] → coreIdOk y.core = true → y.strand < 7 →
              let st := u.strand y
              st.run = .running ∧ st.pc = pc ∧ st.regs.csr.status = { Status.reset with priv := true } ∧ st.regs.g = [])) ∧
          ((boot.runtime = none ∨ ∃ r, boot.runtime = some r ∧ ¬good r) → u.fw.runtime = none ∧
            (boot.regs = [] → u.mem = MemSys.reset ∧
              ∀ c, coreIdOk c = true → u.core c = { Core.reset with svec := boot.svec &&& 0x01FFFFFFFFFFFFFC }))) ∧
        (¬good i → u.fw.recovery = true ∧ u.fw.measured = none ∧ u.fw.runtime = none ∧ u.mem = MemSys.reset ∧ u.cores = [])) ∧
    (s.fw.recovery = true → exec (.recoveryImageWrite image.bytes image.signed image.version) s =
       .next { s with fw := { s.fw with flash := some image } }) ∧
    (s.fw.recovery = false → ∃ body, exec (.attestationRequest nonce) s =
        .next (s.answer (.report (body ++ Config.ed448Sign (Config.shake256Key Config.fusedSecret) body))) ∧
      body.take 64 = leBytes 64 nonce.toNat ∧ (body.drop 64).take 64 = leBytes 64 (s.fw.measured.getD 0).toNat ∧
      (body.drop 128).take 64 = leBytes 64 (s.fw.runtime.getD 0).toNat ∧ body.length = 208)

/-! ## Words, steps and the whole machine -/

/-- R98 to R117: words written out from the encoding tables decode to the instructions that the spec's own examples and maps
give them; words with a reserved code decode to nothing. -/
def Obligations.WordsDecode : Prop :=
  decode 0x00514201 = some (.add 5 5 2) ∧ decode 0x78308206 = some (.vadd 3 2 2 .s32) ∧
  decode 0x8CA24900 = some (.mprecShort 10 9 9 0) ∧ decode 0x6C000002 = some (.wbar 0) ∧
  decode 0xB0228002 = some (.launch 2 10) ∧ decode 0x68510630 = some (.aadd 5 4 6 1 true) ∧
  decode 0x6841400F = some (.fence .sync .system) ∧ decode 0xB8000500 = some (.trap 5) ∧ decode 0xB8000001 = some .eret ∧
  decode 0xB8010503 = some (.migrate 4 5) ∧ decode 0xB861C006 = some (.rdperf 6 7) ∧ decode 0x74028B00 = some (.cpy 10 11) ∧
  decode 0xB4000003 = some .tend ∧ decode 0x87D04032 = some (.vmov 61 1 .b32) ∧ decode 0x1C200008 = some (.csrr 2 8) ∧
  decode 0 = some .nop ∧ decode 0xFFFFFFFF = none ∧ decode 0x00000100 = none ∧ decode 0x0000001B = none ∧
  decode 0x9C000000 = none

/-- R107: of several faults the first check decides: hints that do not attach, then registers beyond the partition, then
privilege; each names its EVAL, and the instruction has no other effect than the trap. That the register named is that of the first
such field in the order d, a, b is the model's reading (log entry 14). -/
def Obligations.ChecksInOrder : Prop :=
  ∀ (s t : State) (c : Ctx) (att : Attach) (us : List Use) (super : Bool), Issuing s t c →
    let hints := (t.strand c.sid).group
    (∀ w, badHint att us hints = some w → decodeTrap att us super t c = some ⟨.illegal, w.setWidth 64, 0⟩) ∧
    (∀ r, badHint att us hints = none → beyondPartition (t.core c.sid.core).part c.h us = some r →
      decodeTrap att us super t c = some ⟨.illreg, r, 0⟩) ∧
    (badHint att us hints = none → beyondPartition (t.core c.sid.core).part c.h us = none →
      super = true → c.regs.csr.status.priv = false → decodeTrap att us super t c = some ⟨.priv, 0, 0⟩) ∧
    (∀ (u : Use) (rest : List Use) (part : Part), u.vec = false → part.gregs ≤ c.h.x u →
      beyondPartition part c.h (u :: rest) = some (BitVec.ofNat 64 (c.h.x u))) ∧
    (∀ (d a b : RField) (n : BitVec 12) (q : QField) (o : BitVec 11) (f : TrapInfo),
      let R (att : Attach) (us : List Use) (super : Bool) (i : Instr) : Prop :=
        decodeTrap att us super t c = some f → exec i s = .next (t.faulted c f)
      R {} [gD d, gA a, gB b] false (.add d a b) ∧ R loadHints [gD d, gA b] false (.ldB64 d b q o) ∧
      R policyHints [gD d, gA b] false (.stB64 d b q o) ∧ R {} [gA a] true (.quiesce a) ∧
      R {} [gA a, gB b] true (.migrate a b) ∧ R { scope := true } [gA a, gB b] true (.tlbinv a b) ∧
      R {} [] false (.trap n) ∧ R {} [] false .tend)

/-- R98, R104, R107, R121: where the next step is a strand's issue, the device fetches the word at its program counter and runs
exactly what it decodes to; a word that is none raises ILLEGAL with the word in EVAL, one of the hint opcode with the group's
instruction, and a fetch that fails raises its fault. A word that has not been fetched by its slot holds its domain there
(R124). Where it is another agent's step, that step is taken; where nothing is due, a core cycle passes. That a fault of a word
after HDLY is raised at the delayed vc is the model's choice (log entry 59).
Every step of another agent that the agenda holds, or that a strand's rules make due, runs as the row of the opcode table
of its name. -/
def Obligations.StepRunsTheDecodedInstruction : Prop :=
  (∀ (s t : State) (at_ : Nat) (x : SId),
     (s.pick = some (at_, .issue x) → (s.atFetch x).fetchLate x = 0 →
       (∀ w i, (s.atFetch x).fetch x = (t, .inl w) → decode w = some i → step s = exec i t) ∧
       (∀ w, (s.atFetch x).fetch x = (t, .inl w) → decode w = none → isHintWord w = false →
         step s = issueWith t fun _ _ => .fault ⟨.illegal, w.setWidth 64, 0⟩) ∧
       (∀ w, (s.atFetch x).fetch x = (t, .inl w) → decode w = none → isHintWord w = true → step s = issueHint t w) ∧
       (∀ f, (s.atFetch x).fetch x = (t, .inr f) → step s = issueWith t fun _ _ => .fault f)) ∧
     (∀ n, s.pick = some (at_, .issue x) → (s.atFetch x).fetchLate x = n + 1 →
       step s = .next ((s.atFetch x).holdFetch x (n + 1))) ∧
     (∀ e, s.pick = some (at_, .duty e) → step s = e.run (s.atEvent (at_, .duty e))) ∧
     (∀ n e, s.pick = some (at_, .agenda n e) → step s = e.run (s.atEvent (at_, .agenda n e))) ∧
     (s.pick = none → step s = .next (s.tick (s.clock.cc + 1)))) ∧
  (∀ (s : State) (queue job counter die rotations seq word core op pick port cluster channel gang source dest pa line forward
       watts celsius address counters : Nat) (aligned poison peer lock correctable : Bool) (record
       nonce : Rec512) (value va : Word) (queue' phase : Option Nat) (sid : SId) (delay : BitVec 16) (bank :
       BitVec 1) (engine : Engine) (access : Access) (request : Ingress) (data : Option (List Byte)) (incoming : List Byte)
       (image : List Byte) (signed : Bool) (version : Nat) (boot : Boot) (offset : BitVec 32) (slew : Int) (struck : Struck) (refuse : Option (BitVec 6)) (cores : List Nat) (part :
       Part) (channels : List (Nat × Nat)),
     let R (e : Event) (i : Instr) : Prop := e.run s = exec i s
     R (.launchRecord queue aligned record) (.launchRecord queue aligned record) ∧
     R (.counterRecord queue aligned record) (.counterRecord queue aligned record) ∧
     R (.qcfgWrite queue value) (.qcfgWrite queue value) ∧ R (.dispatcherTake queue') (.dispatcherTake queue') ∧
     R (.gangStart job counter) (.gangStart job counter) ∧ R (.dealUnit job counter) (.dealUnit job counter) ∧
     R (.unitRetire job counter) (.unitRetire job counter) ∧ R (.phaseAgentArrival job die) (.phaseAgentArrival job die) ∧
     R (.phaseBarrier job) (.phaseBarrier job) ∧ R (.cancelComplete job counter) (.cancelComplete job counter) ∧
     R (.pop sid) (.pop sid) ∧ R (.stealRequest sid) (.stealRequest sid) ∧ R (.stealReply sid) (.stealReply sid) ∧
     R (.stealRoundRetry sid) (.stealRoundRetry sid) ∧ R (.lateEventTest sid) (.lateEventTest sid) ∧
     R (.holdEnd sid rotations) (.holdEnd sid rotations) ∧ R (.landing sid) (.landing sid) ∧
     R (.deferredEffect sid) (.deferredEffect sid) ∧ R (.parkResume sid) (.parkResume sid) ∧
     R (.requestRetry sid seq) (.requestRetry sid seq) ∧ R (.storePerformed sid delay) (.storePerformed sid delay) ∧
     R (.fullEmptyHomeOperation word) (.fullEmptyHomeOperation word) ∧ R (.rangeStep sid) (.rangeStep sid) ∧
     R (.registration sid) (.registration sid) ∧ R (.copyStart core) (.copyStart core) ∧
     R (.byteLanding core op pick) (.byteLanding core op pick) ∧ R (.heldFlipApply core) (.heldFlipApply core) ∧
     R (.messageArrival core pick) (.messageArrival core pick) ∧ R (.followOnStart core) (.followOnStart core) ∧
     R (.linkWordArrival core port) (.linkWordArrival core port) ∧ R (.streamWordArrival core) (.streamWordArrival core) ∧
     R (.routeGrant core) (.routeGrant core) ∧ R (.routeAutoClose sid) (.routeAutoClose sid) ∧
     R (.sfuAccept cluster) (.sfuAccept cluster) ∧ R (.sfuResult cluster) (.sfuResult cluster) ∧
     R (.arrayCommandStart core) (.arrayCommandStart core) ∧ R (.kStepEnd core) (.kStepEnd core) ∧
     R (.mzeroApply core) (.mzeroApply core) ∧ R (.bankRelease core bank) (.bankRelease core bank) ∧
     R (.sequencerAccept sid seq) (.sequencerAccept sid seq) ∧ R (.mapnewComplete sid) (.mapnewComplete sid) ∧
     R (.mapgetnDispatch core op) (.mapgetnDispatch core op) ∧
     R (.mapgetnResult core op pick) (.mapgetnResult core op pick) ∧ R (.mapscanSliceStep sid) (.mapscanSliceStep sid) ∧
     R (.settleStep sid) (.settleStep sid) ∧ R (.mapclrShardStep sid) (.mapclrShardStep sid) ∧
     R (.mapinfoAnswer sid) (.mapinfoAnswer sid) ∧ R (.woadArrival sid) (.woadArrival sid) ∧
     R (.woadRelease channel) (.woadRelease channel) ∧ R (.gangstallExpiry gang) (.gangstallExpiry gang) ∧
     R (.quiesceSignalArrival sid) (.quiesceSignalArrival sid) ∧ R (.domainStop sid) (.domainStop sid) ∧
     R (.quiesceMarkerPass job engine) (.quiesceMarkerPass job engine) ∧
     R (.migrationComplete source dest) (.migrationComplete source dest) ∧
     R (.dbgctlStop sid value) (.dbgctlStop sid value) ∧ R (.dbgctlGo sid value) (.dbgctlGo sid value) ∧
     R (.debugStop sid) (.debugStop sid) ∧ R (.stepStop sid) (.stepStop sid) ∧
     R (.pageWalk cluster job va access) (.pageWalk cluster job va access) ∧
     R (.tlbinvComplete sid) (.tlbinvComplete sid) ∧
     R (.ingressRequest pa request poison peer) (.ingressRequest pa request poison peer) ∧
     R (.hostSnoop line data) (.hostSnoop line data) ∧ R (.coltailWrite die value) (.coltailWrite die value) ∧
     R (.colheadErrClear die) (.colheadErrClear die) ∧ R (.collectiveStepStart die) (.collectiveStepStart die) ∧
     R (.collectiveStepEnd die incoming poison) (.collectiveStepEnd die incoming poison) ∧
     R (.watchdogExpiry die) (.watchdogExpiry die) ∧ R (.madcfgClr die value) (.madcfgClr die value) ∧
     R (.madderSample sid) (.madderSample sid) ∧
     R (.ptpMessage lock offset slew forward) (.ptpMessage lock offset slew forward) ∧
     R (.clampSample watts celsius) (.clampSample watts celsius) ∧
     R (.deviceReset image signed version boot) (.deviceReset image signed version boot) ∧
      R (.recoveryImageWrite image signed version) (.recoveryImageWrite image signed version) ∧
     R (.attestationRequest nonce) (.attestationRequest nonce) ∧
     R (.registerWrite address value) (.registerWrite address value) ∧
     R (.softError struck correctable) (.softError struck correctable) ∧
     R (.homeSliceRequest sid seq refuse) (.homeSliceRequest sid seq refuse) ∧
     R (.memoryResponse sid seq delay) (.memoryResponse sid seq delay) ∧
     R (.jobCreate job cores counters part channels phase) (.jobCreate job cores counters part channels phase) ∧
     R (.jobDestroy job) (.jobDestroy job))

/-- R98 to R117: decoding the word of a well-formed instruction gives it back, and a word that decodes is the word of what it
decodes to, so that no bit of an encoding is dropped. -/
def Obligations.DecodingInvertsEncoding : Prop :=
  (∀ i : Instr, i.wf = true → i.fields ≠ none → decode (encode i) = some i) ∧
  (∀ (w : IWord) (i : Instr), decode w = some i → encode i = w ∧ i.wf = true)

/-- Every step keeps memory in its canonical form. -/
def Obligations.StepsKeepMemoryCanonical : Prop :=
 ∀ s t : State, s.Inv → step s = .next t → t.Inv

/-- What device reset leaves (R8, R60, R61, R78, R163, R188, R268, R270, R275, R383, R410, R425, R429): no job and no strand
at work, queues off, every full/empty bit full and every sector good, tags and sidecars 0, accumulators 0, precision
registers at their image, and the device registers at their reset values; memory is in its canonical form. For memory outside scratch
that every sector is good is the model's choice (log entry 2). -/
def Obligations.ResetValues : Prop :=
  let r := State.reset
  r.Inv ∧ r.jobs = [] ∧ r.clock.cc = 0 ∧ step r = .next (r.tick 1) ∧
  (∀ q, (r.queue q).en = false ∧ (r.queue q).job = 0 ∧ (r.queue q).prio = 7 ∧ (r.queue q).accepted = 0 ∧
    (r.queue q).refused = 0 ∧ (r.queue q).reason = 0 ∧ (r.queue q).field = 0 ∧ (r.queue q).waiting = []) ∧
  (∀ c, (r.core c).part = .p8 ∧ (r.core c).prec 0 = 0x00000A0091C091C0 ∧ (r.core c).prec 1 = 0x00000A0091C091C0 ∧
    (∀ b e, (r.core c).accAt b e = 0) ∧ (∀ n, Tab.get 0 (r.core c).tags n = 0 ∧ Tab.get 0 (r.core c).sidecars n = 0)) ∧
  (∀ x, (r.strand x).run = .idle ∧ (r.strand x).brken = false ∧ (r.strand x).stepBit = false ∧ (r.strand x).dbgCode = 0) ∧
  (∀ l, r.isEmpty l = false ∧ r.isBad l = false) ∧
  r.mem.devReg 0x3000009000018 = 256 ∧ (∀ d, d < 8 → r.mem.devReg (0x300000C000000 + d * 0x100000) = 0x100000000) ∧
  (∀ w ∈ r.fw.windows, w.enabled = false) ∧ r.fw.windows.length = 8

/-- R357 to R360, R392: entering a trap saves the pc, MPX and the mode in the trap registers, writes no other register and
goes on at TVEC or SVEC; a trap in a supervisor handler halts the strand and kills its job; the return restores what entry
saved. -/
def Obligations.TrapsEnterAndReturn : Prop :=
  ∀ (s : State) (x : SId) (t : TrapInfo) (resume : Word) (element : Option Word),
    let me := s.strand x
    let c := me.regs.csr
    let j := s.job (s.jobOf x)
    let u := (s.enter x t resume element).strand x
    let v := (s.leave x).strand x
    (¬(c.status.inh = true ∧ c.status.priv = true) →
      let task : Bool := t.cause ∈ [Cause.memrace, .schedule, .timing, .gangstall, .mapdesc] ∧ c.status.priv = false ∧
        c.status.inh = false ∧ j.tmask.getLsbD t.cause.code = true ∧ j.tvec ≠ 0
      u.regs.csr = { c with
        status := { ampx := element.isSome, wdone := c.status.wdone, nest := c.status.inh, inh := true, ppriv := c.status.priv,
                    priv := !task },
        cause := BitVec.ofNat 8 t.cause.code, eval := t.eval, eother := t.other, epc := resume, empx := element.getD c.mpx } ∧
      u.pc = (if task then j.tvec else (s.endRegion x).svecOf x.core) ∧
      u.regs.g = me.regs.g ∧ u.regs.v = me.regs.v ∧ u.regs.p = me.regs.p ∧ (s.clear x = true → u.region = Region.empty) ∧
      u.traps = me.traps + 1 ∧ u.park = none ∧
      (∀ y, y ≠ x → ∃ d n, (s.enter x t resume element).strand y = { s.strand y with drainT := d, drainCc := n }) ∧
      ((task = true ∨ me.gang = none ∨ me.drainT = none) → ∀ y, y ≠ x → (s.enter x t resume element).strand y = s.strand y)) ∧
    ((∀ e ∈ (s.core x.core).strands, e.2.regs.csr.svecIn = none ∧ e.2.pending = []) →
      s.svecOf x.core = (s.core x.core).svec) ∧
    (c.status.inh = true → c.status.priv = true → ∃ w : State,
      s.enter x t resume element = (w.killJob (s.jobOf x)).post 0 (.domainStop x) ∧ (w.strand x).run = .halted ∧
      (w.strand x).dbgCode = BitVec.ofNat 8 t.cause.code ∧ (w.strand x).regs = me.regs ∧ w.jobs = s.jobs) ∧
    (v.regs.csr = { c with mpx := if c.status.ampx then c.mpx else c.empx,
                           status := { c.status with ampx := false, priv := c.status.ppriv, inh := c.status.nest, nest := false } } ∧
      v.pc = c.epc ∧ v.regs.g = me.regs.g ∧ v.regs.v = me.regs.v ∧ v.regs.p = me.regs.p ∧ (s.leave x).mem = s.mem) ∧
    (∀ (k : Ctx) (f : TrapInfo), k.sid = x → me.inflight = [] →
      ∃ w : State, s.faultAt k f = w.enter x f k.gpc none ∧ (w.strand x).regs = me.regs ∧ w.mem = s.mem)

/-- R3, R161, R163, R184, R185, R188: bytes in memory and scratch read back as written, little-endian, and no other byte
changes; a sector that is written whole takes a good code, one written in part keeps its mark; full/empty bits stay; the
check code of the string 123456789 is 0x29B1. -/
def Obligations.MemoryReadsBackWhatIsWritten : Prop :=
  (∀ (s : State) (l n v : Nat), 0 < n →
    let t := s.write l (leBytes n v)
    (∀ a, a < l ∨ l + n ≤ a → t.byteAt a = s.byteAt a) ∧ (∀ a, t.isEmpty a = s.isEmpty a) ∧
    (s.Inv → l + n ≤ Config.hostEnd → (∀ k, k < n → s.mem.allocatorOf (l + k) = none) → t.natAt l n = v % 256 ^ n) ∧
    (∀ c o, o + n ≤ 0x40000 → l = Config.scratchLoc c o → Tab.wf 0 (s.core c).scratch = true → t.natAt l n = v % 256 ^ n) ∧
    (Tab.risesFrom 0 s.mem.bad = true → (∀ c, Tab.risesFrom 0 (s.core c).scratchBad = true) →
      (∀ e ∈ s.mem.cache, Tab.risesFrom 0 e.bad = true ∧ (e.untracked = true → placeLevel e.place = 0)) →
      ∀ k, l ≤ 32 * k → 32 * k + 32 ≤ l + n → t.isBad (32 * k) = false) ∧
    (∀ k, 32 * k < l ∨ l + n < 32 * k + 32 → t.isBad (32 * k) = s.isBad (32 * k))) ∧
  checkCode [0x31, 0x32, 0x33, 0x34, 0x35, 0x36, 0x37, 0x38, 0x39] = 0x29B1 ∧
  ∀ bs : List Byte, checkCode bs < 2 ^ 16

/-- The frame of the instructions that only write registers of their strand (R100, R128, R145 to R157, R254 to R260, R263, R389, R390,
R395, R418), the vector forms where they name no link port: where one of them has run and no trap was taken, its strand's registers are
as its earlier writes leave them, but for SRCTR that VCVT's draws advance at its issue (log entry 34), the only new pending writes are
its own to its destination, and everything outside the strand is the same, but for SVEC of its core where an earlier write to it has
landed (R388, R389), which becomes the core's by the model's reading (log entry 49). -/
def Obligations.RegisterInstructionsChangeNothingElse : Prop :=
  ∀ (s t u : State) (c : Ctx) (d a b : RField) (p q r : PField) (i : BitVec 14) (o : BitVec 22) (l m : BitVec 6) (n : BitVec 12)
      (k : VCond) (T U : Fmt), Issuing s t c → Calm s c.sid →
    let me := s.strand c.sid
    let G (y : Dest) : Prop := ∃ v, y = .g (c.h.x (gD d)) v
    let P (y : Dest) : Prop := ∃ v, y = .p p.toNat v
    let N (_ : Dest) : Prop := False
    let V (y : Dest) : Prop := ∃ v, y = .v d.toNat v
    let F (same : Regs → Regs → Prop) (D : Dest → Prop) (i : Instr) : Prop :=
      exec i s = .next u → (u.strand c.sid).run = .running → (u.strand c.sid).traps = me.traps →
        SameOutside c.sid t u ∧ (∀ k, u.byteAt k = s.byteAt k) ∧ same (u.strand c.sid).regs (t.strand c.sid).regs ∧
        ((me.landTo c.vc).regs.csr.svecIn = none →
          SameOutside c.sid s u ∧ same (u.strand c.sid).regs (me.landTo c.vc).regs) ∧
        (∀ y ∈ (u.strand c.sid).pending, y ∈ me.pending ∨ y.seq = me.seq ∧ D y.dest) ∧
        (u.strand c.sid).region = me.region ∧ (u.strand c.sid).storeBuf = me.storeBuf ∧
        (u.strand c.sid).deferred = me.deferred
    let R := F fun x y => x = y
    (∀ j ∈ [Instr.add d a b, .sub d a b, .mul d a b, .mulhs d a b, .mulhz d a b, .div d a b, .divz d a b, .rem d a b,
        .remz d a b, .and d a b, .or d a b, .xor d a b, .andn d a b, .orn d a b, .shl d a b, .shr d a b, .sar d a b, .rol d a b,
        .ror d a b, .min d a b, .max d a b, .minz d a b, .maxz d a b, .slt d a b, .sltz d a b, .seq d a b, .clz d a, .ctz d a,
        .popc d a, .bswp d a, .sxtS8 d a, .sxtS16 d a, .sxtS32 d a, .zxtB8 d a, .zxtB16 d a, .zxtB32 d a, .csel d a b q,
        .movpGP d q, .addi d a i, .movi d i, .lea d i, .bfx d a l m, .bfxS d a l m, .bfi d a l m, .loop d i, .csrr d n,
        .rdtime d, .rdperf d a], R G j) ∧
    (∀ j ∈ [Instr.pand p q r, .por p q r, .pxor p q r, .pnot p q, .movpPG p a, .pcmpEq p a b, .pcmpNe p a b, .pcmpLt p a b,
        .pcmpGe p a b, .pcmpLtu p a b, .pcmpGeu p a b, .pcmpTst p a b, .spoll p], R P j) ∧
    (∀ j ∈ [Instr.nop, .br o, .brp p o, .brpN p o, .brr a], R N j) ∧
    (∀ j ∈ [Instr.call o, .callr a], R (fun y => ∃ v, y = .g 31 v) j) ∧
    R V (.vins d a l T) ∧
    (linkPort d = none → linkPort a = none → linkPort b = none →
      (∀ j ∈ [Instr.vadd d a b T, .vsub d a b T, .vmul d a b T, .vmulh d a b T, .vfma d a b T, .vfms d a b T, .vfnma d a b T,
          .vdiv d a b T, .vmin d a b T, .vmax d a b T, .vabs d a T, .vneg d a T, .vsat d a U T, .vclz d a T, .vpopc d a T,
          .vand d a b T, .vor d a b T, .vxor d a b T, .vandn d a b T, .vshl d a b T, .vshr d a b T, .vsar d a b T, .vsel d a b q,
          .vdot4 d a b T, .vdot2 d a b T, .vshuf d a b T, .vperm d a b T, .vredadd d a T, .vredmin d a T, .vredmax d a T, .vrng d a b,
          .vmov d a T], R V j) ∧
      F (fun x y => x = { y with csr := { y.csr with srctr := x.csr.srctr } }) V (.vcvt d a U T)) ∧
    (linkPort d = none → R V (.vsplat d a T)) ∧ (linkPort a = none → R G (.vext d a l T)) ∧
    (linkPort a = none → linkPort b = none → R P (.vcmp k p a b T))

/-- The frame of the stores (R192, R193, R196, R342): where one has run and no trap was taken, no register of its strand
changes but as earlier writes land, and no byte of memory but those it stores to, those that its open region still held back
and those of an untracked copy that its line displaces from a cache (R171). -/
def Obligations.StoresChangeOnlyTheirBytes : Prop :=
  ∀ (s t u : State) (c : Ctx) (d b : RField) (qn : QField) (o : BitVec 11), Issuing s t c → Calm s c.sid →
    let me := s.strand c.sid
    let p := c.q qn
    let R (i : Instr) (n : Nat) (ea : Word) (need : Need) : Prop :=
      ∀ l leaf, t.resolve c.sid ea p need = .at_ l leaf → (∀ e, leaf = some e → e.getLsbD 54 = false) →
        exec i s = .next u → (u.strand c.sid).run = .running → (u.strand c.sid).traps = me.traps →
          (∀ a, a < l ∨ l + n ≤ a → (∀ h ∈ me.region.held, h.loc ≠ a) → (∀ e ∈ s.mem.cache, NSet.has e.dirty a = false) →
            u.byteAt a = s.byteAt a) ∧
          (u.strand c.sid).regs = (t.strand c.sid).regs ∧
          ((me.landTo c.vc).regs.csr.svecIn = none → (u.strand c.sid).regs = (me.landTo c.vc).regs) ∧
          (∀ y ∈ (u.strand c.sid).pending, y ∈ me.pending) ∧
          (∀ y, y ≠ c.sid → (u.strand y).regs = (s.strand y).regs) ∧ u.jobs = s.jobs
    let ea (n : Nat) : Word := c.g (gA b) + o.signExtend 64 * BitVec.ofNat 64 n
    let need (n : Nat) : Need := { Need.write with dev := n = 8 }
    R (.stB8 d b qn o) 1 (ea 1) (need 1) ∧ R (.stB16 d b qn o) 2 (ea 2) (need 2) ∧ R (.stB32 d b qn o) 4 (ea 4) (need 4) ∧
    R (.stB64 d b qn o) 8 (ea 8) (need 8) ∧ R (.stv d b qn o) 16 (ea 16) (need 16) ∧
    R (.stnLo d b qn) 1 (c.g (gA b)) Need.write ∧ R (.stnHi d b qn) 1 (c.g (gA b)) Need.write
end

