-- ==== Sys2Proof/Laws/Exec.lean ====
section
/-! SUPPORT. What exec answers for each instruction, as one equation per constructor. -/

namespace Sys2Proof.Machine

@[simp] theorem exec_nop (s : State) :
    exec (.nop) s = execNop s := rfl
@[simp] theorem exec_add (d : RField) (a : RField) (b : RField) (s : State) :
    exec (.add d a b) s = execAdd d a b s := rfl
@[simp] theorem exec_sub (d : RField) (a : RField) (b : RField) (s : State) :
    exec (.sub d a b) s = execSub d a b s := rfl
@[simp] theorem exec_mul (d : RField) (a : RField) (b : RField) (s : State) :
    exec (.mul d a b) s = execMul d a b s := rfl
@[simp] theorem exec_mulhs (d : RField) (a : RField) (b : RField) (s : State) :
    exec (.mulhs d a b) s = execMulhs d a b s := rfl
@[simp] theorem exec_mulhz (d : RField) (a : RField) (b : RField) (s : State) :
    exec (.mulhz d a b) s = execMulhz d a b s := rfl
@[simp] theorem exec_div (d : RField) (a : RField) (b : RField) (s : State) :
    exec (.div d a b) s = execDiv d a b s := rfl
@[simp] theorem exec_divz (d : RField) (a : RField) (b : RField) (s : State) :
    exec (.divz d a b) s = execDivz d a b s := rfl
@[simp] theorem exec_rem (d : RField) (a : RField) (b : RField) (s : State) :
    exec (.rem d a b) s = execRem d a b s := rfl
@[simp] theorem exec_remz (d : RField) (a : RField) (b : RField) (s : State) :
    exec (.remz d a b) s = execRemz d a b s := rfl
@[simp] theorem exec_and (d : RField) (a : RField) (b : RField) (s : State) :
    exec (.and d a b) s = execAnd d a b s := rfl
@[simp] theorem exec_or (d : RField) (a : RField) (b : RField) (s : State) :
    exec (.or d a b) s = execOr d a b s := rfl
@[simp] theorem exec_xor (d : RField) (a : RField) (b : RField) (s : State) :
    exec (.xor d a b) s = execXor d a b s := rfl
@[simp] theorem exec_andn (d : RField) (a : RField) (b : RField) (s : State) :
    exec (.andn d a b) s = execAndn d a b s := rfl
@[simp] theorem exec_orn (d : RField) (a : RField) (b : RField) (s : State) :
    exec (.orn d a b) s = execOrn d a b s := rfl
@[simp] theorem exec_shl (d : RField) (a : RField) (b : RField) (s : State) :
    exec (.shl d a b) s = execShl d a b s := rfl
@[simp] theorem exec_shr (d : RField) (a : RField) (b : RField) (s : State) :
    exec (.shr d a b) s = execShr d a b s := rfl
@[simp] theorem exec_sar (d : RField) (a : RField) (b : RField) (s : State) :
    exec (.sar d a b) s = execSar d a b s := rfl
@[simp] theorem exec_rol (d : RField) (a : RField) (b : RField) (s : State) :
    exec (.rol d a b) s = execRol d a b s := rfl
@[simp] theorem exec_ror (d : RField) (a : RField) (b : RField) (s : State) :
    exec (.ror d a b) s = execRor d a b s := rfl
@[simp] theorem exec_min (d : RField) (a : RField) (b : RField) (s : State) :
    exec (.min d a b) s = execMin d a b s := rfl
@[simp] theorem exec_max (d : RField) (a : RField) (b : RField) (s : State) :
    exec (.max d a b) s = execMax d a b s := rfl
@[simp] theorem exec_minz (d : RField) (a : RField) (b : RField) (s : State) :
    exec (.minz d a b) s = execMinz d a b s := rfl
@[simp] theorem exec_maxz (d : RField) (a : RField) (b : RField) (s : State) :
    exec (.maxz d a b) s = execMaxz d a b s := rfl
@[simp] theorem exec_slt (d : RField) (a : RField) (b : RField) (s : State) :
    exec (.slt d a b) s = execSlt d a b s := rfl
@[simp] theorem exec_sltz (d : RField) (a : RField) (b : RField) (s : State) :
    exec (.sltz d a b) s = execSltz d a b s := rfl
@[simp] theorem exec_seq (d : RField) (a : RField) (b : RField) (s : State) :
    exec (.seq d a b) s = execSeq d a b s := rfl
@[simp] theorem exec_clz (d : RField) (a : RField) (s : State) :
    exec (.clz d a) s = execClz d a s := rfl
@[simp] theorem exec_ctz (d : RField) (a : RField) (s : State) :
    exec (.ctz d a) s = execCtz d a s := rfl
@[simp] theorem exec_popc (d : RField) (a : RField) (s : State) :
    exec (.popc d a) s = execPopc d a s := rfl
@[simp] theorem exec_bswp (d : RField) (a : RField) (s : State) :
    exec (.bswp d a) s = execBswp d a s := rfl
@[simp] theorem exec_sxtS8 (d : RField) (a : RField) (s : State) :
    exec (.sxtS8 d a) s = execSxtS8 d a s := rfl
@[simp] theorem exec_sxtS16 (d : RField) (a : RField) (s : State) :
    exec (.sxtS16 d a) s = execSxtS16 d a s := rfl
@[simp] theorem exec_sxtS32 (d : RField) (a : RField) (s : State) :
    exec (.sxtS32 d a) s = execSxtS32 d a s := rfl
@[simp] theorem exec_zxtB8 (d : RField) (a : RField) (s : State) :
    exec (.zxtB8 d a) s = execZxtB8 d a s := rfl
@[simp] theorem exec_zxtB16 (d : RField) (a : RField) (s : State) :
    exec (.zxtB16 d a) s = execZxtB16 d a s := rfl
@[simp] theorem exec_zxtB32 (d : RField) (a : RField) (s : State) :
    exec (.zxtB32 d a) s = execZxtB32 d a s := rfl
@[simp] theorem exec_csel (d : RField) (a : RField) (b : RField) (p : PField) (s : State) :
    exec (.csel d a b p) s = execCsel d a b p s := rfl
@[simp] theorem exec_pand (d : PField) (a : PField) (b : PField) (s : State) :
    exec (.pand d a b) s = execPand d a b s := rfl
@[simp] theorem exec_por (d : PField) (a : PField) (b : PField) (s : State) :
    exec (.por d a b) s = execPor d a b s := rfl
@[simp] theorem exec_pxor (d : PField) (a : PField) (b : PField) (s : State) :
    exec (.pxor d a b) s = execPxor d a b s := rfl
@[simp] theorem exec_pnot (d : PField) (a : PField) (s : State) :
    exec (.pnot d a) s = execPnot d a s := rfl
@[simp] theorem exec_movpGP (d : RField) (a : PField) (s : State) :
    exec (.movpGP d a) s = execMovpGP d a s := rfl
@[simp] theorem exec_movpPG (d : PField) (a : RField) (s : State) :
    exec (.movpPG d a) s = execMovpPG d a s := rfl
@[simp] theorem exec_pcmpEq (d : PField) (a : RField) (b : RField) (s : State) :
    exec (.pcmpEq d a b) s = execPcmpEq d a b s := rfl
@[simp] theorem exec_pcmpNe (d : PField) (a : RField) (b : RField) (s : State) :
    exec (.pcmpNe d a b) s = execPcmpNe d a b s := rfl
@[simp] theorem exec_pcmpLt (d : PField) (a : RField) (b : RField) (s : State) :
    exec (.pcmpLt d a b) s = execPcmpLt d a b s := rfl
@[simp] theorem exec_pcmpGe (d : PField) (a : RField) (b : RField) (s : State) :
    exec (.pcmpGe d a b) s = execPcmpGe d a b s := rfl
@[simp] theorem exec_pcmpLtu (d : PField) (a : RField) (b : RField) (s : State) :
    exec (.pcmpLtu d a b) s = execPcmpLtu d a b s := rfl
@[simp] theorem exec_pcmpGeu (d : PField) (a : RField) (b : RField) (s : State) :
    exec (.pcmpGeu d a b) s = execPcmpGeu d a b s := rfl
@[simp] theorem exec_pcmpTst (d : PField) (a : RField) (b : RField) (s : State) :
    exec (.pcmpTst d a b) s = execPcmpTst d a b s := rfl
@[simp] theorem exec_addi (d : RField) (a : RField) (i : BitVec 14) (s : State) :
    exec (.addi d a i) s = execAddi d a i s := rfl
@[simp] theorem exec_movi (d : RField) (i : BitVec 14) (s : State) :
    exec (.movi d i) s = execMovi d i s := rfl
@[simp] theorem exec_lea (d : RField) (i : BitVec 14) (s : State) :
    exec (.lea d i) s = execLea d i s := rfl
@[simp] theorem exec_bfx (d : BitVec 6) (a : BitVec 6) (l : BitVec 6) (p : BitVec 6) (s : State) :
    exec (.bfx d a l p) s = execBfx d a l p s := rfl
@[simp] theorem exec_bfxS (d : BitVec 6) (a : BitVec 6) (l : BitVec 6) (p : BitVec 6) (s : State) :
    exec (.bfxS d a l p) s = execBfxS d a l p s := rfl
@[simp] theorem exec_bfi (d : BitVec 6) (a : BitVec 6) (l : BitVec 6) (p : BitVec 6) (s : State) :
    exec (.bfi d a l p) s = execBfi d a l p s := rfl
@[simp] theorem exec_loop (d : RField) (i : BitVec 14) (s : State) :
    exec (.loop d i) s = execLoop d i s := rfl
@[simp] theorem exec_csrr (d : RField) (n : BitVec 12) (s : State) :
    exec (.csrr d n) s = execCsrr d n s := rfl
@[simp] theorem exec_csrw (a : RField) (n : BitVec 12) (s : State) :
    exec (.csrw a n) s = execCsrw a n s := rfl
@[simp] theorem exec_csrs (a : RField) (n : BitVec 12) (s : State) :
    exec (.csrs a n) s = execCsrs a n s := rfl
@[simp] theorem exec_csrc (a : RField) (n : BitVec 12) (s : State) :
    exec (.csrc a n) s = execCsrc a n s := rfl
@[simp] theorem exec_ldB8 (d : RField) (b : RField) (q : QField) (o : BitVec 11) (s : State) :
    exec (.ldB8 d b q o) s = execLdB8 d b q o s := rfl
@[simp] theorem exec_ldB16 (d : RField) (b : RField) (q : QField) (o : BitVec 11) (s : State) :
    exec (.ldB16 d b q o) s = execLdB16 d b q o s := rfl
@[simp] theorem exec_ldB32 (d : RField) (b : RField) (q : QField) (o : BitVec 11) (s : State) :
    exec (.ldB32 d b q o) s = execLdB32 d b q o s := rfl
@[simp] theorem exec_ldB64 (d : RField) (b : RField) (q : QField) (o : BitVec 11) (s : State) :
    exec (.ldB64 d b q o) s = execLdB64 d b q o s := rfl
@[simp] theorem exec_ldS8 (d : RField) (b : RField) (q : QField) (o : BitVec 11) (s : State) :
    exec (.ldS8 d b q o) s = execLdS8 d b q o s := rfl
@[simp] theorem exec_ldS16 (d : RField) (b : RField) (q : QField) (o : BitVec 11) (s : State) :
    exec (.ldS16 d b q o) s = execLdS16 d b q o s := rfl
@[simp] theorem exec_ldS32 (d : RField) (b : RField) (q : QField) (o : BitVec 11) (s : State) :
    exec (.ldS32 d b q o) s = execLdS32 d b q o s := rfl
@[simp] theorem exec_ldpr (d : EField) (b : RField) (q : QField) (o : BitVec 11) (s : State) :
    exec (.ldpr d b q o) s = execLdpr d b q o s := rfl
@[simp] theorem exec_stB8 (d : RField) (b : RField) (q : QField) (o : BitVec 11) (s : State) :
    exec (.stB8 d b q o) s = execStB8 d b q o s := rfl
@[simp] theorem exec_stB16 (d : RField) (b : RField) (q : QField) (o : BitVec 11) (s : State) :
    exec (.stB16 d b q o) s = execStB16 d b q o s := rfl
@[simp] theorem exec_stB32 (d : RField) (b : RField) (q : QField) (o : BitVec 11) (s : State) :
    exec (.stB32 d b q o) s = execStB32 d b q o s := rfl
@[simp] theorem exec_stB64 (d : RField) (b : RField) (q : QField) (o : BitVec 11) (s : State) :
    exec (.stB64 d b q o) s = execStB64 d b q o s := rfl
@[simp] theorem exec_ldv (d : RField) (b : RField) (q : QField) (o : BitVec 11) (s : State) :
    exec (.ldv d b q o) s = execLdv d b q o s := rfl
@[simp] theorem exec_stv (d : RField) (b : RField) (q : QField) (o : BitVec 11) (s : State) :
    exec (.stv d b q o) s = execStv d b q o s := rfl
@[simp] theorem exec_ldf (d : RField) (b : RField) (q : QField) (o : BitVec 11) (s : State) :
    exec (.ldf d b q o) s = execLdf d b q o s := rfl
@[simp] theorem exec_stf (d : RField) (b : RField) (q : QField) (o : BitVec 11) (s : State) :
    exec (.stf d b q o) s = execStf d b q o s := rfl
@[simp] theorem exec_ldfp (d : RField) (b : RField) (q : QField) (o : BitVec 11) (s : State) :
    exec (.ldfp d b q o) s = execLdfp d b q o s := rfl
@[simp] theorem exec_stnLo (d : RField) (a : RField) (q : QField) (s : State) :
    exec (.stnLo d a q) s = execStnLo d a q s := rfl
@[simp] theorem exec_stnHi (d : RField) (a : RField) (q : QField) (s : State) :
    exec (.stnHi d a q) s = execStnHi d a q s := rfl
@[simp] theorem exec_femarkE (a : RField) (q : QField) (s : State) :
    exec (.femarkE a q) s = execFemarkE a q s := rfl
@[simp] theorem exec_femarkF (a : RField) (q : QField) (s : State) :
    exec (.femarkF a q) s = execFemarkF a q s := rfl
@[simp] theorem exec_pref (a : RField) (q : QField) (s : State) :
    exec (.pref a q) s = execPref a q s := rfl
@[simp] theorem exec_flush (d : RField) (a : RField) (q : QField) (s : State) :
    exec (.flush d a q) s = execFlush d a q s := rfl
@[simp] theorem exec_inval (d : RField) (a : RField) (q : QField) (s : State) :
    exec (.inval d a q) s = execInval d a q s := rfl
@[simp] theorem exec_fill (d : RField) (a : RField) (q : QField) (s : State) :
    exec (.fill d a q) s = execFill d a q s := rfl
@[simp] theorem exec_aadd (d : RField) (a : RField) (b : RField) (q : QField) (z : Bool) (s : State) :
    exec (.aadd d a b q z) s = execAadd d a b q z s := rfl
@[simp] theorem exec_aand (d : RField) (a : RField) (b : RField) (q : QField) (z : Bool) (s : State) :
    exec (.aand d a b q z) s = execAand d a b q z s := rfl
@[simp] theorem exec_aor (d : RField) (a : RField) (b : RField) (q : QField) (z : Bool) (s : State) :
    exec (.aor d a b q z) s = execAor d a b q z s := rfl
@[simp] theorem exec_axor (d : RField) (a : RField) (b : RField) (q : QField) (z : Bool) (s : State) :
    exec (.axor d a b q z) s = execAxor d a b q z s := rfl
@[simp] theorem exec_amin (d : RField) (a : RField) (b : RField) (q : QField) (z : Bool) (s : State) :
    exec (.amin d a b q z) s = execAmin d a b q z s := rfl
@[simp] theorem exec_amax (d : RField) (a : RField) (b : RField) (q : QField) (z : Bool) (s : State) :
    exec (.amax d a b q z) s = execAmax d a b q z s := rfl
@[simp] theorem exec_aminz (d : RField) (a : RField) (b : RField) (q : QField) (z : Bool) (s : State) :
    exec (.aminz d a b q z) s = execAminz d a b q z s := rfl
@[simp] theorem exec_amaxz (d : RField) (a : RField) (b : RField) (q : QField) (z : Bool) (s : State) :
    exec (.amaxz d a b q z) s = execAmaxz d a b q z s := rfl
@[simp] theorem exec_axchg (d : RField) (a : RField) (b : RField) (q : QField) (z : Bool) (s : State) :
    exec (.axchg d a b q z) s = execAxchg d a b q z s := rfl
@[simp] theorem exec_acas (d : RField) (a : RField) (b : RField) (q : QField) (z : Bool) (s : State) :
    exec (.acas d a b q z) s = execAcas d a b q z s := rfl
@[simp] theorem exec_afadd (d : RField) (a : RField) (b : RField) (q : QField) (z : Bool) (s : State) :
    exec (.afadd d a b q z) s = execAfadd d a b q z s := rfl
@[simp] theorem exec_fence (k : Order) (f : Scope) (s : State) :
    exec (.fence k f) s = execFence k f s := rfl
@[simp] theorem exec_warv (c : BitVec 5) (s : State) :
    exec (.warv c) s = execWarv c s := rfl
@[simp] theorem exec_wwait (c : BitVec 5) (s : State) :
    exec (.wwait c) s = execWwait c s := rfl
@[simp] theorem exec_wbar (c : BitVec 5) (s : State) :
    exec (.wbar c) s = execWbar c s := rfl
@[simp] theorem exec_wsend (a : RField) (c : BitVec 5) (s : State) :
    exec (.wsend a c) s = execWsend a c s := rfl
@[simp] theorem exec_wrecv (d : RField) (c : BitVec 5) (s : State) :
    exec (.wrecv d c) s = execWrecv d c s := rfl
@[simp] theorem exec_wredAdd (d : RField) (a : RField) (c : BitVec 5) (s : State) :
    exec (.wredAdd d a c) s = execWredAdd d a c s := rfl
@[simp] theorem exec_wredMin (d : RField) (a : RField) (c : BitVec 5) (s : State) :
    exec (.wredMin d a c) s = execWredMin d a c s := rfl
@[simp] theorem exec_wredMax (d : RField) (a : RField) (c : BitVec 5) (s : State) :
    exec (.wredMax d a c) s = execWredMax d a c s := rfl
@[simp] theorem exec_wredOr (d : RField) (a : RField) (c : BitVec 5) (s : State) :
    exec (.wredOr d a c) s = execWredOr d a c s := rfl
@[simp] theorem exec_sopen (a : RField) (s : State) :
    exec (.sopen a) s = execSopen a s := rfl
@[simp] theorem exec_ssend (a : RField) (s : State) :
    exec (.ssend a) s = execSsend a s := rfl
@[simp] theorem exec_srecv (d : RField) (s : State) :
    exec (.srecv d) s = execSrecv d s := rfl
@[simp] theorem exec_spoll (d : PField) (s : State) :
    exec (.spoll d) s = execSpoll d s := rfl
@[simp] theorem exec_sclose (s : State) :
    exec (.sclose) s = execSclose s := rfl
@[simp] theorem exec_cpy (a : RField) (b : RField) (s : State) :
    exec (.cpy a b) s = execCpy a b s := rfl
@[simp] theorem exec_cpym (a : RField) (b : RField) (s : State) :
    exec (.cpym a b) s = execCpym a b s := rfl
@[simp] theorem exec_cpyx (d : RField) (a : RField) (b : RField) (s : State) :
    exec (.cpyx d a b) s = execCpyx d a b s := rfl
@[simp] theorem exec_gath (d : RField) (a : RField) (b : RField) (s : State) :
    exec (.gath d a b) s = execGath d a b s := rfl
@[simp] theorem exec_scat (d : RField) (a : RField) (b : RField) (s : State) :
    exec (.scat d a b) s = execScat d a b s := rfl
@[simp] theorem exec_barinit (a : RField) (b : RField) (s : State) :
    exec (.barinit a b) s = execBarinit a b s := rfl
@[simp] theorem exec_baradd (a : RField) (b : RField) (s : State) :
    exec (.baradd a b) s = execBaradd a b s := rfl
@[simp] theorem exec_waitph (a : RField) (n : Bool) (s : State) :
    exec (.waitph a n) s = execWaitph a n s := rfl
@[simp] theorem exec_msgsend (a : RField) (b : RField) (s : State) :
    exec (.msgsend a b) s = execMsgsend a b s := rfl
@[simp] theorem exec_msgrecv (d : EField) (s : State) :
    exec (.msgrecv d) s = execMsgrecv d s := rfl
@[simp] theorem exec_waitmsg (s : State) :
    exec (.waitmsg) s = execWaitmsg s := rfl
@[simp] theorem exec_vadd (d : RField) (a : RField) (b : RField) (t : Fmt) (s : State) :
    exec (.vadd d a b t) s = execVadd d a b t s := rfl
@[simp] theorem exec_vsub (d : RField) (a : RField) (b : RField) (t : Fmt) (s : State) :
    exec (.vsub d a b t) s = execVsub d a b t s := rfl
@[simp] theorem exec_vmul (d : RField) (a : RField) (b : RField) (t : Fmt) (s : State) :
    exec (.vmul d a b t) s = execVmul d a b t s := rfl
@[simp] theorem exec_vmulh (d : RField) (a : RField) (b : RField) (t : Fmt) (s : State) :
    exec (.vmulh d a b t) s = execVmulh d a b t s := rfl
@[simp] theorem exec_vfma (d : RField) (a : RField) (b : RField) (t : Fmt) (s : State) :
    exec (.vfma d a b t) s = execVfma d a b t s := rfl
@[simp] theorem exec_vfms (d : RField) (a : RField) (b : RField) (t : Fmt) (s : State) :
    exec (.vfms d a b t) s = execVfms d a b t s := rfl
@[simp] theorem exec_vfnma (d : RField) (a : RField) (b : RField) (t : Fmt) (s : State) :
    exec (.vfnma d a b t) s = execVfnma d a b t s := rfl
@[simp] theorem exec_vdiv (d : RField) (a : RField) (b : RField) (t : Fmt) (s : State) :
    exec (.vdiv d a b t) s = execVdiv d a b t s := rfl
@[simp] theorem exec_vmin (d : RField) (a : RField) (b : RField) (t : Fmt) (s : State) :
    exec (.vmin d a b t) s = execVmin d a b t s := rfl
@[simp] theorem exec_vmax (d : RField) (a : RField) (b : RField) (t : Fmt) (s : State) :
    exec (.vmax d a b t) s = execVmax d a b t s := rfl
@[simp] theorem exec_vabs (d : RField) (a : RField) (t : Fmt) (s : State) :
    exec (.vabs d a t) s = execVabs d a t s := rfl
@[simp] theorem exec_vneg (d : RField) (a : RField) (t : Fmt) (s : State) :
    exec (.vneg d a t) s = execVneg d a t s := rfl
@[simp] theorem exec_vsat (d : RField) (a : RField) (u : Fmt) (t : Fmt) (s : State) :
    exec (.vsat d a u t) s = execVsat d a u t s := rfl
@[simp] theorem exec_vclz (d : RField) (a : RField) (t : Fmt) (s : State) :
    exec (.vclz d a t) s = execVclz d a t s := rfl
@[simp] theorem exec_vpopc (d : RField) (a : RField) (t : Fmt) (s : State) :
    exec (.vpopc d a t) s = execVpopc d a t s := rfl
@[simp] theorem exec_vand (d : RField) (a : RField) (b : RField) (t : Fmt) (s : State) :
    exec (.vand d a b t) s = execVand d a b t s := rfl
@[simp] theorem exec_vor (d : RField) (a : RField) (b : RField) (t : Fmt) (s : State) :
    exec (.vor d a b t) s = execVor d a b t s := rfl
@[simp] theorem exec_vxor (d : RField) (a : RField) (b : RField) (t : Fmt) (s : State) :
    exec (.vxor d a b t) s = execVxor d a b t s := rfl
@[simp] theorem exec_vandn (d : RField) (a : RField) (b : RField) (t : Fmt) (s : State) :
    exec (.vandn d a b t) s = execVandn d a b t s := rfl
@[simp] theorem exec_vshl (d : RField) (a : RField) (b : RField) (t : Fmt) (s : State) :
    exec (.vshl d a b t) s = execVshl d a b t s := rfl
@[simp] theorem exec_vshr (d : RField) (a : RField) (b : RField) (t : Fmt) (s : State) :
    exec (.vshr d a b t) s = execVshr d a b t s := rfl
@[simp] theorem exec_vsar (d : RField) (a : RField) (b : RField) (t : Fmt) (s : State) :
    exec (.vsar d a b t) s = execVsar d a b t s := rfl
@[simp] theorem exec_vsel (d : RField) (a : RField) (b : RField) (p : PField) (s : State) :
    exec (.vsel d a b p) s = execVsel d a b p s := rfl
@[simp] theorem exec_vdot4 (d : RField) (a : RField) (b : RField) (t : Fmt) (s : State) :
    exec (.vdot4 d a b t) s = execVdot4 d a b t s := rfl
@[simp] theorem exec_vdot2 (d : RField) (a : RField) (b : RField) (t : Fmt) (s : State) :
    exec (.vdot2 d a b t) s = execVdot2 d a b t s := rfl
@[simp] theorem exec_vshuf (d : RField) (a : RField) (b : RField) (t : Fmt) (s : State) :
    exec (.vshuf d a b t) s = execVshuf d a b t s := rfl
@[simp] theorem exec_vperm (d : RField) (a : RField) (b : RField) (t : Fmt) (s : State) :
    exec (.vperm d a b t) s = execVperm d a b t s := rfl
@[simp] theorem exec_vredadd (d : RField) (a : RField) (t : Fmt) (s : State) :
    exec (.vredadd d a t) s = execVredadd d a t s := rfl
@[simp] theorem exec_vredmin (d : RField) (a : RField) (t : Fmt) (s : State) :
    exec (.vredmin d a t) s = execVredmin d a t s := rfl
@[simp] theorem exec_vredmax (d : RField) (a : RField) (t : Fmt) (s : State) :
    exec (.vredmax d a t) s = execVredmax d a t s := rfl
@[simp] theorem exec_vrng (d : RField) (a : RField) (b : RField) (s : State) :
    exec (.vrng d a b) s = execVrng d a b s := rfl
@[simp] theorem exec_vcvt (d : RField) (a : RField) (x : Fmt) (y : Fmt) (s : State) :
    exec (.vcvt d a x y) s = execVcvt d a x y s := rfl
@[simp] theorem exec_vsplat (d : RField) (a : RField) (t : Fmt) (s : State) :
    exec (.vsplat d a t) s = execVsplat d a t s := rfl
@[simp] theorem exec_vext (d : RField) (a : RField) (n : BitVec 6) (t : Fmt) (s : State) :
    exec (.vext d a n t) s = execVext d a n t s := rfl
@[simp] theorem exec_vins (d : RField) (a : RField) (n : BitVec 6) (t : Fmt) (s : State) :
    exec (.vins d a n t) s = execVins d a n t s := rfl
@[simp] theorem exec_vmov (d : RField) (a : RField) (t : Fmt) (s : State) :
    exec (.vmov d a t) s = execVmov d a t s := rfl
@[simp] theorem exec_vcmp (c : VCond) (d : PField) (a : RField) (b : RField) (t : Fmt) (s : State) :
    exec (.vcmp c d a b t) s = execVcmp c d a b t s := rfl
@[simp] theorem exec_sfexp2 (d : RField) (a : RField) (t : Fmt) (s : State) :
    exec (.sfexp2 d a t) s = execSfexp2 d a t s := rfl
@[simp] theorem exec_sflog2 (d : RField) (a : RField) (t : Fmt) (s : State) :
    exec (.sflog2 d a t) s = execSflog2 d a t s := rfl
@[simp] theorem exec_sfrcp (d : RField) (a : RField) (t : Fmt) (s : State) :
    exec (.sfrcp d a t) s = execSfrcp d a t s := rfl
@[simp] theorem exec_sfrsq (d : RField) (a : RField) (t : Fmt) (s : State) :
    exec (.sfrsq d a t) s = execSfrsq d a t s := rfl
@[simp] theorem exec_sfsqrt (d : RField) (a : RField) (t : Fmt) (s : State) :
    exec (.sfsqrt d a t) s = execSfsqrt d a t s := rfl
@[simp] theorem exec_sfsin (d : RField) (a : RField) (t : Fmt) (s : State) :
    exec (.sfsin d a t) s = execSfsin d a t s := rfl
@[simp] theorem exec_sfcos (d : RField) (a : RField) (t : Fmt) (s : State) :
    exec (.sfcos d a t) s = execSfcos d a t s := rfl
@[simp] theorem exec_sftanh (d : RField) (a : RField) (t : Fmt) (s : State) :
    exec (.sftanh d a t) s = execSftanh d a t s := rfl
@[simp] theorem exec_sfsigm (d : RField) (a : RField) (t : Fmt) (s : State) :
    exec (.sfsigm d a t) s = execSfsigm d a t s := rfl
@[simp] theorem exec_sferf (d : RField) (a : RField) (t : Fmt) (s : State) :
    exec (.sferf d a t) s = execSferf d a t s := rfl
@[simp] theorem exec_mprecShort (c : BitVec 4) (a : BitVec 4) (b : BitVec 4) (k : BitVec 1) (s : State) :
    exec (.mprecShort c a b k) s = execMprecShort c a b k s := rfl
@[simp] theorem exec_mprecImage (a : RField) (k : BitVec 1) (s : State) :
    exec (.mprecImage a k) s = execMprecImage a k s := rfl
@[simp] theorem exec_mrdp (d : RField) (k : BitVec 1) (s : State) :
    exec (.mrdp d k) s = execMrdp d k s := rfl
@[simp] theorem exec_mma (d : RField) (a : RField) (b : RField) (k : BitVec 1) (s : State) :
    exec (.mma d a b k) s = execMma d a b k s := rfl
@[simp] theorem exec_mmas (d : RField) (a : RField) (b : RField) (k : BitVec 1) (s : State) :
    exec (.mmas d a b k) s = execMmas d a b k s := rfl
@[simp] theorem exec_mzero (k : BitVec 1) (s : State) :
    exec (.mzero k) s = execMzero k s := rfl
@[simp] theorem exec_mrdacc (d : RField) (a : RField) (t : BitVec 4) (r : Bool) (k : BitVec 1) (s : State) :
    exec (.mrdacc d a t r k) s = execMrdacc d a t r k s := rfl
@[simp] theorem exec_mwracc (d : RField) (a : RField) (k : BitVec 1) (s : State) :
    exec (.mwracc d a k) s = execMwracc d a k s := rfl
@[simp] theorem exec_mapprb (d : EField) (a : RField) (b : RField) (p : PField) (q : QField) (s : State) :
    exec (.mapprb d a b p q) s = execMapprb d a b p q s := rfl
@[simp] theorem exec_mapins (d : EField) (a : RField) (b : RField) (p : PField) (q : QField) (s : State) :
    exec (.mapins d a b p q) s = execMapins d a b p q s := rfl
@[simp] theorem exec_mapups (d : EField) (a : RField) (b : RField) (p : PField) (q : QField) (s : State) :
    exec (.mapups d a b p q) s = execMapups d a b p q s := rfl
@[simp] theorem exec_mapdel (d : EField) (a : RField) (b : RField) (p : PField) (q : QField) (s : State) :
    exec (.mapdel d a b p q) s = execMapdel d a b p q s := rfl
@[simp] theorem exec_mapadd (d : EField) (a : RField) (b : RField) (p : PField) (q : QField) (s : State) :
    exec (.mapadd d a b p q) s = execMapadd d a b p q s := rfl
@[simp] theorem exec_mapcas (d : EField) (a : RField) (b : RField) (p : PField) (q : QField) (s : State) :
    exec (.mapcas d a b p q) s = execMapcas d a b p q s := rfl
@[simp] theorem exec_mapnew (a : RField) (b : RField) (q : QField) (s : State) :
    exec (.mapnew a b q) s = execMapnew a b q s := rfl
@[simp] theorem exec_mapgetn (d : RField) (a : RField) (b : RField) (q : QField) (s : State) :
    exec (.mapgetn d a b q) s = execMapgetn d a b q s := rfl
@[simp] theorem exec_mapscan (d : RField) (a : RField) (b : RField) (q : QField) (s : State) :
    exec (.mapscan d a b q) s = execMapscan d a b q s := rfl
@[simp] theorem exec_mapstl (a : RField) (q : QField) (s : State) :
    exec (.mapstl a q) s = execMapstl a q s := rfl
@[simp] theorem exec_mapclr (a : RField) (q : QField) (s : State) :
    exec (.mapclr a q) s = execMapclr a q s := rfl
@[simp] theorem exec_mapinfo (d : RField) (a : RField) (q : QField) (s : State) :
    exec (.mapinfo d a q) s = execMapinfo d a q s := rfl
@[simp] theorem exec_tspawn (p : PField) (a : RField) (s : State) :
    exec (.tspawn p a) s = execTspawn p a s := rfl
@[simp] theorem exec_tyield (p : PField) (a : RField) (s : State) :
    exec (.tyield p a) s = execTyield p a s := rfl
@[simp] theorem exec_launch (p : PField) (a : RField) (s : State) :
    exec (.launch p a) s = execLaunch p a s := rfl
@[simp] theorem exec_cntrd (d : RField) (a : RField) (s : State) :
    exec (.cntrd d a) s = execCntrd d a s := rfl
@[simp] theorem exec_cntwait (a : RField) (s : State) :
    exec (.cntwait a) s = execCntwait a s := rfl
@[simp] theorem exec_cancelDrain (a : RField) (s : State) :
    exec (.cancelDrain a) s = execCancelDrain a s := rfl
@[simp] theorem exec_cancelKill (a : RField) (s : State) :
    exec (.cancelKill a) s = execCancelKill a s := rfl
@[simp] theorem exec_repart (n : Part) (s : State) :
    exec (.repart n) s = execRepart n s := rfl
@[simp] theorem exec_brr (a : RField) (s : State) :
    exec (.brr a) s = execBrr a s := rfl
@[simp] theorem exec_callr (a : RField) (s : State) :
    exec (.callr a) s = execCallr a s := rfl
@[simp] theorem exec_ret (s : State) :
    exec (.ret) s = execRet s := rfl
@[simp] theorem exec_tend (s : State) :
    exec (.tend) s = execTend s := rfl
@[simp] theorem exec_trap (n : BitVec 12) (s : State) :
    exec (.trap n) s = execTrap n s := rfl
@[simp] theorem exec_eret (s : State) :
    exec (.eret) s = execEret s := rfl
@[simp] theorem exec_quiesce (a : RField) (s : State) :
    exec (.quiesce a) s = execQuiesce a s := rfl
@[simp] theorem exec_migrate (a : RField) (b : RField) (s : State) :
    exec (.migrate a b) s = execMigrate a b s := rfl
@[simp] theorem exec_tlbinv (a : RField) (b : RField) (s : State) :
    exec (.tlbinv a b) s = execTlbinv a b s := rfl
@[simp] theorem exec_rdtime (d : RField) (s : State) :
    exec (.rdtime d) s = execRdtime d s := rfl
@[simp] theorem exec_rdperf (d : RField) (a : RField) (s : State) :
    exec (.rdperf d a) s = execRdperf d a s := rfl
@[simp] theorem exec_brk (n : BitVec 12) (s : State) :
    exec (.brk n) s = execBrk n s := rfl
@[simp] theorem exec_brp (p : PField) (o : BitVec 22) (s : State) :
    exec (.brp p o) s = execBrp p o s := rfl
@[simp] theorem exec_brpN (p : PField) (o : BitVec 22) (s : State) :
    exec (.brpN p o) s = execBrpN p o s := rfl
@[simp] theorem exec_br (o : BitVec 22) (s : State) :
    exec (.br o) s = execBr o s := rfl
@[simp] theorem exec_call (o : BitVec 22) (s : State) :
    exec (.call o) s = execCall o s := rfl
@[simp] theorem exec_himm (i : BitVec 22) (s : State) :
    exec (.himm i) s = execHimm i s := rfl
@[simp] theorem exec_hdly (n : BitVec 16) (s : State) :
    exec (.hdly n) s = execHdly n s := rfl
@[simp] theorem exec_hxreg (d : Bool) (a : Bool) (b : Bool) (s : State) :
    exec (.hxreg d a b) s = execHxreg d a b s := rfl
@[simp] theorem exec_hstart (f : BitVec 22) (s : State) :
    exec (.hstart f) s = execHstart f s := rfl
@[simp] theorem exec_hseq (t : BitVec 16) (s : State) :
    exec (.hseq t) s = execHseq t s := rfl
@[simp] theorem exec_hpol (p : BitVec 13) (s : State) :
    exec (.hpol p) s = execHpol p s := rfl
@[simp] theorem exec_hscope (f : Scope) (s : State) :
    exec (.hscope f) s = execHscope f s := rfl
@[simp] theorem exec_hrnd (m : BitVec 3) (s : State) :
    exec (.hrnd m) s = execHrnd m s := rfl
@[simp] theorem exec_launchRecord (queue : Nat) (aligned : Bool) (record : Rec512) (s : State) :
    exec (.launchRecord queue aligned record) s = execLaunchRecord queue aligned record s := rfl
@[simp] theorem exec_counterRecord (queue : Nat) (aligned : Bool) (record : Rec512) (s : State) :
    exec (.counterRecord queue aligned record) s = execCounterRecord queue aligned record s := rfl
@[simp] theorem exec_qcfgWrite (queue : Nat) (value : Word) (s : State) :
    exec (.qcfgWrite queue value) s = execQcfgWrite queue value s := rfl
@[simp] theorem exec_dispatcherTake (queue : Option Nat) (s : State) :
    exec (.dispatcherTake queue) s = execDispatcherTake queue s := rfl
@[simp] theorem exec_gangStart (job : Nat) (counter : Nat) (s : State) :
    exec (.gangStart job counter) s = execGangStart job counter s := rfl
@[simp] theorem exec_dealUnit (job : Nat) (counter : Nat) (s : State) :
    exec (.dealUnit job counter) s = execDealUnit job counter s := rfl
@[simp] theorem exec_unitRetire (job : Nat) (counter : Nat) (s : State) :
    exec (.unitRetire job counter) s = execUnitRetire job counter s := rfl
@[simp] theorem exec_phaseAgentArrival (job : Nat) (die : Nat) (s : State) :
    exec (.phaseAgentArrival job die) s = execPhaseAgentArrival job die s := rfl
@[simp] theorem exec_phaseBarrier (job : Nat) (s : State) :
    exec (.phaseBarrier job) s = execPhaseBarrier job s := rfl
@[simp] theorem exec_cancelComplete (job : Nat) (counter : Nat) (s : State) :
    exec (.cancelComplete job counter) s = execCancelComplete job counter s := rfl
@[simp] theorem exec_pop (sid : SId) (s : State) :
    exec (.pop sid) s = execPop sid s := rfl
@[simp] theorem exec_stealRequest (sid : SId) (s : State) :
    exec (.stealRequest sid) s = execStealRequest sid s := rfl
@[simp] theorem exec_stealReply (sid : SId) (s : State) :
    exec (.stealReply sid) s = execStealReply sid s := rfl
@[simp] theorem exec_stealRoundRetry (sid : SId) (s : State) :
    exec (.stealRoundRetry sid) s = execStealRoundRetry sid s := rfl
@[simp] theorem exec_lateEventTest (sid : SId) (s : State) :
    exec (.lateEventTest sid) s = execLateEventTest sid s := rfl
@[simp] theorem exec_holdEnd (sid : SId) (rotations : Nat) (s : State) :
    exec (.holdEnd sid rotations) s = execHoldEnd sid rotations s := rfl
@[simp] theorem exec_landing (sid : SId) (s : State) :
    exec (.landing sid) s = execLanding sid s := rfl
@[simp] theorem exec_deferredEffect (sid : SId) (s : State) :
    exec (.deferredEffect sid) s = execDeferredEffect sid s := rfl
@[simp] theorem exec_parkResume (sid : SId) (s : State) :
    exec (.parkResume sid) s = execParkResume sid s := rfl
@[simp] theorem exec_requestRetry (sid : SId) (seq : Nat) (s : State) :
    exec (.requestRetry sid seq) s = execRequestRetry sid seq s := rfl
@[simp] theorem exec_storePerformed (sid : SId) (delay : BitVec 16) (s : State) :
    exec (.storePerformed sid delay) s = execStorePerformed sid delay s := rfl
@[simp] theorem exec_fullEmptyHomeOperation (word : Nat) (s : State) :
    exec (.fullEmptyHomeOperation word) s = execFullEmptyHomeOperation word s := rfl
@[simp] theorem exec_rangeStep (sid : SId) (s : State) :
    exec (.rangeStep sid) s = execRangeStep sid s := rfl
@[simp] theorem exec_registration (sid : SId) (s : State) :
    exec (.registration sid) s = execRegistration sid s := rfl
@[simp] theorem exec_copyStart (core : Nat) (s : State) :
    exec (.copyStart core) s = execCopyStart core s := rfl
@[simp] theorem exec_byteLanding (core : Nat) (op : Nat) (pick : Nat) (s : State) :
    exec (.byteLanding core op pick) s = execByteLanding core op pick s := rfl
@[simp] theorem exec_heldFlipApply (core : Nat) (s : State) :
    exec (.heldFlipApply core) s = execHeldFlipApply core s := rfl
@[simp] theorem exec_messageArrival (core : Nat) (pick : Nat) (s : State) :
    exec (.messageArrival core pick) s = execMessageArrival core pick s := rfl
@[simp] theorem exec_followOnStart (core : Nat) (s : State) :
    exec (.followOnStart core) s = execFollowOnStart core s := rfl
@[simp] theorem exec_linkWordArrival (core : Nat) (port : Nat) (s : State) :
    exec (.linkWordArrival core port) s = execLinkWordArrival core port s := rfl
@[simp] theorem exec_streamWordArrival (core : Nat) (s : State) :
    exec (.streamWordArrival core) s = execStreamWordArrival core s := rfl
@[simp] theorem exec_routeGrant (core : Nat) (s : State) :
    exec (.routeGrant core) s = execRouteGrant core s := rfl
@[simp] theorem exec_routeAutoClose (sid : SId) (s : State) :
    exec (.routeAutoClose sid) s = execRouteAutoClose sid s := rfl
@[simp] theorem exec_sfuAccept (cluster : Nat) (s : State) :
    exec (.sfuAccept cluster) s = execSfuAccept cluster s := rfl
@[simp] theorem exec_sfuResult (cluster : Nat) (s : State) :
    exec (.sfuResult cluster) s = execSfuResult cluster s := rfl
@[simp] theorem exec_arrayCommandStart (core : Nat) (s : State) :
    exec (.arrayCommandStart core) s = execArrayCommandStart core s := rfl
@[simp] theorem exec_kStepEnd (core : Nat) (s : State) :
    exec (.kStepEnd core) s = execKStepEnd core s := rfl
@[simp] theorem exec_mzeroApply (core : Nat) (s : State) :
    exec (.mzeroApply core) s = execMzeroApply core s := rfl
@[simp] theorem exec_bankRelease (core : Nat) (bank : BitVec 1) (s : State) :
    exec (.bankRelease core bank) s = execBankRelease core bank s := rfl
@[simp] theorem exec_sequencerAccept (sid : SId) (seq : Nat) (s : State) :
    exec (.sequencerAccept sid seq) s = execSequencerAccept sid seq s := rfl
@[simp] theorem exec_mapnewComplete (sid : SId) (s : State) :
    exec (.mapnewComplete sid) s = execMapnewComplete sid s := rfl
@[simp] theorem exec_mapgetnDispatch (core : Nat) (op : Nat) (s : State) :
    exec (.mapgetnDispatch core op) s = execMapgetnDispatch core op s := rfl
@[simp] theorem exec_mapgetnResult (core : Nat) (op : Nat) (pick : Nat) (s : State) :
    exec (.mapgetnResult core op pick) s = execMapgetnResult core op pick s := rfl
@[simp] theorem exec_mapscanSliceStep (sid : SId) (s : State) :
    exec (.mapscanSliceStep sid) s = execMapscanSliceStep sid s := rfl
@[simp] theorem exec_settleStep (sid : SId) (s : State) :
    exec (.settleStep sid) s = execSettleStep sid s := rfl
@[simp] theorem exec_mapclrShardStep (sid : SId) (s : State) :
    exec (.mapclrShardStep sid) s = execMapclrShardStep sid s := rfl
@[simp] theorem exec_mapinfoAnswer (sid : SId) (s : State) :
    exec (.mapinfoAnswer sid) s = execMapinfoAnswer sid s := rfl
@[simp] theorem exec_woadArrival (sid : SId) (s : State) :
    exec (.woadArrival sid) s = execWoadArrival sid s := rfl
@[simp] theorem exec_woadRelease (channel : Nat) (s : State) :
    exec (.woadRelease channel) s = execWoadRelease channel s := rfl
@[simp] theorem exec_gangstallExpiry (gang : Nat) (s : State) :
    exec (.gangstallExpiry gang) s = execGangstallExpiry gang s := rfl
@[simp] theorem exec_quiesceSignalArrival (sid : SId) (s : State) :
    exec (.quiesceSignalArrival sid) s = execQuiesceSignalArrival sid s := rfl
@[simp] theorem exec_domainStop (sid : SId) (s : State) :
    exec (.domainStop sid) s = execDomainStop sid s := rfl
@[simp] theorem exec_quiesceMarkerPass (job : Nat) (engine : Engine) (s : State) :
    exec (.quiesceMarkerPass job engine) s = execQuiesceMarkerPass job engine s := rfl
@[simp] theorem exec_migrationComplete (source : Nat) (dest : Nat) (s : State) :
    exec (.migrationComplete source dest) s = execMigrationComplete source dest s := rfl
@[simp] theorem exec_dbgctlStop (sid : SId) (value : Word) (s : State) :
    exec (.dbgctlStop sid value) s = execDbgctlStop sid value s := rfl
@[simp] theorem exec_dbgctlGo (sid : SId) (value : Word) (s : State) :
    exec (.dbgctlGo sid value) s = execDbgctlGo sid value s := rfl
@[simp] theorem exec_debugStop (sid : SId) (s : State) :
    exec (.debugStop sid) s = execDebugStop sid s := rfl
@[simp] theorem exec_stepStop (sid : SId) (s : State) :
    exec (.stepStop sid) s = execStepStop sid s := rfl
@[simp] theorem exec_pageWalk (cluster : Nat) (job : Nat) (va : Word) (access : Access) (s : State) :
    exec (.pageWalk cluster job va access) s = execPageWalk cluster job va access s := rfl
@[simp] theorem exec_tlbinvComplete (sid : SId) (s : State) :
    exec (.tlbinvComplete sid) s = execTlbinvComplete sid s := rfl
@[simp] theorem exec_ingressRequest (pa : Nat) (request : Ingress) (poison : Bool) (peer : Bool) (s : State) :
    exec (.ingressRequest pa request poison peer) s = execIngressRequest pa request poison peer s := rfl
@[simp] theorem exec_hostSnoop (line : Nat) (data : Option (List Byte)) (s : State) :
    exec (.hostSnoop line data) s = execHostSnoop line data s := rfl
@[simp] theorem exec_coltailWrite (die : Nat) (value : Word) (s : State) :
    exec (.coltailWrite die value) s = execColtailWrite die value s := rfl
@[simp] theorem exec_colheadErrClear (die : Nat) (s : State) :
    exec (.colheadErrClear die) s = execColheadErrClear die s := rfl
@[simp] theorem exec_collectiveStepStart (die : Nat) (s : State) :
    exec (.collectiveStepStart die) s = execCollectiveStepStart die s := rfl
@[simp] theorem exec_collectiveStepEnd (die : Nat) (incoming : List Byte) (poison : Bool) (s : State) :
    exec (.collectiveStepEnd die incoming poison) s = execCollectiveStepEnd die incoming poison s := rfl
@[simp] theorem exec_watchdogExpiry (die : Nat) (s : State) :
    exec (.watchdogExpiry die) s = execWatchdogExpiry die s := rfl
@[simp] theorem exec_madcfgClr (die : Nat) (value : Word) (s : State) :
    exec (.madcfgClr die value) s = execMadcfgClr die value s := rfl
@[simp] theorem exec_madderSample (sid : SId) (s : State) :
    exec (.madderSample sid) s = execMadderSample sid s := rfl
@[simp] theorem exec_ptpMessage (lock : Bool) (offset : BitVec 32) (slew : Int) (forward : Nat) (s : State) :
    exec (.ptpMessage lock offset slew forward) s = execPtpMessage lock offset slew forward s := rfl
@[simp] theorem exec_clampSample (watts : Nat) (celsius : Nat) (s : State) :
    exec (.clampSample watts celsius) s = execClampSample watts celsius s := rfl
@[simp] theorem exec_deviceReset (image : List Byte) (signed : Bool) (version : Nat) (boot : Boot) (s : State) :
    exec (.deviceReset image signed version boot) s = execDeviceReset image signed version boot s := rfl
@[simp] theorem exec_recoveryImageWrite (image : List Byte) (signed : Bool) (version : Nat) (s : State) :
    exec (.recoveryImageWrite image signed version) s = execRecoveryImageWrite image signed version s := rfl
@[simp] theorem exec_attestationRequest (nonce : Rec512) (s : State) :
    exec (.attestationRequest nonce) s = execAttestationRequest nonce s := rfl
@[simp] theorem exec_registerWrite (address : Nat) (value : Word) (s : State) :
    exec (.registerWrite address value) s = execRegisterWrite address value s := rfl
@[simp] theorem exec_softError (struck : Struck) (correctable : Bool) (s : State) :
    exec (.softError struck correctable) s = execSoftError struck correctable s := rfl
@[simp] theorem exec_homeSliceRequest (sid : SId) (seq : Nat) (refuse : Option (BitVec 6)) (s : State) :
    exec (.homeSliceRequest sid seq refuse) s = execHomeSliceRequest sid seq refuse s := rfl
@[simp] theorem exec_memoryResponse (sid : SId) (seq : Nat) (delay : BitVec 16) (s : State) :
    exec (.memoryResponse sid seq delay) s = execMemoryResponse sid seq delay s := rfl
@[simp] theorem exec_jobCreate (job : Nat) (cores : List Nat) (counters : Nat) (part : Part) (channels : List (Nat × Nat)) (phase : Option Nat) (s : State) :
    exec (.jobCreate job cores counters part channels phase) s = execJobCreate job cores counters part channels phase s := rfl
@[simp] theorem exec_jobDestroy (job : Nat) (s : State) :
    exec (.jobDestroy job) s = execJobDestroy job s := rfl

end Sys2Proof.Machine
end

