-- ==== Sys2Proof/Laws/Issue.lean ====
section
/-! SUPPORT. What issuing an instruction does: one law per way in which an instruction's entry ends. -/

namespace Sys2Proof.Machine

variable {s t : State} {c : Ctx}

theorem Issuing.sid (h : Issuing s t c) : c.sid = s.cur := by rw [h.context]; rfl

theorem issueWith_eq (h : Issuing s t c) (body : State → Ctx → Act) :
    issueWith s body = .next ((t.settleAct c (body t c)).ended c) := by
  have h5 := h.sid
  obtain ⟨h1, h2, h3, h4⟩ := h
  unfold issueWith
  simp only [h1, h2, ← h3, ← h4, State.ended, h5]
  simp

theorem issue_eq (h : Issuing s t c) {att : Attach} {us : List Use} {super : Bool}
    (hd : decodeTrap att us super t c = none) (entry : State → Ctx → Act) :
    issue s att us super entry = .next ((t.settleAct c (entry t c)).ended c) := by
  unfold issue
  rw [issueWith_eq h]
  simp only [hd]

theorem issue_trap (h : Issuing s t c) {att : Attach} {us : List Use} {super : Bool} {f : TrapInfo}
    (hd : decodeTrap att us super t c = some f) (entry : State → Ctx → Act) :
    issue s att us super entry = .next (t.faulted c f) := by
  unfold issue
  rw [issueWith_eq h]
  simp only [hd, State.settleAct, State.faulted]

variable {att : Attach} {us : List Use} {super : Bool} {entry : State → Ctx → Act} {u : State} {next : Word}

theorem issue_go (h : Issuing s t c) (hd : decodeTrap att us super t c = none) (he : entry t c = .go u next) :
    issue s att us super entry = .next (u.finish c next) := by
  rw [issue_eq h hd, he]; rfl

theorem issue_fault (h : Issuing s t c) (hd : decodeTrap att us super t c = none) {f : TrapInfo}
    (he : entry t c = .fault f) : issue s att us super entry = .next (t.faulted c f) := by
  rw [issue_eq h hd, he]; rfl

theorem issue_faultIn (h : Issuing s t c) (hd : decodeTrap att us super t c = none) {f : TrapInfo}
    (he : entry t c = .faultIn u f) : issue s att us super entry = .next (u.faulted c f) := by
  rw [issue_eq h hd, he]; rfl

theorem issue_wait (h : Issuing s t c) (hd : decodeTrap att us super t c = none) {r : ParkReason} {on : ParkOn}
    (he : entry t c = .wait u r on) : issue s att us super entry = .next (u.parked c r on) := by
  rw [issue_eq h hd, he]; rfl

theorem issue_over (h : Issuing s t c) (hd : decodeTrap att us super t c = none) (he : entry t c = .over u) :
    issue s att us super entry = .next (u.ended c) := by
  rw [issue_eq h hd, he]; rfl

theorem issue_later (h : Issuing s t c) (hd : decodeTrap att us super t c = none) {v : Nat}
    (he : entry t c = .later v) :
    issue s att us super entry = .next ((t.settleAct c (.later v)).ended c) := by
  rw [issue_eq h hd, he]

/-- A strand with no request and no deferred effect waits for nothing. -/
theorem Strand.nextWaits_idle {st : Strand} {sync : Bool} (h1 : st.inflight = []) (h2 : st.deferred = []) :
    st.nextWaits sync = false := by
  simp [Strand.nextWaits, Strand.orderWaits, h1, h2]

end Sys2Proof.Machine
end

