-- ==== Sys2Proof/Laws/Tab.lean ====
section
/-! SUPPORT. Laws of sparse tables: a read after a write, and the canonical form that writes keep. -/

namespace Sys2Proof.Machine

section
variable {α : Type}

@[simp] theorem Tab.find?_put_self (t : Tab α) (i : Nat) (v : α) : Tab.find? (Tab.put t i v) i = some v := by
  induction t with
  | nil => simp [Tab.put, Tab.find?]
  | cons e t ih =>
    obtain ⟨k, w⟩ := e
    simp only [Tab.put]
    split
    · simp [Tab.find?]
    · split
      · simp [Tab.find?]
      · rename_i h1 h2
        simp [Tab.find?, h2, ih]

theorem Tab.find?_put_ne (t : Tab α) {i j : Nat} (v : α) (h : j ≠ i) :
    Tab.find? (Tab.put t i v) j = Tab.find? t j := by
  induction t with
  | nil => simp [Tab.put, Tab.find?, h]
  | cons e t ih =>
    obtain ⟨k, w⟩ := e
    simp only [Tab.put]
    split
    · simp [Tab.find?, h]
    · split
      · rename_i h1 h2
        subst h2
        simp [Tab.find?, h]
      · simp [Tab.find?, ih]

@[simp] theorem Tab.get_put_self (d : α) (t : Tab α) (i : Nat) (v : α) : Tab.get d (Tab.put t i v) i = v := by
  simp [Tab.get]

theorem Tab.get_put_ne (d : α) (t : Tab α) {i j : Nat} (v : α) (h : j ≠ i) :
    Tab.get d (Tab.put t i v) j = Tab.get d t j := by
  simp [Tab.get, Tab.find?_put_ne t v h]

@[simp] theorem Tab.get_nil (d : α) (i : Nat) : Tab.get d ([] : Tab α) i = d := rfl

theorem Tab.find?_drop_ne (t : Tab α) {i j : Nat} (h : j ≠ i) : Tab.find? (Tab.drop t i) j = Tab.find? t j := by
  induction t with
  | nil => rfl
  | cons e t ih =>
    obtain ⟨k, w⟩ := e
    simp only [Tab.drop]
    split
    · rename_i h1
      subst h1
      simp [Tab.find?, h]
    · simp [Tab.find?, ih]

/-! ## The canonical form -/

theorem Tab.risesFrom_mono {n m : Nat} (h : m ≤ n) {t : Tab α} (ht : Tab.risesFrom n t = true) : Tab.risesFrom m t = true := by
  cases t with
  | nil => rfl
  | cons e t =>
    obtain ⟨k, w⟩ := e
    simp only [Tab.risesFrom, Bool.and_eq_true, decide_eq_true_eq] at *
    exact ⟨by omega, ht.2⟩

/-- A key below a rising table's bound is not listed. -/
theorem Tab.find?_below {n i : Nat} {t : Tab α} (ht : Tab.risesFrom n t = true) (h : i < n) : Tab.find? t i = none := by
  induction t generalizing n with
  | nil => rfl
  | cons e t ih =>
    obtain ⟨k, w⟩ := e
    simp only [Tab.risesFrom, Bool.and_eq_true, decide_eq_true_eq] at ht
    have : i ≠ k := by omega
    simp [Tab.find?, this, ih ht.2 (by omega)]

theorem Tab.risesFrom_put {n i : Nat} {t : Tab α} (v : α) (ht : Tab.risesFrom n t = true) (h : n ≤ i) :
    Tab.risesFrom n (Tab.put t i v) = true := by
  induction t generalizing n with
  | nil => simp [Tab.put, Tab.risesFrom, h]
  | cons e t ih =>
    obtain ⟨k, w⟩ := e
    simp only [Tab.risesFrom, Bool.and_eq_true, decide_eq_true_eq] at ht
    simp only [Tab.put]
    split
    · rename_i h1
      simp only [Tab.risesFrom, Bool.and_eq_true, decide_eq_true_eq]
      exact ⟨h, by omega, ht.2⟩
    · split
      · rename_i h1 h2
        subst h2
        simp only [Tab.risesFrom, Bool.and_eq_true, decide_eq_true_eq]
        exact ⟨ht.1, ht.2⟩
      · simp only [Tab.risesFrom, Bool.and_eq_true, decide_eq_true_eq]
        exact ⟨ht.1, ih ht.2 (by omega)⟩

theorem Tab.risesFrom_drop {n i : Nat} {t : Tab α} (ht : Tab.risesFrom n t = true) :
    Tab.risesFrom n (Tab.drop t i) = true := by
  induction t generalizing n with
  | nil => rfl
  | cons e t ih =>
    obtain ⟨k, w⟩ := e
    simp only [Tab.risesFrom, Bool.and_eq_true, decide_eq_true_eq] at ht
    simp only [Tab.drop]
    split
    · exact Tab.risesFrom_mono (by omega) ht.2
    · simp only [Tab.risesFrom, Bool.and_eq_true, decide_eq_true_eq]
      exact ⟨ht.1, ih ht.2⟩

theorem Tab.find?_drop_self {n i : Nat} {t : Tab α} (ht : Tab.risesFrom n t = true) : Tab.find? (Tab.drop t i) i = none := by
  induction t generalizing n with
  | nil => rfl
  | cons e t ih =>
    obtain ⟨k, w⟩ := e
    simp only [Tab.risesFrom, Bool.and_eq_true, decide_eq_true_eq] at ht
    simp only [Tab.drop]
    split
    · rename_i h
      exact Tab.find?_below ht.2 (by omega)
    · rename_i h
      simp [Tab.find?, h, ih ht.2]

theorem Tab.all_put {p : Nat × α → Bool} {t : Tab α} (i : Nat) (v : α) (ht : t.all p = true) (h : p (i, v) = true) :
    (Tab.put t i v).all p = true := by
  induction t with
  | nil => simp [Tab.put, h]
  | cons e t ih =>
    obtain ⟨k, w⟩ := e
    simp only [List.all_cons, Bool.and_eq_true] at ht
    simp only [Tab.put]
    split
    · simp [h, ht.1, ht.2]
    · split
      · simp only [List.all_cons, h, ht.2, Bool.and_self]
      · simp only [List.all_cons, ht.1, ih ht.2, Bool.and_self]

theorem Tab.all_drop {p : Nat × α → Bool} {t : Tab α} (i : Nat) (ht : t.all p = true) : (Tab.drop t i).all p = true := by
  induction t with
  | nil => rfl
  | cons e t ih =>
    obtain ⟨k, w⟩ := e
    simp only [List.all_cons, Bool.and_eq_true] at ht
    simp only [Tab.drop]
    split
    · exact ht.2
    · simp only [List.all_cons, ht.1, ih ht.2, Bool.and_self]

variable [DecidableEq α]

/-- A canonical write keeps the canonical form. -/
theorem Tab.wf_set {d : α} {t : Tab α} (i : Nat) (v : α) (h : Tab.wf d t = true) : Tab.wf d (Tab.set d t i v) = true := by
  simp only [Tab.wf, Bool.and_eq_true] at *
  simp only [Tab.set]
  split
  · exact ⟨Tab.risesFrom_drop h.1, Tab.all_drop i h.2⟩
  · rename_i hv
    exact ⟨Tab.risesFrom_put v h.1 (Nat.zero_le _), Tab.all_put i v h.2 (by simpa using hv)⟩

/-- A read after a canonical write to the same key gives the value written. -/
theorem Tab.get_set_self {d : α} {t : Tab α} (i : Nat) (v : α) (h : Tab.wf d t = true) : Tab.get d (Tab.set d t i v) i = v := by
  simp only [Tab.wf, Bool.and_eq_true] at h
  simp only [Tab.set]
  split
  · rename_i hv
    simp [Tab.get, Tab.find?_drop_self h.1, hv]
  · simp

/-- A canonical write leaves every other key alone. -/
theorem Tab.get_set_ne {d : α} (t : Tab α) {i j : Nat} (v : α) (h : j ≠ i) : Tab.get d (Tab.set d t i v) j = Tab.get d t j := by
  simp only [Tab.set]
  split
  · simp [Tab.get, Tab.find?_drop_ne t h]
  · exact Tab.get_put_ne d t v h

/-- Canonical tables that read alike are the same table. -/
theorem Tab.eq_of_get_eq {d : α} {n : Nat} {t u : Tab α} (ht : Tab.risesFrom n t = true)
    (ht' : t.all (fun e => e.2 ≠ d) = true) (hu : Tab.risesFrom n u = true) (hu' : u.all (fun e => e.2 ≠ d) = true)
    (h : ∀ i, Tab.get d t i = Tab.get d u i) : t = u := by
  induction t generalizing n u with
  | nil =>
    cases u with
    | nil => rfl
    | cons f u =>
      obtain ⟨j, x⟩ := f
      simp only [List.all_cons, Bool.and_eq_true, decide_eq_true_eq] at hu'
      have := h j
      simp [Tab.get, Tab.find?] at this
      exact absurd this.symm hu'.1
  | cons e t ih =>
    obtain ⟨k, w⟩ := e
    cases u with
    | nil =>
      simp only [List.all_cons, Bool.and_eq_true, decide_eq_true_eq] at ht'
      have := h k
      simp [Tab.get, Tab.find?] at this
      exact absurd this ht'.1
    | cons f u =>
      obtain ⟨j, x⟩ := f
      simp only [Tab.risesFrom, Bool.and_eq_true, decide_eq_true_eq, List.all_cons] at ht ht' hu hu'
      have hkj : k = j := by
        rcases Nat.lt_trichotomy k j with hlt | heq | hgt
        · have hk := h k
          have hne : k ≠ j := by omega
          simp [Tab.get, Tab.find?, hne, Tab.find?_below hu.2 (show k < j + 1 by omega)] at hk
          exact absurd hk ht'.1
        · exact heq
        · have hj := h j
          have hne : j ≠ k := by omega
          simp [Tab.get, Tab.find?, hne, Tab.find?_below ht.2 (show j < k + 1 by omega)] at hj
          exact absurd hj.symm hu'.1
      subst hkj
      have hw : w = x := by
        have := h k
        simpa [Tab.get, Tab.find?] using this
      subst hw
      have : t = u := by
        refine ih ht.2 ht'.2 hu.2 hu'.2 fun i => ?_
        by_cases hik : i = k
        · subst hik
          simp [Tab.get, Tab.find?_below ht.2 (show i < i + 1 by omega), Tab.find?_below hu.2 (show i < i + 1 by omega)]
        · simpa [Tab.get, Tab.find?, hik] using h i
      rw [this]

@[simp] theorem Tab.wf_nil (d : α) : Tab.wf d ([] : Tab α) = true := rfl

end

end Sys2Proof.Machine
end

