-- ==== Sys2Proof/Laws/State.lean ====
section
/-! SUPPORT. What each update of a part of the state leaves: one law per field and update, and reads after writes of
cores, strands, jobs, queues and channels. -/

namespace Sys2Proof.Machine

/-! ### setCore -/

@[simp] theorem State.setCore_clock (s : State) (c : Nat) (k : Core) : (s.setCore c k).clock = s.clock := rfl
@[simp] theorem State.setCore_cur (s : State) (c : Nat) (k : Core) : (s.setCore c k).cur = s.cur := rfl
@[simp] theorem State.setCore_mem (s : State) (c : Nat) (k : Core) : (s.setCore c k).mem = s.mem := rfl
@[simp] theorem State.setCore_jobs (s : State) (c : Nat) (k : Core) : (s.setCore c k).jobs = s.jobs := rfl
@[simp] theorem State.setCore_queues (s : State) (c : Nat) (k : Core) : (s.setCore c k).queues = s.queues := rfl
@[simp] theorem State.setCore_disp (s : State) (c : Nat) (k : Core) : (s.setCore c k).disp = s.disp := rfl
@[simp] theorem State.setCore_gangs (s : State) (c : Nat) (k : Core) : (s.setCore c k).gangs = s.gangs := rfl
@[simp] theorem State.setCore_woad (s : State) (c : Nat) (k : Core) : (s.setCore c k).woad = s.woad := rfl
@[simp] theorem State.setCore_sfu (s : State) (c : Nat) (k : Core) : (s.setCore c k).sfu = s.sfu := rfl
@[simp] theorem State.setCore_coll (s : State) (c : Nat) (k : Core) : (s.setCore c k).coll = s.coll := rfl
@[simp] theorem State.setCore_fw (s : State) (c : Nat) (k : Core) : (s.setCore c k).fw = s.fw := rfl
@[simp] theorem State.setCore_out (s : State) (c : Nat) (k : Core) : (s.setCore c k).out = s.out := rfl
@[simp] theorem State.setCore_agenda (s : State) (c : Nat) (k : Core) : (s.setCore c k).agenda = s.agenda := rfl
@[simp] theorem State.setCore_choices (s : State) (c : Nat) (k : Core) : (s.setCore c k).choices = s.choices := rfl
@[simp] theorem State.setCore_nextId (s : State) (c : Nat) (k : Core) : (s.setCore c k).nextId = s.nextId := rfl

/-! ### modCore -/

@[simp] theorem State.modCore_clock (s : State) (c : Nat) (f : Core → Core) : (s.modCore c f).clock = s.clock := rfl
@[simp] theorem State.modCore_cur (s : State) (c : Nat) (f : Core → Core) : (s.modCore c f).cur = s.cur := rfl
@[simp] theorem State.modCore_mem (s : State) (c : Nat) (f : Core → Core) : (s.modCore c f).mem = s.mem := rfl
@[simp] theorem State.modCore_jobs (s : State) (c : Nat) (f : Core → Core) : (s.modCore c f).jobs = s.jobs := rfl
@[simp] theorem State.modCore_queues (s : State) (c : Nat) (f : Core → Core) : (s.modCore c f).queues = s.queues := rfl
@[simp] theorem State.modCore_disp (s : State) (c : Nat) (f : Core → Core) : (s.modCore c f).disp = s.disp := rfl
@[simp] theorem State.modCore_gangs (s : State) (c : Nat) (f : Core → Core) : (s.modCore c f).gangs = s.gangs := rfl
@[simp] theorem State.modCore_woad (s : State) (c : Nat) (f : Core → Core) : (s.modCore c f).woad = s.woad := rfl
@[simp] theorem State.modCore_sfu (s : State) (c : Nat) (f : Core → Core) : (s.modCore c f).sfu = s.sfu := rfl
@[simp] theorem State.modCore_coll (s : State) (c : Nat) (f : Core → Core) : (s.modCore c f).coll = s.coll := rfl
@[simp] theorem State.modCore_fw (s : State) (c : Nat) (f : Core → Core) : (s.modCore c f).fw = s.fw := rfl
@[simp] theorem State.modCore_out (s : State) (c : Nat) (f : Core → Core) : (s.modCore c f).out = s.out := rfl
@[simp] theorem State.modCore_agenda (s : State) (c : Nat) (f : Core → Core) : (s.modCore c f).agenda = s.agenda := rfl
@[simp] theorem State.modCore_choices (s : State) (c : Nat) (f : Core → Core) : (s.modCore c f).choices = s.choices := rfl
@[simp] theorem State.modCore_nextId (s : State) (c : Nat) (f : Core → Core) : (s.modCore c f).nextId = s.nextId := rfl

/-! ### setStrand -/

@[simp] theorem State.setStrand_clock (s : State) (x : SId) (st : Strand) : (s.setStrand x st).clock = s.clock := rfl
@[simp] theorem State.setStrand_cur (s : State) (x : SId) (st : Strand) : (s.setStrand x st).cur = s.cur := rfl
@[simp] theorem State.setStrand_mem (s : State) (x : SId) (st : Strand) : (s.setStrand x st).mem = s.mem := rfl
@[simp] theorem State.setStrand_jobs (s : State) (x : SId) (st : Strand) : (s.setStrand x st).jobs = s.jobs := rfl
@[simp] theorem State.setStrand_queues (s : State) (x : SId) (st : Strand) : (s.setStrand x st).queues = s.queues := rfl
@[simp] theorem State.setStrand_disp (s : State) (x : SId) (st : Strand) : (s.setStrand x st).disp = s.disp := rfl
@[simp] theorem State.setStrand_gangs (s : State) (x : SId) (st : Strand) : (s.setStrand x st).gangs = s.gangs := rfl
@[simp] theorem State.setStrand_woad (s : State) (x : SId) (st : Strand) : (s.setStrand x st).woad = s.woad := rfl
@[simp] theorem State.setStrand_sfu (s : State) (x : SId) (st : Strand) : (s.setStrand x st).sfu = s.sfu := rfl
@[simp] theorem State.setStrand_coll (s : State) (x : SId) (st : Strand) : (s.setStrand x st).coll = s.coll := rfl
@[simp] theorem State.setStrand_fw (s : State) (x : SId) (st : Strand) : (s.setStrand x st).fw = s.fw := rfl
@[simp] theorem State.setStrand_out (s : State) (x : SId) (st : Strand) : (s.setStrand x st).out = s.out := rfl
@[simp] theorem State.setStrand_agenda (s : State) (x : SId) (st : Strand) : (s.setStrand x st).agenda = s.agenda := rfl
@[simp] theorem State.setStrand_choices (s : State) (x : SId) (st : Strand) : (s.setStrand x st).choices = s.choices := rfl
@[simp] theorem State.setStrand_nextId (s : State) (x : SId) (st : Strand) : (s.setStrand x st).nextId = s.nextId := rfl

/-! ### modStrand -/

@[simp] theorem State.modStrand_clock (s : State) (x : SId) (f : Strand → Strand) : (s.modStrand x f).clock = s.clock := rfl
@[simp] theorem State.modStrand_cur (s : State) (x : SId) (f : Strand → Strand) : (s.modStrand x f).cur = s.cur := rfl
@[simp] theorem State.modStrand_mem (s : State) (x : SId) (f : Strand → Strand) : (s.modStrand x f).mem = s.mem := rfl
@[simp] theorem State.modStrand_jobs (s : State) (x : SId) (f : Strand → Strand) : (s.modStrand x f).jobs = s.jobs := rfl
@[simp] theorem State.modStrand_queues (s : State) (x : SId) (f : Strand → Strand) : (s.modStrand x f).queues = s.queues := rfl
@[simp] theorem State.modStrand_disp (s : State) (x : SId) (f : Strand → Strand) : (s.modStrand x f).disp = s.disp := rfl
@[simp] theorem State.modStrand_gangs (s : State) (x : SId) (f : Strand → Strand) : (s.modStrand x f).gangs = s.gangs := rfl
@[simp] theorem State.modStrand_woad (s : State) (x : SId) (f : Strand → Strand) : (s.modStrand x f).woad = s.woad := rfl
@[simp] theorem State.modStrand_sfu (s : State) (x : SId) (f : Strand → Strand) : (s.modStrand x f).sfu = s.sfu := rfl
@[simp] theorem State.modStrand_coll (s : State) (x : SId) (f : Strand → Strand) : (s.modStrand x f).coll = s.coll := rfl
@[simp] theorem State.modStrand_fw (s : State) (x : SId) (f : Strand → Strand) : (s.modStrand x f).fw = s.fw := rfl
@[simp] theorem State.modStrand_out (s : State) (x : SId) (f : Strand → Strand) : (s.modStrand x f).out = s.out := rfl
@[simp] theorem State.modStrand_agenda (s : State) (x : SId) (f : Strand → Strand) : (s.modStrand x f).agenda = s.agenda := rfl
@[simp] theorem State.modStrand_choices (s : State) (x : SId) (f : Strand → Strand) : (s.modStrand x f).choices = s.choices := rfl
@[simp] theorem State.modStrand_nextId (s : State) (x : SId) (f : Strand → Strand) : (s.modStrand x f).nextId = s.nextId := rfl

/-! ### setMem -/

@[simp] theorem State.setMem_clock (s : State) (m : MemSys) : (s.setMem m).clock = s.clock := rfl
@[simp] theorem State.setMem_cur (s : State) (m : MemSys) : (s.setMem m).cur = s.cur := rfl
@[simp] theorem State.setMem_cores (s : State) (m : MemSys) : (s.setMem m).cores = s.cores := rfl
@[simp] theorem State.setMem_jobs (s : State) (m : MemSys) : (s.setMem m).jobs = s.jobs := rfl
@[simp] theorem State.setMem_queues (s : State) (m : MemSys) : (s.setMem m).queues = s.queues := rfl
@[simp] theorem State.setMem_disp (s : State) (m : MemSys) : (s.setMem m).disp = s.disp := rfl
@[simp] theorem State.setMem_gangs (s : State) (m : MemSys) : (s.setMem m).gangs = s.gangs := rfl
@[simp] theorem State.setMem_woad (s : State) (m : MemSys) : (s.setMem m).woad = s.woad := rfl
@[simp] theorem State.setMem_sfu (s : State) (m : MemSys) : (s.setMem m).sfu = s.sfu := rfl
@[simp] theorem State.setMem_coll (s : State) (m : MemSys) : (s.setMem m).coll = s.coll := rfl
@[simp] theorem State.setMem_fw (s : State) (m : MemSys) : (s.setMem m).fw = s.fw := rfl
@[simp] theorem State.setMem_out (s : State) (m : MemSys) : (s.setMem m).out = s.out := rfl
@[simp] theorem State.setMem_agenda (s : State) (m : MemSys) : (s.setMem m).agenda = s.agenda := rfl
@[simp] theorem State.setMem_choices (s : State) (m : MemSys) : (s.setMem m).choices = s.choices := rfl
@[simp] theorem State.setMem_nextId (s : State) (m : MemSys) : (s.setMem m).nextId = s.nextId := rfl

/-! ### modMem -/

@[simp] theorem State.modMem_clock (s : State) (f : MemSys → MemSys) : (s.modMem f).clock = s.clock := rfl
@[simp] theorem State.modMem_cur (s : State) (f : MemSys → MemSys) : (s.modMem f).cur = s.cur := rfl
@[simp] theorem State.modMem_cores (s : State) (f : MemSys → MemSys) : (s.modMem f).cores = s.cores := rfl
@[simp] theorem State.modMem_jobs (s : State) (f : MemSys → MemSys) : (s.modMem f).jobs = s.jobs := rfl
@[simp] theorem State.modMem_queues (s : State) (f : MemSys → MemSys) : (s.modMem f).queues = s.queues := rfl
@[simp] theorem State.modMem_disp (s : State) (f : MemSys → MemSys) : (s.modMem f).disp = s.disp := rfl
@[simp] theorem State.modMem_gangs (s : State) (f : MemSys → MemSys) : (s.modMem f).gangs = s.gangs := rfl
@[simp] theorem State.modMem_woad (s : State) (f : MemSys → MemSys) : (s.modMem f).woad = s.woad := rfl
@[simp] theorem State.modMem_sfu (s : State) (f : MemSys → MemSys) : (s.modMem f).sfu = s.sfu := rfl
@[simp] theorem State.modMem_coll (s : State) (f : MemSys → MemSys) : (s.modMem f).coll = s.coll := rfl
@[simp] theorem State.modMem_fw (s : State) (f : MemSys → MemSys) : (s.modMem f).fw = s.fw := rfl
@[simp] theorem State.modMem_out (s : State) (f : MemSys → MemSys) : (s.modMem f).out = s.out := rfl
@[simp] theorem State.modMem_agenda (s : State) (f : MemSys → MemSys) : (s.modMem f).agenda = s.agenda := rfl
@[simp] theorem State.modMem_choices (s : State) (f : MemSys → MemSys) : (s.modMem f).choices = s.choices := rfl
@[simp] theorem State.modMem_nextId (s : State) (f : MemSys → MemSys) : (s.modMem f).nextId = s.nextId := rfl

/-! ### setJob -/

@[simp] theorem State.setJob_clock (s : State) (j : Nat) (b : Job) : (s.setJob j b).clock = s.clock := rfl
@[simp] theorem State.setJob_cur (s : State) (j : Nat) (b : Job) : (s.setJob j b).cur = s.cur := rfl
@[simp] theorem State.setJob_cores (s : State) (j : Nat) (b : Job) : (s.setJob j b).cores = s.cores := rfl
@[simp] theorem State.setJob_mem (s : State) (j : Nat) (b : Job) : (s.setJob j b).mem = s.mem := rfl
@[simp] theorem State.setJob_queues (s : State) (j : Nat) (b : Job) : (s.setJob j b).queues = s.queues := rfl
@[simp] theorem State.setJob_disp (s : State) (j : Nat) (b : Job) : (s.setJob j b).disp = s.disp := rfl
@[simp] theorem State.setJob_gangs (s : State) (j : Nat) (b : Job) : (s.setJob j b).gangs = s.gangs := rfl
@[simp] theorem State.setJob_woad (s : State) (j : Nat) (b : Job) : (s.setJob j b).woad = s.woad := rfl
@[simp] theorem State.setJob_sfu (s : State) (j : Nat) (b : Job) : (s.setJob j b).sfu = s.sfu := rfl
@[simp] theorem State.setJob_coll (s : State) (j : Nat) (b : Job) : (s.setJob j b).coll = s.coll := rfl
@[simp] theorem State.setJob_fw (s : State) (j : Nat) (b : Job) : (s.setJob j b).fw = s.fw := rfl
@[simp] theorem State.setJob_out (s : State) (j : Nat) (b : Job) : (s.setJob j b).out = s.out := rfl
@[simp] theorem State.setJob_agenda (s : State) (j : Nat) (b : Job) : (s.setJob j b).agenda = s.agenda := rfl
@[simp] theorem State.setJob_choices (s : State) (j : Nat) (b : Job) : (s.setJob j b).choices = s.choices := rfl
@[simp] theorem State.setJob_nextId (s : State) (j : Nat) (b : Job) : (s.setJob j b).nextId = s.nextId := rfl

/-! ### modJob -/

@[simp] theorem State.modJob_clock (s : State) (j : Nat) (f : Job → Job) : (s.modJob j f).clock = s.clock := rfl
@[simp] theorem State.modJob_cur (s : State) (j : Nat) (f : Job → Job) : (s.modJob j f).cur = s.cur := rfl
@[simp] theorem State.modJob_cores (s : State) (j : Nat) (f : Job → Job) : (s.modJob j f).cores = s.cores := rfl
@[simp] theorem State.modJob_mem (s : State) (j : Nat) (f : Job → Job) : (s.modJob j f).mem = s.mem := rfl
@[simp] theorem State.modJob_queues (s : State) (j : Nat) (f : Job → Job) : (s.modJob j f).queues = s.queues := rfl
@[simp] theorem State.modJob_disp (s : State) (j : Nat) (f : Job → Job) : (s.modJob j f).disp = s.disp := rfl
@[simp] theorem State.modJob_gangs (s : State) (j : Nat) (f : Job → Job) : (s.modJob j f).gangs = s.gangs := rfl
@[simp] theorem State.modJob_woad (s : State) (j : Nat) (f : Job → Job) : (s.modJob j f).woad = s.woad := rfl
@[simp] theorem State.modJob_sfu (s : State) (j : Nat) (f : Job → Job) : (s.modJob j f).sfu = s.sfu := rfl
@[simp] theorem State.modJob_coll (s : State) (j : Nat) (f : Job → Job) : (s.modJob j f).coll = s.coll := rfl
@[simp] theorem State.modJob_fw (s : State) (j : Nat) (f : Job → Job) : (s.modJob j f).fw = s.fw := rfl
@[simp] theorem State.modJob_out (s : State) (j : Nat) (f : Job → Job) : (s.modJob j f).out = s.out := rfl
@[simp] theorem State.modJob_agenda (s : State) (j : Nat) (f : Job → Job) : (s.modJob j f).agenda = s.agenda := rfl
@[simp] theorem State.modJob_choices (s : State) (j : Nat) (f : Job → Job) : (s.modJob j f).choices = s.choices := rfl
@[simp] theorem State.modJob_nextId (s : State) (j : Nat) (f : Job → Job) : (s.modJob j f).nextId = s.nextId := rfl

/-! ### setQueue -/

@[simp] theorem State.setQueue_clock (s : State) (q : Nat) (v : Queue) : (s.setQueue q v).clock = s.clock := rfl
@[simp] theorem State.setQueue_cur (s : State) (q : Nat) (v : Queue) : (s.setQueue q v).cur = s.cur := rfl
@[simp] theorem State.setQueue_cores (s : State) (q : Nat) (v : Queue) : (s.setQueue q v).cores = s.cores := rfl
@[simp] theorem State.setQueue_mem (s : State) (q : Nat) (v : Queue) : (s.setQueue q v).mem = s.mem := rfl
@[simp] theorem State.setQueue_jobs (s : State) (q : Nat) (v : Queue) : (s.setQueue q v).jobs = s.jobs := rfl
@[simp] theorem State.setQueue_disp (s : State) (q : Nat) (v : Queue) : (s.setQueue q v).disp = s.disp := rfl
@[simp] theorem State.setQueue_gangs (s : State) (q : Nat) (v : Queue) : (s.setQueue q v).gangs = s.gangs := rfl
@[simp] theorem State.setQueue_woad (s : State) (q : Nat) (v : Queue) : (s.setQueue q v).woad = s.woad := rfl
@[simp] theorem State.setQueue_sfu (s : State) (q : Nat) (v : Queue) : (s.setQueue q v).sfu = s.sfu := rfl
@[simp] theorem State.setQueue_coll (s : State) (q : Nat) (v : Queue) : (s.setQueue q v).coll = s.coll := rfl
@[simp] theorem State.setQueue_fw (s : State) (q : Nat) (v : Queue) : (s.setQueue q v).fw = s.fw := rfl
@[simp] theorem State.setQueue_out (s : State) (q : Nat) (v : Queue) : (s.setQueue q v).out = s.out := rfl
@[simp] theorem State.setQueue_agenda (s : State) (q : Nat) (v : Queue) : (s.setQueue q v).agenda = s.agenda := rfl
@[simp] theorem State.setQueue_choices (s : State) (q : Nat) (v : Queue) : (s.setQueue q v).choices = s.choices := rfl
@[simp] theorem State.setQueue_nextId (s : State) (q : Nat) (v : Queue) : (s.setQueue q v).nextId = s.nextId := rfl

/-! ### setChannel -/

@[simp] theorem State.setChannel_clock (s : State) (c : Nat) (v : Channel) : (s.setChannel c v).clock = s.clock := rfl
@[simp] theorem State.setChannel_cur (s : State) (c : Nat) (v : Channel) : (s.setChannel c v).cur = s.cur := rfl
@[simp] theorem State.setChannel_cores (s : State) (c : Nat) (v : Channel) : (s.setChannel c v).cores = s.cores := rfl
@[simp] theorem State.setChannel_mem (s : State) (c : Nat) (v : Channel) : (s.setChannel c v).mem = s.mem := rfl
@[simp] theorem State.setChannel_jobs (s : State) (c : Nat) (v : Channel) : (s.setChannel c v).jobs = s.jobs := rfl
@[simp] theorem State.setChannel_queues (s : State) (c : Nat) (v : Channel) : (s.setChannel c v).queues = s.queues := rfl
@[simp] theorem State.setChannel_disp (s : State) (c : Nat) (v : Channel) : (s.setChannel c v).disp = s.disp := rfl
@[simp] theorem State.setChannel_gangs (s : State) (c : Nat) (v : Channel) : (s.setChannel c v).gangs = s.gangs := rfl
@[simp] theorem State.setChannel_sfu (s : State) (c : Nat) (v : Channel) : (s.setChannel c v).sfu = s.sfu := rfl
@[simp] theorem State.setChannel_coll (s : State) (c : Nat) (v : Channel) : (s.setChannel c v).coll = s.coll := rfl
@[simp] theorem State.setChannel_fw (s : State) (c : Nat) (v : Channel) : (s.setChannel c v).fw = s.fw := rfl
@[simp] theorem State.setChannel_out (s : State) (c : Nat) (v : Channel) : (s.setChannel c v).out = s.out := rfl
@[simp] theorem State.setChannel_agenda (s : State) (c : Nat) (v : Channel) : (s.setChannel c v).agenda = s.agenda := rfl
@[simp] theorem State.setChannel_choices (s : State) (c : Nat) (v : Channel) : (s.setChannel c v).choices = s.choices := rfl
@[simp] theorem State.setChannel_nextId (s : State) (c : Nat) (v : Channel) : (s.setChannel c v).nextId = s.nextId := rfl

/-! ### modDisp -/

@[simp] theorem State.modDisp_clock (s : State) (f : Dispatcher → Dispatcher) : (s.modDisp f).clock = s.clock := rfl
@[simp] theorem State.modDisp_cur (s : State) (f : Dispatcher → Dispatcher) : (s.modDisp f).cur = s.cur := rfl
@[simp] theorem State.modDisp_cores (s : State) (f : Dispatcher → Dispatcher) : (s.modDisp f).cores = s.cores := rfl
@[simp] theorem State.modDisp_mem (s : State) (f : Dispatcher → Dispatcher) : (s.modDisp f).mem = s.mem := rfl
@[simp] theorem State.modDisp_jobs (s : State) (f : Dispatcher → Dispatcher) : (s.modDisp f).jobs = s.jobs := rfl
@[simp] theorem State.modDisp_queues (s : State) (f : Dispatcher → Dispatcher) : (s.modDisp f).queues = s.queues := rfl
@[simp] theorem State.modDisp_gangs (s : State) (f : Dispatcher → Dispatcher) : (s.modDisp f).gangs = s.gangs := rfl
@[simp] theorem State.modDisp_woad (s : State) (f : Dispatcher → Dispatcher) : (s.modDisp f).woad = s.woad := rfl
@[simp] theorem State.modDisp_sfu (s : State) (f : Dispatcher → Dispatcher) : (s.modDisp f).sfu = s.sfu := rfl
@[simp] theorem State.modDisp_coll (s : State) (f : Dispatcher → Dispatcher) : (s.modDisp f).coll = s.coll := rfl
@[simp] theorem State.modDisp_fw (s : State) (f : Dispatcher → Dispatcher) : (s.modDisp f).fw = s.fw := rfl
@[simp] theorem State.modDisp_out (s : State) (f : Dispatcher → Dispatcher) : (s.modDisp f).out = s.out := rfl
@[simp] theorem State.modDisp_agenda (s : State) (f : Dispatcher → Dispatcher) : (s.modDisp f).agenda = s.agenda := rfl
@[simp] theorem State.modDisp_choices (s : State) (f : Dispatcher → Dispatcher) : (s.modDisp f).choices = s.choices := rfl
@[simp] theorem State.modDisp_nextId (s : State) (f : Dispatcher → Dispatcher) : (s.modDisp f).nextId = s.nextId := rfl

/-! ### tick -/

@[simp] theorem State.tick_cur (s : State) (cc : Nat) : (s.tick cc).cur = s.cur := rfl
@[simp] theorem State.tick_cores (s : State) (cc : Nat) : (s.tick cc).cores = s.cores := rfl
@[simp] theorem State.tick_mem (s : State) (cc : Nat) : (s.tick cc).mem = s.mem := rfl
@[simp] theorem State.tick_jobs (s : State) (cc : Nat) : (s.tick cc).jobs = s.jobs := rfl
@[simp] theorem State.tick_queues (s : State) (cc : Nat) : (s.tick cc).queues = s.queues := rfl
@[simp] theorem State.tick_disp (s : State) (cc : Nat) : (s.tick cc).disp = s.disp := rfl
@[simp] theorem State.tick_gangs (s : State) (cc : Nat) : (s.tick cc).gangs = s.gangs := rfl
@[simp] theorem State.tick_woad (s : State) (cc : Nat) : (s.tick cc).woad = s.woad := rfl
@[simp] theorem State.tick_sfu (s : State) (cc : Nat) : (s.tick cc).sfu = s.sfu := rfl
@[simp] theorem State.tick_coll (s : State) (cc : Nat) : (s.tick cc).coll = s.coll := rfl
@[simp] theorem State.tick_fw (s : State) (cc : Nat) : (s.tick cc).fw = s.fw := rfl
@[simp] theorem State.tick_out (s : State) (cc : Nat) : (s.tick cc).out = s.out := rfl
@[simp] theorem State.tick_agenda (s : State) (cc : Nat) : (s.tick cc).agenda = s.agenda := rfl
@[simp] theorem State.tick_choices (s : State) (cc : Nat) : (s.tick cc).choices = s.choices := rfl
@[simp] theorem State.tick_nextId (s : State) (cc : Nat) : (s.tick cc).nextId = s.nextId := rfl

/-! ### post -/

@[simp] theorem State.post_clock (s : State) (dt : Nat) (i : Event) : (s.post dt i).clock = s.clock := rfl
@[simp] theorem State.post_cur (s : State) (dt : Nat) (i : Event) : (s.post dt i).cur = s.cur := rfl
@[simp] theorem State.post_cores (s : State) (dt : Nat) (i : Event) : (s.post dt i).cores = s.cores := rfl
@[simp] theorem State.post_mem (s : State) (dt : Nat) (i : Event) : (s.post dt i).mem = s.mem := rfl
@[simp] theorem State.post_jobs (s : State) (dt : Nat) (i : Event) : (s.post dt i).jobs = s.jobs := rfl
@[simp] theorem State.post_queues (s : State) (dt : Nat) (i : Event) : (s.post dt i).queues = s.queues := rfl
@[simp] theorem State.post_disp (s : State) (dt : Nat) (i : Event) : (s.post dt i).disp = s.disp := rfl
@[simp] theorem State.post_gangs (s : State) (dt : Nat) (i : Event) : (s.post dt i).gangs = s.gangs := rfl
@[simp] theorem State.post_woad (s : State) (dt : Nat) (i : Event) : (s.post dt i).woad = s.woad := rfl
@[simp] theorem State.post_sfu (s : State) (dt : Nat) (i : Event) : (s.post dt i).sfu = s.sfu := rfl
@[simp] theorem State.post_coll (s : State) (dt : Nat) (i : Event) : (s.post dt i).coll = s.coll := rfl
@[simp] theorem State.post_fw (s : State) (dt : Nat) (i : Event) : (s.post dt i).fw = s.fw := rfl
@[simp] theorem State.post_out (s : State) (dt : Nat) (i : Event) : (s.post dt i).out = s.out := rfl
@[simp] theorem State.post_choices (s : State) (dt : Nat) (i : Event) : (s.post dt i).choices = s.choices := rfl
@[simp] theorem State.post_nextId (s : State) (dt : Nat) (i : Event) : (s.post dt i).nextId = s.nextId := rfl

/-! ### answer -/

@[simp] theorem State.answer_clock (s : State) (a : Answer) : (s.answer a).clock = s.clock := rfl
@[simp] theorem State.answer_cur (s : State) (a : Answer) : (s.answer a).cur = s.cur := rfl
@[simp] theorem State.answer_cores (s : State) (a : Answer) : (s.answer a).cores = s.cores := rfl
@[simp] theorem State.answer_mem (s : State) (a : Answer) : (s.answer a).mem = s.mem := rfl
@[simp] theorem State.answer_jobs (s : State) (a : Answer) : (s.answer a).jobs = s.jobs := rfl
@[simp] theorem State.answer_queues (s : State) (a : Answer) : (s.answer a).queues = s.queues := rfl
@[simp] theorem State.answer_disp (s : State) (a : Answer) : (s.answer a).disp = s.disp := rfl
@[simp] theorem State.answer_gangs (s : State) (a : Answer) : (s.answer a).gangs = s.gangs := rfl
@[simp] theorem State.answer_woad (s : State) (a : Answer) : (s.answer a).woad = s.woad := rfl
@[simp] theorem State.answer_sfu (s : State) (a : Answer) : (s.answer a).sfu = s.sfu := rfl
@[simp] theorem State.answer_coll (s : State) (a : Answer) : (s.answer a).coll = s.coll := rfl
@[simp] theorem State.answer_fw (s : State) (a : Answer) : (s.answer a).fw = s.fw := rfl
@[simp] theorem State.answer_agenda (s : State) (a : Answer) : (s.answer a).agenda = s.agenda := rfl
@[simp] theorem State.answer_choices (s : State) (a : Answer) : (s.answer a).choices = s.choices := rfl
@[simp] theorem State.answer_nextId (s : State) (a : Answer) : (s.answer a).nextId = s.nextId := rfl

@[simp] theorem State.setMem_mem (s : State) (m : MemSys) : (s.setMem m).mem = m := rfl
@[simp] theorem State.modMem_mem (s : State) (f : MemSys → MemSys) : (s.modMem f).mem = f s.mem := rfl
@[simp] theorem State.tick_clock (s : State) (cc : Nat) : (s.tick cc).clock = s.clock.advance cc := rfl
@[simp] theorem State.modDisp_disp (s : State) (f : Dispatcher → Dispatcher) : (s.modDisp f).disp = f s.disp := rfl
@[simp] theorem State.post_agenda (s : State) (dt : Nat) (i : Event) :
    (s.post dt i).agenda = s.agenda ++ [⟨s.clock.cc + dt, i⟩] := rfl
@[simp] theorem State.answer_out (s : State) (a : Answer) : (s.answer a).out = s.out ++ [a] := rfl

/-! ### Reads after writes -/

@[simp] theorem State.core_setCore (s : State) (c : Nat) (k : Core) : (s.setCore c k).core c = k := by
  simp [State.core, State.setCore]

theorem State.core_setCore_ne (s : State) {c d : Nat} (k : Core) (h : d ≠ c) : (s.setCore c k).core d = s.core d := by
  simp [State.core, State.setCore, Tab.get_put_ne _ _ _ h]

@[simp] theorem State.core_modCore (s : State) (c : Nat) (f : Core → Core) : (s.modCore c f).core c = f (s.core c) := by
  simp [State.modCore]

theorem State.core_modCore_ne (s : State) {c d : Nat} (f : Core → Core) (h : d ≠ c) :
    (s.modCore c f).core d = s.core d := State.core_setCore_ne s _ h

@[simp] theorem State.strand_setStrand (s : State) (x : SId) (st : Strand) : (s.setStrand x st).strand x = st := by
  simp [State.strand, State.setStrand, Core.strand]

theorem State.strand_setStrand_ne (s : State) {x y : SId} (st : Strand) (h : y ≠ x) :
    (s.setStrand x st).strand y = s.strand y := by
  unfold State.strand State.setStrand
  by_cases hc : y.core = x.core
  · have hs : y.strand ≠ x.strand := fun e => h (by cases x; cases y; simp_all)
    rw [hc, State.core_modCore]
    simp [Core.strand, Tab.get_put_ne _ _ _ hs]
  · rw [State.core_modCore_ne _ _ hc]

@[simp] theorem State.strand_modStrand (s : State) (x : SId) (f : Strand → Strand) :
    (s.modStrand x f).strand x = f (s.strand x) := by simp [State.modStrand]

theorem State.strand_modStrand_ne (s : State) {x y : SId} (f : Strand → Strand) (h : y ≠ x) :
    (s.modStrand x f).strand y = s.strand y := State.strand_setStrand_ne s _ h

/-- What a change of a strand leaves of every core: all but its strands. -/
theorem State.core_modStrand (s : State) (x : SId) (f : Strand → Strand) (c : Nat) :
    { (s.modStrand x f).core c with strands := [] } = { s.core c with strands := [] } := by
  unfold State.modStrand State.setStrand
  by_cases h : c = x.core
  · subst h
    rw [State.core_modCore]
  · rw [State.core_modCore_ne _ _ h]

@[simp] theorem State.strand_setMem (s : State) (m : MemSys) (x : SId) : (s.setMem m).strand x = s.strand x := rfl
@[simp] theorem State.strand_modMem (s : State) (f : MemSys → MemSys) (x : SId) : (s.modMem f).strand x = s.strand x := rfl
@[simp] theorem State.strand_tick (s : State) (cc : Nat) (x : SId) : (s.tick cc).strand x = s.strand x := rfl
@[simp] theorem State.strand_post (s : State) (dt : Nat) (i : Event) (x : SId) : (s.post dt i).strand x = s.strand x := rfl
@[simp] theorem State.strand_setJob (s : State) (j : Nat) (b : Job) (x : SId) : (s.setJob j b).strand x = s.strand x := rfl

@[simp] theorem State.job_setJob (s : State) (j : Nat) (b : Job) : (s.setJob j b).job j = b := by
  simp [State.job, State.setJob]

theorem State.job_setJob_ne (s : State) {i j : Nat} (b : Job) (h : i ≠ j) : (s.setJob j b).job i = s.job i := by
  simp [State.job, State.setJob, Tab.get_put_ne _ _ _ h]

@[simp] theorem State.job_modStrand (s : State) (x : SId) (f : Strand → Strand) (j : Nat) :
    (s.modStrand x f).job j = s.job j := rfl

@[simp] theorem State.queue_setQueue (s : State) (q : Nat) (v : Queue) : (s.setQueue q v).queue q = v := by
  simp [State.queue, State.setQueue]

theorem State.queue_setQueue_ne (s : State) {p q : Nat} (v : Queue) (h : p ≠ q) : (s.setQueue q v).queue p = s.queue p := by
  simp [State.queue, State.setQueue, Tab.get_put_ne _ _ _ h]

@[simp] theorem State.channel_setChannel (s : State) (c : Nat) (v : Channel) : (s.setChannel c v).channel c = v := by
  simp [State.channel, State.setChannel]

theorem State.channel_setChannel_ne (s : State) {c d : Nat} (v : Channel) (h : d ≠ c) :
    (s.setChannel c v).channel d = s.channel d := by
  simp [State.channel, State.setChannel, Tab.get_put_ne _ _ _ h]

theorem State.postOnce_cases (s : State) (dt : Nat) (i : Event) :
    s.postOnce dt i = s ∨ s.postOnce dt i = s.post dt i := by
  unfold State.postOnce
  split
  · exact .inl rfl
  · exact .inr rfl

/-! ### Registers -/

@[simp] theorem Regs.readG_zero (r : Regs) : r.readG 0 = 0 := rfl
@[simp] theorem Regs.readP_zero (r : Regs) : r.readP 0 = 0xFFFF := rfl
@[simp] theorem Regs.writeG_zero (r : Regs) (x : Word) : r.writeG 0 x = r := rfl
@[simp] theorem Regs.writeP_zero (r : Regs) (x : PWord) : r.writeP 0 x = r := rfl

/-- A general register that is not g0 reads as it was written, where the register file is in its canonical form. -/
theorem Regs.readG_writeG (r : Regs) {n : Nat} (x : Word) (hn : n ≠ 0) (h : Tab.wf (0 : Word) r.g = true) :
    (r.writeG n x).readG n = x := by
  unfold Regs.readG Regs.writeG
  rw [if_neg hn, if_neg hn]
  exact Tab.get_set_self n x h

theorem Regs.readG_writeG_ne (r : Regs) {m n : Nat} (x : Word) (h : m ≠ n) : (r.writeG n x).readG m = r.readG m := by
  unfold Regs.readG Regs.writeG
  by_cases hm : m = 0
  · rw [if_pos hm, if_pos hm]
  · rw [if_neg hm, if_neg hm]
    by_cases hn : n = 0
    · rw [if_pos hn]
    · rw [if_neg hn]
      exact Tab.get_set_ne _ _ h

@[simp] theorem Regs.readV_writeG (r : Regs) (n m : Nat) (x : Word) : (r.writeG n x).readV m = r.readV m := by
  unfold Regs.writeG
  split <;> rfl

@[simp] theorem Regs.readP_writeG (r : Regs) (n m : Nat) (x : Word) : (r.writeG n x).readP m = r.readP m := by
  unfold Regs.writeG
  split <;> rfl

@[simp] theorem Regs.readG_writeV (r : Regs) (n m : Nat) (x : VWord) : (r.writeV n x).readG m = r.readG m := rfl
@[simp] theorem Regs.readP_writeV (r : Regs) (n m : Nat) (x : VWord) : (r.writeV n x).readP m = r.readP m := rfl

theorem Regs.readV_writeV (r : Regs) (n : Nat) (x : VWord) (h : Tab.wf (0 : VWord) r.v = true) :
    (r.writeV n x).readV n = x := Tab.get_set_self n x h

theorem Regs.readV_writeV_ne (r : Regs) {m n : Nat} (x : VWord) (h : m ≠ n) : (r.writeV n x).readV m = r.readV m :=
  Tab.get_set_ne _ _ h

end Sys2Proof.Machine
end

