-- ==== Sys2Proof/Laws/Memory.lean ====
section
/-! SUPPORT. Laws of memory: every operation on bytes keeps the canonical form, a byte reads as it was written, and what
the marks beside memory leave alone. -/

namespace Sys2Proof.Machine

/-! ### The canonical form -/

/-- Reset memory is in its canonical form. -/
theorem State.reset_wf : Memory.wf State.reset.mem.cells = true := rfl

theorem State.setByte_wf {s : State} (l : Nat) (b : Byte) (h : Memory.wf s.mem.cells = true) :
    Memory.wf (s.setByte l b).mem.cells = true := by
  unfold State.setByte
  split
  · exact h
  · exact Tab.wf_set l b h

theorem State.setBytes_wf {s : State} (l : Nat) (bs : List Byte) (h : Memory.wf s.mem.cells = true) :
    Memory.wf (s.setBytes l bs).mem.cells = true := by
  induction bs generalizing s l with
  | nil => exact h
  | cons b bs ih => exact ih (l + 1) (State.setByte_wf l b h)

theorem State.setNat_wf {s : State} (l n v : Nat) (h : Memory.wf s.mem.cells = true) :
    Memory.wf (s.setNat l n v).mem.cells = true := State.setBytes_wf l _ h

@[simp] theorem State.setEmpty_cells (s : State) (l : Nat) (e : Bool) : (s.setEmpty l e).mem.cells = s.mem.cells := by
  unfold State.setEmpty
  split <;> rfl

@[simp] theorem State.setBad_cells (s : State) (l : Nat) (b : Bool) : (s.setBad l b).mem.cells = s.mem.cells := by
  unfold State.setBad
  split <;> rfl

@[simp] theorem State.recode_cells (s : State) (l n : Nat) : (s.recode l n).mem.cells = s.mem.cells := by
  unfold State.recode
  generalize List.range _ = is
  induction is generalizing s with
  | nil => rfl
  | cons i is ih =>
    rw [List.foldl_cons, ih]
    dsimp only
    split
    · exact State.setBad_cells _ _ _
    · rfl

theorem State.write_wf {s : State} (l : Nat) (bs : List Byte) (h : Memory.wf s.mem.cells = true) :
    Memory.wf (s.write l bs).mem.cells = true := by
  unfold State.write
  rw [State.recode_cells]
  exact State.setBytes_wf l bs h

/-! ### Movements of copies: only an untracked copy's write-back writes memory -/

@[simp] theorem MemSys.uncache_cells (m : MemSys) (f : CacheLine → Bool) : (m.uncache f).cells = m.cells := rfl
@[simp] theorem MemSys.modCopy_cells (m : MemSys) (p : Place) (n : Nat) (f : CacheLine → CacheLine) :
    (m.modCopy p n f).cells = m.cells := rfl

@[simp] theorem MemSys.writeDown_cells (m : MemSys) (e : CacheLine) : (m.writeDown e).cells = m.cells := by
  unfold MemSys.writeDown
  split
  · rfl
  · dsimp only
    split <;> rfl

theorem MemSys.writeDowns_cells (m : MemSys) (es : List CacheLine) : (es.foldl MemSys.writeDown m).cells = m.cells := by
  induction es generalizing m with
  | nil => rfl
  | cons e es ih => exact (ih _).trans (MemSys.writeDown_cells m e)

@[simp] theorem MemSys.flushLine_cells (m : MemSys) (n : Nat) (f : Place → Bool) : (m.flushLine n f).cells = m.cells := by
  simp only [MemSys.flushLine, List.foldl_cons, List.foldl_nil, MemSys.writeDowns_cells]

@[simp] theorem MemSys.recallLine_cells (m : MemSys) (n : Nat) (f : Place → Bool) : (m.recallLine n f).cells = m.cells := by
  simp [MemSys.recallLine]

@[simp] theorem State.recall_cells (s : State) (n : Nat) : (s.recall n).mem.cells = s.mem.cells := by simp [State.recall]

@[simp] theorem State.homeWrite_cells (s : State) (n : Nat) : (s.homeWrite n).mem.cells = s.mem.cells := by
  unfold State.homeWrite
  simp only [State.modMem_mem]
  split <;> simp

@[simp] theorem State.dropHeld_mem (s : State) (k : Nat) (f : Nat → Bool) : (s.dropHeld k f).mem = s.mem := by
  unfold State.dropHeld
  generalize s.allStrands = xs
  induction xs generalizing s with
  | nil => rfl
  | cons x xs ih =>
    rw [List.foldl_cons, ih]
    split <;> rfl

@[simp] theorem State.own_cells (s : State) (k n : Nat) : (s.own k n).mem.cells = s.mem.cells := by
  unfold State.own
  split
  · split
    · rfl
    · simp only [State.modMem_mem]
      split <;> simp
  · rfl

theorem State.writeBytes_wf {s : State} (f : Nat → Bool) (bs : List Host.Cell) (h : Memory.wf s.mem.cells = true) :
    Memory.wf (bs.foldl (fun t (l, b) => if f l then State.setByte t l b else t) s).mem.cells = true := by
  induction bs generalizing s with
  | nil => exact h
  | cons b bs ih =>
    apply ih
    dsimp only
    split
    · exact State.setByte_wf _ _ h
    · exact h

theorem State.writeBack_wf {s : State} (e : CacheLine) (h : Memory.wf s.mem.cells = true) :
    Memory.wf (s.writeBack e).mem.cells = true := by
  unfold State.writeBack
  split
  · exact h
  · have hc : (match e.place with
        | .l1 k => (s.homeWrite e.line).dropHeld k (NSet.has e.dirty)
        | _ => s.homeWrite e.line).mem.cells = s.mem.cells := by
      split <;> simp
    have hw : Memory.wf (e.bytes.foldl (fun t (l, b) => if NSet.has e.dirty l then State.setByte t l b else t)
        (match e.place with
        | .l1 k => (s.homeWrite e.line).dropHeld k (NSet.has e.dirty)
        | _ => s.homeWrite e.line)).mem.cells = true :=
      State.writeBytes_wf _ _ (by rw [hc]; exact h)
    have marks (os : List Nat) (t : State) : (os.foldl (fun t o =>
        if (e.dirty.filter fun d => d.1 / 32 = (e.pa + o) / 32).length = 0 then t
        else if NSet.has e.bad ((e.pa + o) / 32) then t.setBad (e.pa + o) true
        else if (e.dirty.filter fun d => d.1 / 32 = (e.pa + o) / 32).length = 32 then t.setBad (e.pa + o) false
        else t) t).mem.cells = t.mem.cells := by
      induction os generalizing t with
      | nil => rfl
      | cons o os ih =>
        rw [List.foldl_cons, ih]
        repeat' split
        all_goals simp
    exact (congrArg Memory.wf (marks _ _)).trans hw

theorem State.evict_wf {s : State} (e : CacheLine) (h : Memory.wf s.mem.cells = true) :
    Memory.wf (s.evict e).mem.cells = true := by
  unfold State.evict
  split
  · exact State.writeBack_wf e h
  · simpa using h

theorem State.install_wf {s : State} (p : Place) (n : Nat) (c : EvictClass) (h : Memory.wf s.mem.cells = true) :
    Memory.wf (s.install p n c).mem.cells = true := by
  unfold State.install
  split
  · exact h
  · show Memory.wf (match s.mem.victim p n with | some v => s.evict v | none => s).mem.cells = true
    split
    · exact State.evict_wf _ h
    · exact h

theorem State.fillPath_wf {s : State} (n : Nat) (c : EvictClass) (ps : List Place) (h : Memory.wf s.mem.cells = true) :
    Memory.wf (s.fillPath n c ps).mem.cells = true := by
  induction ps with
  | nil => exact h
  | cons p ps ih =>
    unfold State.fillPath
    split
    · exact State.install_wf p n c h
    · exact State.install_wf p n c ih

theorem State.homeAccess_wf {s : State} (n : Nat) (c : EvictClass) (w : Bool) (h : Memory.wf s.mem.cells = true) :
    Memory.wf (s.homeAccess n c w).mem.cells = true := by
  have hf (f : MemSys → MemSys) (e : ∀ m, (f m).cells = m.cells) :
      Memory.wf ((s.modMem f).fillPath n c (homePath (128 * n))).mem.cells = true :=
    State.fillPath_wf _ _ _ (by rw [State.modMem_mem, e]; exact h)
  unfold State.homeAccess
  cases w <;> simp only [Bool.false_eq_true, if_false, if_true, State.modMem_mem, MemSys.modCopy_cells]
  · exact hf (fun m => m.flushLine n fun p => placeLevel p < 2) fun m => MemSys.flushLine_cells m n _
  · exact hf (fun m => m.recallLine n fun p => placeLevel p < 2) fun m => MemSys.recallLine_cells m n _

theorem State.nearAccess_wf {s : State} (d n : Nat) (c : EvictClass) (h : Memory.wf s.mem.cells = true) :
    Memory.wf (s.nearAccess d n c).mem.cells = true := State.fillPath_wf _ _ _ (by simpa using h)

/-- An access through the caches keeps the canonical form of memory. -/
theorem State.touchPath_wf {s : State} (k n : Nat) (c : EvictClass) (h : Memory.wf s.mem.cells = true) :
    Memory.wf (s.touchPath k n c).mem.cells = true := by
  unfold State.touchPath
  split
  · exact State.install_wf _ _ _ h
  · exact State.install_wf _ _ _ (State.nearAccess_wf _ _ _ h)

theorem State.release_wf {s : State} (k n : Nat) (h : Memory.wf s.mem.cells = true) :
    Memory.wf (s.release k n).mem.cells = true := by simpa [State.release] using h

theorem State.passUntracked_wf {s : State} (k n : Nat) (c : EvictClass) (w : Bool) (h : Memory.wf s.mem.cells = true) :
    Memory.wf (s.passUntracked k n c w).mem.cells = true := by
  unfold State.passUntracked
  dsimp only
  split
  · exact State.release_wf _ _ (State.touchPath_wf _ _ _ h)
  · split
    · exact State.release_wf _ _ (State.touchPath_wf _ _ _ h)
    · exact State.touchPath_wf _ _ _ h

/-- Every passage of an access keeps it. -/
theorem State.pass_wf {s : State} (x : SId) (ea : Word) (l : Nat) (q : Policy) (w : Bool) (h : Memory.wf s.mem.cells = true) :
    Memory.wf (s.pass x ea l q w).mem.cells = true := by
  unfold State.pass
  dsimp only
  repeat' split
  · exact h
  · exact State.passUntracked_wf _ _ _ _ h
  · rw [State.own_cells]; exact State.touchPath_wf _ _ _ h
  · exact State.touchPath_wf _ _ _ h

theorem State.passHome_wf {s : State} (x : SId) (ea : Word) (l : Nat) (q : Policy) (w : Bool)
    (h : Memory.wf s.mem.cells = true) : Memory.wf (s.passHome x ea l q w).mem.cells = true := by
  unfold State.passHome
  split
  · exact State.homeAccess_wf _ _ _ h
  · exact h

/-! ### Reads after writes -/

/-- A byte of physical memory outside allocator maps reads as it was written. -/
theorem State.byteAt_setByte {s : State} {l : Nat} (b : Byte) (hl : isScratchLoc l = false)
    (hm : s.mem.allocatorOf l = none) (h : Memory.wf s.mem.cells = true) : (s.setByte l b).byteAt l = b := by
  have hm' : (s.setByte l b).mem.allocatorOf l = none := by
    unfold State.setByte
    rw [hl]
    exact hm
  unfold State.byteAt
  rw [hl, hm']
  unfold State.setByte
  rw [hl]
  exact Tab.get_set_self l b h

/-- A write of one byte of physical memory leaves every other location's byte. -/
theorem State.byteAt_setByte_ne {s : State} {l m : Nat} (b : Byte) (hl : isScratchLoc l = false) (h : m ≠ l) :
    (s.setByte l b).byteAt m = s.byteAt m := by
  have e : s.setByte l b = s.modMem fun k => { k with cells := Tab.set 0 k.cells l b } := by
    unfold State.setByte
    rw [hl]
    rfl
  rw [e]
  unfold State.byteAt
  split
  · rfl
  · have ha : (s.modMem fun k => { k with cells := Tab.set 0 k.cells l b }).mem.allocatorOf m = s.mem.allocatorOf m := rfl
    rw [ha]
    split
    · rfl
    · exact Tab.get_set_ne _ _ h

/-- A byte of scratch reads as it was written, where the core's scratch is in its canonical form. -/
theorem State.byteAt_setByte_scratch {s : State} {l : Nat} (b : Byte) (hl : isScratchLoc l = true)
    (h : Tab.wf (0 : Byte) (s.core (locCore l)).scratch = true) : (s.setByte l b).byteAt l = b := by
  unfold State.byteAt State.setByte
  rw [hl]
  simp only [if_true, State.core_modCore]
  exact Tab.get_set_self _ b h

/-- Writes of bytes change neither full/empty bits nor check marks of memory (R185, R188). -/
@[simp] theorem State.isEmpty_setByte (s : State) (l m : Nat) (b : Byte) : (s.setByte l b).isEmpty m = s.isEmpty m := by
  unfold State.isEmpty State.setByte
  split
  · split
    · by_cases h : locCore m = locCore l
      · rw [h, State.core_modCore]
      · rw [State.core_modCore_ne _ _ h]
    · rfl
  · split <;> rfl

@[simp] theorem State.isEmpty_setBytes (s : State) (l m : Nat) (bs : List Byte) :
    (s.setBytes l bs).isEmpty m = s.isEmpty m := by
  induction bs generalizing s l with
  | nil => rfl
  | cons b bs ih => exact (ih _ _).trans (State.isEmpty_setByte s l m b)

/-- A write of bytes leaves strands alone. -/
@[simp] theorem State.strand_setByte (s : State) (l : Nat) (b : Byte) (x : SId) : (s.setByte l b).strand x = s.strand x := by
  unfold State.strand State.setByte
  split
  · by_cases h : x.core = locCore l
    · rw [h, State.core_modCore]; rfl
    · rw [State.core_modCore_ne _ _ h]
  · rfl

@[simp] theorem State.strand_setBytes (s : State) (l : Nat) (bs : List Byte) (x : SId) :
    (s.setBytes l bs).strand x = s.strand x := by
  induction bs generalizing s l with
  | nil => rfl
  | cons b bs ih => exact (ih _ _).trans (State.strand_setByte s l b x)

end Sys2Proof.Machine
end

