-- ==== Sys2Proof/Tests/Slice0.lean ====
section
/-! SUPPORT. Tests: ill-formed terms that the checks refuse, words written out from the spec's encodings, single steps with
results worked out by hand, and for every statement a state that meets its hypotheses. -/

set_option Elab.async false

namespace Sys2Proof.Tests

open Sys2Proof Sys2Proof.Machine

/-! ## States for the tests -/

/-- A device with a program loaded and nothing placed: strand 0 of core 0 is about to issue. -/
def s0 : State := State.reset.loaded

/-- The strand that issues. -/
def x0 : SId := ⟨0, 0⟩

/-- A state in which that strand has registers changed. -/
def withRegs (s : State) (f : Regs → Regs) : State := s.modStrand x0 fun st => { st with regs := f st.regs }

/-- A state in which a general register holds a value. -/
def withG (s : State) (n : Nat) (v : Word) : State := withRegs s fun r => { r with g := Tab.set 0 r.g n v }

/-- A supervisor strand. -/
def withPriv (s : State) : State :=
  withRegs s fun r => { r with csr := { r.csr with status := { r.csr.status with priv := true } } }

/-- The state and the context in which the strand's next instruction issues. -/
def tOf (s : State) : State := s.atIssue s.cur (s.issueVc s.cur)
def cOf (s : State) : Ctx := ((tOf s).strand s.cur).ctx s.cur (s.issueVc s.cur)

theorem issuing_of {s : State} (h1 : (s.strand s.cur).run = .running) (h2 : s.ready s.cur (s.issueVc s.cur) = true) :
    Issuing s (tOf s) (cOf s) := ⟨h1, h2, rfl, rfl⟩

theorem issuing_s0 : Issuing s0 (tOf s0) (cOf s0) := issuing_of (by decide) (by decide +kernel)

/-- The hypothesis that most statements about an instruction share: it may issue, its checks pass and no earlier instruction
of its strand is under way. -/
structure Free (s : State) (att : Attach) (us : List Use) (super : Bool) : Prop where
  issuing : Issuing s (tOf s) (cOf s)
  checks : decodeTrap att us super (tOf s) (cOf s) = none
  quiet : (tOf s).clear (cOf s).sid = true

/-- Each use of a register field at its largest number in a partition of 8 strands. -/
def g31 : RField := 31
def v15 : RField := 15

theorem free_of {s : State} {att : Attach} {us : List Use} {super : Bool} (h1 : (s.strand s.cur).run = .running)
    (h2 : s.ready s.cur (s.issueVc s.cur) = true) (h3 : decodeTrap att us super (tOf s) (cOf s) = none)
    (h4 : (tOf s).clear (cOf s).sid = true) : Free s att us super := ⟨issuing_of h1 h2, h3, h4⟩

/-- The same as a test that can be evaluated. -/
def freeOk (s : State) (att : Attach) (us : List Use) (super : Bool) : Bool :=
  (s.strand s.cur).run == .running && s.ready s.cur (s.issueVc s.cur) && (decodeTrap att us super (tOf s) (cOf s)).isNone &&
    (tOf s).clear (cOf s).sid

theorem free_ok {s : State} {att : Attach} {us : List Use} {super : Bool} (h : freeOk s att us super = true) :
    Free s att us super := by
  simp only [freeOk, Bool.and_eq_true, beq_iff_eq, Option.isNone_iff_eq_none] at h
  exact free_of h.1.1.1 h.1.1.2 h.1.2 h.2

def withStrand (s : State) (f : Strand → Strand) : State := s.modStrand x0 f
def withCore (s : State) (f : Core → Core) : State := s.modCore 0 f
def withJob (s : State) (f : Job → Job) : State := s.modJob 1 f
/-- A state in which q0 holds a policy image. -/
def withQ (s : State) (q : Policy) : State := withRegs s fun r => { r with csr := { r.csr with q := Tab.set 0 r.csr.q 0 q } }
/-- A state in which cluster 0 holds a leaf for virtual page 0x10000 of job 1, with every permission, mapping a location. -/
def withLeaf (s : State) (pa : Nat) : State :=
  s.modMem fun m => { m with tlb := [⟨some 0, 0, 1, 0x10000, 4096, BitVec.ofNat 64 (0xC0000000000000F0 + pa)⟩] }
/-- An instruction of the strand that has not passed its fault point. -/
def early : Inflight := ⟨0, 1000, 0, none, some ⟨.perm, 0, 0⟩, none, Regs.reset, []⟩
/-- A load that its home has still to serve. -/
def sentLoad (seq : Nat) : Inflight := ⟨seq, 1000, 0, some (.load 0 0x20000 8 (.g 5 false) 0, .sent 0), none, none, Regs.reset, []⟩
/-- A full/empty load that waits at its word. -/
def atWord1 : Inflight := ⟨0, 1000, 0, some (.fe .ldf 0 0x20000 0 5 0, .waiting), none, none, Regs.reset, []⟩
/-- The strand's LDF waits at its word. -/
def withAtWord (s : State) : State := withStrand s fun st => { st with inflight := [atWord1], seq := 1 }
/-- An earlier instruction whose fault point comes before the landing of the next, and one whose fault point comes after it. -/
def withNear (s : State) : State := withStrand s fun st => { st with inflight := [{ early with faultVc := 100 }], seq := 1 }
/-- An effect that later accesses wait for, deferred behind an earlier fault point. -/
def withDeferred (s : State) : State :=
  withStrand s fun st => { st with inflight := [early, { early with seq := 1, faultVc := 1, trap := none }],
                                   deferred := [⟨1, 1, 0, .regionEnd, none⟩], seq := 2 }
/-- The strand has an instruction before its fault point. -/
def withEarly (s : State) : State := withStrand s fun st => { st with inflight := [early], seq := 1 }
/-- Base of the scratch window, as a register holds it. -/
def win : Word := 0x01F0000000000000

theorem witness_ScalarTwoOperandResults : Free s0 {} [gD g31, gA g31, gB g31] false :=
  free_of (by decide) (by decide +kernel) (by decide +kernel) (by decide +kernel)

theorem witness_ScalarOneOperandResults : Free s0 {} [gD g31, gA g31] false ∧ (0x8000000000000000 : Word) ≠ 0 ∧ (1 : Word) ≠ 0 :=
  ⟨free_of (by decide) (by decide +kernel) (by decide +kernel) (by decide +kernel), by decide, by decide⟩

theorem witness_SelectAndPredicateResults : Free s0 {} [gD g31, gA g31, gB g31] false ∧ Free s0 {} [] false ∧
    Free s0 {} [gD g31] false ∧ Free s0 {} [gA g31] false ∧ Free s0 {} [gA g31, gB g31] false := by
  refine ⟨?_, ?_, ?_, ?_, ?_⟩ <;>
    exact free_of (by decide) (by decide +kernel) (by decide +kernel) (by decide +kernel)

theorem witness_ImmediateAndFieldResults : Free s0 { imm := 3 } [gD g31, gA g31] false ∧ Free s0 { imm := 3 } [gD g31] false ∧
    Free s0 {} [gD g31, gA g31] false ∧ (63 : BitVec 6).toNat + (0 : BitVec 6).toNat + 1 ≤ 64 ∧
    (0 : BitVec 6).toNat + (63 : BitVec 6).toNat + 1 ≤ 64 ∧ ({} : Hints).imms = [] ∧
    ({ imms := [(4194303 : BitVec 22).toNat] } : Hints).imms = [(4194303 : BitVec 22).toNat] := by
  refine ⟨?_, ?_, ?_, by decide, by decide, rfl, rfl⟩ <;>
    exact free_of (by decide) (by decide +kernel) (by decide +kernel) (by decide +kernel)

theorem witness_BranchTargets : Free s0 { imm := 2 } [] false ∧ Free s0 {} [gA g31] false ∧ Free s0 {} [] false ∧
    Free s0 { imm := 3 } [gD g31] false ∧ Free (withG s0 31 2) {} [gA g31] false ∧
    ((cOf (withG s0 31 2)).g (gA g31)).toNat % 4 ≠ 0 ∧ ((cOf s0).g (gA g31)).toNat % 4 = 0 := by
  refine ⟨?_, ?_, ?_, ?_, ?_, by decide +kernel, by decide +kernel⟩ <;>
    exact free_of (by decide) (by decide +kernel) (by decide +kernel) (by decide +kernel)

theorem witness_HintsAndNop : (s0.strand s0.cur).run = .running ∧
    s0.ready s0.cur (nextSlot (s0.rotation s0.cur) (s0.strand s0.cur).phase (s0.strand s0.cur).slot) = true ∧
    Free s0 {} [] false :=
  ⟨by decide, by decide +kernel, free_of (by decide) (by decide +kernel) (by decide +kernel) (by decide +kernel)⟩

theorem witness_ControlRegisterForms : Free s0 {} [gD g31] (csrGuard 0x001 = some false) ∧
    Free (withPriv s0) {} [gD g31] (csrGuard 0x036 = some false) ∧ Free s0 {} [gA g31] (csrGuard 0x027).isSome ∧
    Free (withPriv s0) {} [gA g31] (csrGuard 0x019).isSome ∧ Free (withPriv s0) {} [gA g31] (csrGuard 0x030).isSome ∧
    Tab.wf 0 Csrs.reset.q = true := by
  refine ⟨?_, ?_, ?_, ?_, ?_, rfl⟩ <;>
    exact free_of (by decide +kernel) (by decide +kernel) (by decide +kernel) (by decide +kernel)

/-- A load's or store's base register holds an address. -/
def based (s : State) (a : Word) : State := withG s 31 a

def lWin : Nat := Config.scratchLoc 0 0

theorem witness_LoadsComplete : let s := based s0 win
    Free s loadHints [gD g31, gA g31] false ∧ polOk ((cOf s).q 0) = true ∧
    toScratch ((cOf s).g (gA g31)) ((cOf s).q 0) = true ∧ (cOf s).h.seq = none ∧
    ((tOf s).strand x0).nextWaits false = false ∧ ((tOf (withAtWord s)).strand x0).nextWaits false = true ∧
    Issuing (withAtWord s) (tOf (withAtWord s)) (cOf (withAtWord s)) ∧
    decodeTrap loadHints [gD g31, gA g31] false (tOf (withAtWord s)) (cOf (withAtWord s)) = none ∧ ((tOf s).before x0 false (Config.scratchLoc 0 0) 16).writeLocked (Config.scratchLoc 0 0) 16 = false ∧
    firstBadOf (((tOf s).before x0 false (Config.scratchLoc 0 0) 16).badFor (clusterOf 0)) (Config.scratchLoc 0 0) 16 = none ∧
    ((tOf s).before x0 false (Config.scratchLoc 0 0) 16).conflict x0 (2 * Config.scratchLoc 0 0) 32 false
      (((tOf s).before x0 false (Config.scratchLoc 0 0) 16).managed x0 (Config.scratchLoc 0 0) 0) = none ∧
    Tab.find? (tOf s).mem.shadow (Config.scratchLoc 0 0 / 128) = none ∧
    (let s := withLeaf (based s0 0x10000) 0x20000
     let w := withDeferred s
     let load (s : State) : Option Nat :=
       (tOf s).laterVc (cOf s) ((cOf s).flight ((cOf s).vc + 96) (some (.load 0x10000 0x20000 16 (.pair 30) 0, .sent 0)) none)
     Free s loadHints [gPair (15 : EField), gA g31] false ∧ toScratch ((cOf s).g (gA g31)) ((cOf s).q 0) = false ∧
     (tOf s).resolve x0 0x10000 0 Need.read = .at_ 0x20000 (some 0xC0000000000200F0) ∧ load s = none ∧ (load w).isSome = true ∧
     Issuing w (tOf w) (cOf w) ∧ decodeTrap loadHints [gPair (15 : EField), gA g31] false (tOf w) (cOf w) = none) := by
  and_intros <;> first | exact free_ok (by decide +kernel) | exact issuing_of (by decide +kernel) (by decide +kernel) | decide +kernel

theorem witness_StoresComplete : let s := based s0 win
    Free s policyHints [gD g31, gA g31] false ∧
    (tOf s).resolve x0 win 0 Need.write = .at_ (Config.scratchLoc 0 0) none ∧
    (tOf s).storeLocked (Config.scratchLoc 0 0) 16 = false ∧
    ((tOf s).before x0 false (Config.scratchLoc 0 0) 16).conflict x0 (2 * Config.scratchLoc 0 0) 32 true
      (((tOf s).before x0 false (Config.scratchLoc 0 0) 16).managed x0 (Config.scratchLoc 0 0) 0) = none ∧
    (let s := withPriv (withLeaf (based s0 0x10000) 0x3000008000000)
     Free s policyHints [gD g31, gA g31] false ∧ isDev 0x3000008000000 = true ∧
     (tOf s).resolve x0 0x10000 0 { Need.write with dev := true } = .at_ 0x3000008000000 (some 0xC0030000080000F0)) ∧
    (let s := withLeaf (based s0 0x10000) 0x20000
     let w := ((tOf s).walkLate x0 0x10000 0x20000 ((cOf s).vc + 1)).before x0 false 0x20000 1
     Free s policyHints [gD g31, gA g31] false ∧ isScratchLoc 0x20000 = false ∧
     (tOf s).resolve x0 0x10000 0 Need.write = .at_ 0x20000 (some 0xC0000000000200F0) ∧ w.storeLocked 0x20000 1 = false ∧
     w.conflict x0 0x40000 1 true (w.managed x0 0x20000 0) = none ∧ w.conflict x0 0x40001 1 true (w.managed x0 0x20000 0) = none) := by
  and_intros <;> first | exact free_ok (by decide +kernel) | decide +kernel

/-- g31 holds an address in the scratch window, g5 another value. -/
def sWin : State := withG (based s0 win) 5 7
def g5 : RField := 5
/-- g31 holds an address that maps location 0x20000. -/
def sMem : State := withG (withLeaf (based s0 0x10000) 0x20000) 5 7

theorem witness_FullEmptyForms : Free sWin loadHints [gD g5, gB g31] false ∧ Free sWin policyHints [gD g5, gB g31] false ∧
    Free sWin policyHints [gB g31] false ∧ ((tOf sMem).strand x0).zeroOut = false ∧ polOk ((cOf sWin).q 0) = true ∧ (cOf sWin).h.seq = none ∧
    toScratch ((cOf sWin).g (gB g31)) ((cOf sWin).q 0) = true ∧ (tOf sWin).storeLocked lWin 8 = false ∧
    (tOf sWin).firstBad lWin 8 = none ∧ (tOf sWin).isEmpty lWin = false ∧ ((tOf sWin).endRegion x0).conflict x0 (2 * lWin) 16 true = none ∧
    ((tOf sWin).setEmpty lWin true).isEmpty lWin = true ∧ Free (sWin.setEmpty lWin true) policyHints [gD g5, gB g31] false ∧
    Free sMem loadHints [gD g5, gB g31] false ∧ Free sMem policyHints [gD g5, gB g31] false ∧
    toScratch ((cOf sMem).g (gB g31)) ((cOf sMem).q 0) = false ∧
    (tOf sMem).resolve x0 0x10000 0 (Need.fullEmpty true) = .at_ 0x20000 (some 0xC0000000000200F0) ∧
    (tOf sMem).resolve x0 0x10000 0 (Need.fullEmpty false) = .at_ 0x20000 (some 0xC0000000000200F0) ∧
    ((tOf sMem).endRegion x0).conflict x0 0x40000 16 true = none := by
  and_intros <;> first | exact free_ok (by decide +kernel) | decide +kernel

theorem witness_CacheAndFenceForms : Free sMem policyHints [gA g31] false ∧ (tOf sMem).writeLocked 0x20000 1 = false ∧ polOk ((cOf sMem).q 0) = true ∧
    (tOf sMem).resolve x0 0x10000 0 Need.read = .at_ 0x20000 (some 0xC0000000000200F0) ∧
    Free sMem policyHints [gD g5, gA g31] false ∧ (cOf sMem).g (gD g5) ≠ 0 ∧ (cOf s0).g (gD g5) = 0 ∧
    Free s0 { scope := true } [] false ∧ ((tOf s0).strand x0).storeBuf = [] ∧ (tOf (withEarly s0)).clear x0 = false ∧
    decodeTrap { scope := true } [] false (tOf (withEarly s0)) (cOf (withEarly s0)) = none := by
  and_intros <;> first | exact free_ok (by decide +kernel) | decide +kernel

theorem witness_AtomicForms : Free sMem policyHints [gD g5, gA g31, gB g5] false ∧
    Free sMem { policyHints with rnd := some false } [gD g5, gA g31, gB g5] false ∧ (cOf sMem).mode false = some 0 ∧
    (tOf sMem).resolve x0 0x10000 0 Need.both = .at_ 0x20000 (some 0xC0000000000200F0) ∧ s0.storeLocked 0x20000 8 = false ∧
    s0.firstBad 0x20000 8 = none ∧ (s0.endRegion x0).conflict x0 0x40000 16 true = none ∧
    (s0.endRegion x0).natAt 0x20000 8 = (0 : Word).toNat % 2 ^ 64 ∧ (s0.endRegion x0).natAt 0x20000 8 ≠ (1 : Word).toNat % 2 ^ 64 := by
  and_intros <;> first | exact free_ok (by decide +kernel) | decide +kernel

/-- The strand is the one member of channels 0 and 23, the first and the last. -/
def sWoad : State :=
  withRegs (withJob s0 fun j => { j with channels := [(0, 0), (23, 7)] }) fun r => { r with csr := { r.csr with wmem := 0x800001 } }
def sDone : State := withRegs sWoad fun r => { r with csr := { r.csr with status := { r.csr.status with wdone := true } } }
/-- The strand's arrival stands on channel 0. -/
def sSent : State := sWoad.arrive 0 ⟨x0, .plain, 0⟩

/-- A strand that was stopped at its wait has the result of channel 0, or its mismatch. -/
def sGot (bad : Bool) : State := withStrand sDone fun st => { st with woadGot := [(0, (7, bad))] }
/-- A write of its own to WMEM waits behind an earlier instruction. -/
def sJoins : State := withStrand (withEarly sWoad) fun st => { st with deferred := [⟨0, 0, 0, .csr .write 0x019 0, none⟩] }

theorem witness_WoadFormsComplete : ((tOf sWoad).strand x0).joining = false ∧ ((tOf sJoins).strand x0).joining = true ∧
    Issuing sJoins (tOf sJoins) (cOf sJoins) ∧ decodeTrap {} [] false (tOf sJoins) (cOf sJoins) = none ∧ (tOf sDone).physChannel x0 0 = some 0 ∧ Free (sGot true) {} [gD g31] false ∧
    (tOf (sGot true)).woadPending x0 0 = false ∧ Free (sGot true) {} [gD g31, gA g5] false ∧ Free (sGot true) {} [] false ∧ Tab.find? ((tOf (sGot true)).strand x0).woadGot 0 = some (7, true) ∧
    Tab.find? ((tOf (sGot false)).strand x0).woadGot 0 = some (7, false) ∧ (tOf sWoad).memberOf x0 0 = some 0 ∧ (tOf sWoad).memberOf x0 23 = some 135 ∧
    (tOf sWoad).woadPending x0 0 = false ∧ (tOf sWoad).quietFor x0 (cOf sWoad).seq = true ∧ Free sWoad {} [] false ∧
    Free sWoad {} [gA g5] false ∧ Free sWoad {} [gD g31, gA g5] false ∧ Free sWoad {} [gD g31] false ∧
    ((tOf sWoad).strand x0).regs.csr.status.wdone = false ∧ Free sSent {} [] false ∧ (tOf sSent).memberOf x0 0 = some 0 ∧
    (tOf sSent).woadPending x0 0 = true ∧ (tOf s0).memberOf x0 31 = none ∧ Free s0 {} [gA g5] false ∧
    ((tOf sDone).strand x0).regs.csr.status.wdone = true ∧ Free sDone {} [gD g31] false := by
  and_intros <;> first | exact issuing_of (by decide +kernel) (by decide +kernel) | exact free_ok (by decide +kernel) | decide +kernel

/-- The strand holds a route to core 0, and its own core's inbound stream queue holds a word and a closing marker. -/
def sRoute : State := withStrand s0 fun st => { st with route := some 0 }
def sStream : State := withCore s0 fun k => { k with streamIn := [some 3, none] }
def sMsg : State := withCore s0 fun k => { k with inbox := [⟨9, 0, 4, 0⟩] }
def e30 : EField := 15
/-- A message of the strand is its class-0 request under way. -/
def sOut : State := withStrand s0 fun st => { st with msgOut := true }

theorem witness_StreamAndMessageForms : Free s0 {} [gA g31] false ∧ ((cOf s0).g (gA g31)).toNat = 0 ∧ coreIdOk 0 = true ∧
    0 ∈ ((tOf s0).job ((tOf s0).jobOf x0)).cores ∧ ((tOf s0).strand x0).route = none ∧ ((tOf s0).core 0).routeHolder = none ∧
    ((tOf s0).core 0).routeWait = [] ∧ Free sRoute {} [vA v15] false ∧ Free sRoute {} [] false ∧
    ((tOf sRoute).strand x0).route = some 0 ∧
    ((tOf sRoute).core ((tOf sRoute).fwd 0)).streamIn.length + ((tOf sRoute).core ((tOf sRoute).fwd 0)).streamTransit.length < 16 ∧
    Free s0 {} [vD v15] false ∧ ((tOf s0).core 0).streamIn = [] ∧ Free sStream {} [vD v15] false ∧
    ((tOf sStream).core 0).streamIn = [some 3, none] ∧ Free s0 {} [gA g31, gB g5] false ∧ Free s0 {} [gPair e30] false ∧
    ((tOf s0).core 0).inbox = [] ∧ Free sMsg {} [gPair e30] false ∧ ((tOf sMsg).core 0).inbox = [⟨9, 0, 4, 0⟩] ∧
    Free sMsg {} [] false ∧ ((tOf s0).strand x0).zeroOut = false ∧ ((tOf sOut).strand x0).zeroOut = true ∧
    Free sOut {} [gA g31, gB g5] false ∧ ((tOf s0).core 0).heldTo = [] := by
  and_intros <;> first | exact free_ok (by decide +kernel) | decide +kernel

/-- A layout record: four .s8 elements at the top of the scratch window, to offset 0x800. -/
def lay : Nat := 0x01F0000000000C00 + 1 * 2 ^ 57 + 0 * 2 ^ 60 + 0x800 * 2 ^ 150 + 4 * 2 ^ 208 + 4 * 2 ^ 328 + 2 ^ 528
/-- A follow-on's record: bank 0, k = 64, operands at offsets 0x1000 and 0x4000. -/
def follow : Nat := 0x01F0000000001000 + 0x01F0000000004000 * 2 ^ 64 + 64 * 2 ^ 128
def at_ (a : Nat) : Word := win + BitVec.ofNat 64 a
def withRec (s : State) (a n v : Nat) : State := s.setNat (Config.scratchLoc 0 a) n v
/-- A precision register that the strand owns: .f accumulators, operands .s8. -/
def ownPrec : Word := precOwned (shortPrec 0 0 10) 0
def sCopy : State :=
  withG (withG (withG (withCore (withRec (withRec s0 0x400 96 lay) 0x600 32 follow) fun k => { k with prec0 := ownPrec })
    5 (at_ 0x400)) 6 (at_ 0x3FFF0)) 7 (at_ 0x600)
def layR : Rec768 := BitVec.ofNat 768 lay
/-- A copy command as the form captures it. -/
def copyCmd (k : CopyKind) (x : Word) (f : Option ArrayCmd) : CopyCmd :=
  { kind := k, record := layR, obj := at_ 0x3FFF0, third := x, q := 0, hstart := none, hseq := none, follow := f }
/-- The state that a record's read leaves, and what it reads. -/
def readTo (t : State) (a align n : Nat) : State := (t.readRecord x0 (at_ a) align n).1
def reads (t : State) (a align n v : Nat) : Bool :=
  match (t.readRecord x0 (at_ a) align n).2 with
  | .inl w => w == v
  | _ => false
theorem reads_eq {t : State} {a align n v : Nat} (h : reads t a align n v = true) :
    t.readRecord x0 (at_ a) align n = (readTo t a align n, .inl v) := by
  unfold reads at h
  split at h
  · next w e => rw [beq_iff_eq] at h; rw [readTo, ← h, ← e]
  · simp at h
def rCopy : State := readTo (tOf sCopy) 0x400 32 96
def rFollow : State := readTo rCopy 0x600 32 32
/-- The form's registration completes. -/
def registers (u : State) (k : CopyKind) (x : Word) (f : Option ArrayCmd) : Bool :=
  match (u.noteStart (cOf sCopy)).performCopy x0 (cOf sCopy).seq (cOf sCopy).gpc (cOf sCopy).vc (copyCmd k x f) with
  | .done _ => u.clear x0 && (timingBad u (cOf sCopy)).isNone
  | _ => false
def followOf : ArrayCmd ⊕ TrapInfo := followCmd rFollow (cOf sCopy) follow layR (at_ 0x600)

theorem witness_CopyFormsRegister : Free sCopy { start := true } [gA (5 : RField), gB (6 : RField)] false ∧
    Free sCopy { start := true, seq := true } [gD (7 : RField), gA (5 : RField), gB (6 : RField)] false ∧
    Free sCopy { start := true } [gD (7 : RField), gA (5 : RField), gB (6 : RField)] false ∧
    (cOf sCopy).g (gA (5 : RField)) = at_ 0x400 ∧ (cOf sCopy).g (gB (6 : RField)) = at_ 0x3FFF0 ∧
    (cOf sCopy).g (gD (7 : RField)) = at_ 0x600 ∧ reads (tOf sCopy) 0x400 32 96 lay = true ∧ reads rCopy 0x600 32 32 follow = true ∧
    layoutBad layR = none ∧ (at_ 0x3FFF0).toNat % 16 = 0 ∧ inWindow (at_ 0x3FFF0) = true ∧
    registers rCopy .cpy 0 none = true ∧ registers rCopy .cpym 0 none = true ∧ followOf.isLeft = true ∧
    registers rFollow .cpyx (at_ 0x600) followOf.getLeft? = true ∧ layMeshd layR = 0 ∧ (at_ 0x600).toNat + 4 * layWin layR 0 ≤ Config.scratchBase + 0x40000 ∧
    registers rCopy .gath (at_ 0x600) none = true ∧ registers rCopy .scat (at_ 0x600) none = true ∧ sCopy.meshOutside x0 layR = none ∧
    ((sCopy.endRegion x0).core 0).claims = [] ∧ ((sCopy.endRegion x0).core 0).boxed < 4 ∧
    ((sCopy.endRegion x0).core 0).lockEntries < 16 ∧ ((sCopy.endRegion x0).claim x0 1 false).1.meshOutside x0 layR = none ∧
    (((sCopy.endRegion x0).claim x0 1 false).1.regUnits x0 .cpy layR (layElems layR 0)).bad = none ∧
    (((sCopy.endRegion x0).claim x0 1 false).1.regUnits x0 .cpy layR (layElems layR 0)).blocked = none ∧
    (((sCopy.endRegion x0).claim x0 1 false).1.regUnits x0 .cpym layR (layElems layR 0)).bad = none ∧
    (((sCopy.endRegion x0).claim x0 1 false).1.regUnits x0 .cpym layR (layElems layR 0)).blocked = none ∧
    ((tOf sCopy).strand x0).nextWaits false = false ∧ ((tOf (withAtWord sCopy)).strand x0).nextWaits false = true ∧
    Issuing (withAtWord sCopy) (tOf (withAtWord sCopy)) (cOf (withAtWord sCopy)) ∧
    decodeTrap { start := true } [gA (5 : RField), gB (6 : RField)] false (tOf (withAtWord sCopy)) (cOf (withAtWord sCopy)) = none := by
  and_intros <;> first | exact free_ok (by decide +kernel) | exact issuing_of (by decide +kernel) (by decide +kernel) | decide +kernel

def oAt : Nat := Config.scratchLoc 0 0x3FFF0

theorem witness_BarrierObjectForms : Free sCopy {} [gA (6 : RField), gB g31] false ∧ Free sCopy {} [gA (6 : RField)] false ∧
    (at_ 0x3FFF0).toNat % 16 = 0 ∧ Config.scratchBase ≤ (at_ 0x3FFF0).toNat ∧ (at_ 0x3FFF0).toNat < Config.scratchBase + 0x40000 ∧
    bitsOf ((cOf sCopy).g (gB g31)) 47 45 = 0 ∧ bitOf ((cOf sCopy).g (gB g31)) 63 = false ∧
    (tOf sCopy).storeLocked oAt 16 = false ∧
    ((0 : Nat) : Int) = ((tOf sCopy).settleOwn x0 oAt 16).natAt oAt 4 + (((cOf sCopy).g (gB g31)).setWidth 32).toInt ∧
    ((tOf sCopy).endRegion x0).natAt (oAt + 12) 4 % 2 = (false : Bool).toNat ∧
    ((tOf sCopy).endRegion x0).natAt (oAt + 12) 4 % 2 ≠ (true : Bool).toNat ∧ oAt + 16 ≤ Config.scratchLoc (locCore oAt) 0x40000 ∧
    isScratchLoc oAt = true ∧ Tab.wf 0 (s0.core (locCore oAt)).scratch = true ∧ (s0.core (locCore oAt)).flips = [] ∧
    (s0.core (locCore oAt)).held.length < 4 ∧
    (withRec s0 0x3FFF0 16 2).natAt oAt 4 ≠ 0 ∧ (withRec s0 0x3FFF0 16 2).natAt oAt 4 ≤ ((withRec s0 0x3FFF0 16 2).natAt (oAt + 8) 4 + 2) % 2 ^ 32 ∧
    ¬(s0.natAt oAt 4 ≠ 0 ∧ s0.natAt oAt 4 ≤ (s0.natAt (oAt + 8) 4 + 2) % 2 ^ 32) := by
  and_intros <;> first | exact free_ok (by decide +kernel) | decide +kernel

/-! ### Vector instructions -/

theorem sources_ab : Sources (tOf s0) (cOf s0) [v15, (3 : RField)] (linkPort v15) (tOf s0) ([v15, (3 : RField)].map (cOf s0).v) :=
  Or.inl ⟨by decide, by decide, rfl, rfl⟩
theorem sources_a (o : Option Nat) (h : o.toList = []) : Sources (tOf s0) (cOf s0) [v15] o (tOf s0) ([v15].map (cOf s0).v) :=
  Or.inl ⟨by decide, by rw [h]; decide, rfl, rfl⟩

/-- Core 0 with neighbours to the north and east in its job, and a word in its northern queue. -/
def sLink : State :=
  withCore (withJob s0 fun j => { j with cores := [0, coreIdOf 0 0 1, coreIdOf 0 1 0] }) fun k => { k with links := [(0, [7])] }
def p60 : RField := 60
theorem sources_link : Sources (tOf sLink) (cOf sLink) [p60, v15] (linkPort 61)
    (readSources x0 (cOf sLink).regs (tOf sLink) [p60, v15]).1.wakeLinks (readSources x0 (cOf sLink).regs (tOf sLink) [p60, v15]).2 :=
  Or.inr ⟨by decide +kernel, by decide +kernel, by decide +kernel, by decide +kernel, rfl, rfl⟩

theorem witness_VectorLaneResults : Free s0 {} [vD v15, vA v15, vB (3 : RField)] false ∧
    Free s0 { rnd := some false } [vD v15, vA v15, vB (3 : RField)] false ∧ (cOf s0).mode false = some 0 ∧
    Sources (tOf s0) (cOf s0) [v15, (3 : RField)] (linkPort v15) (tOf s0) ([v15, (3 : RField)].map (cOf s0).v) ∧
    Free sLink {} [vD 61, vA p60, vB v15] false ∧ Sources (tOf sLink) (cOf sLink) [p60, v15] (linkPort 61)
      (readSources x0 (cOf sLink).regs (tOf sLink) [p60, v15]).1.wakeLinks (readSources x0 (cOf sLink).regs (tOf sLink) [p60, v15]).2 ∧
    Fmt.s8.isInt = true ∧ Fmt.d.isVFloat = true ∧ Fmt.s8.isVec = true ∧ 15 < 128 / Fmt.s8.bits ∧ Fmt.d.isVec = true ∧
    1 < 128 / Fmt.d.bits := by
  and_intros <;> first | exact free_ok (by decide +kernel) | exact sources_ab | exact sources_link | decide +kernel

theorem witness_VectorOneSourceResults : Free s0 {} [vD v15, vA v15] false ∧ Free s0 { rnd := some false } [vD v15, vA v15] false ∧
    Sources (tOf s0) (cOf s0) [v15] (linkPort v15) (tOf s0) ([v15].map (cOf s0).v) ∧ (cOf s0).mode false = some 0 ∧
    Fmt.s8.isInt = true ∧ Fmt.d.isVFloat = true := by
  and_intros <;> first | exact free_ok (by decide +kernel) | exact sources_a _ (by decide) | decide +kernel

theorem witness_VectorMixedResults : Free s0 {} [vD v15, vA v15, vB (3 : RField)] false ∧
    Free s0 { rnd := some false } [vD v15, vA v15, vB (3 : RField)] false ∧ (cOf s0).mode false = some 0 ∧
    Sources (tOf s0) (cOf s0) [v15, (3 : RField)] (linkPort v15) (tOf s0) ([v15, (3 : RField)].map (cOf s0).v) ∧ Fmt.s8.bits = 8 ∧
    Fmt.s16.isInt = true ∧ Fmt.s16.bits = 16 ∧ Fmt.h.isVFloat = true := by
  and_intros <;> first | exact free_ok (by decide +kernel) | exact sources_ab | decide +kernel

theorem witness_VectorMoveResults : Free s0 {} [vD v15, vA v15] false ∧ Free s0 { rnd := some true } [vD v15, vA v15] false ∧
    Free s0 { rnd := some false } [vD v15, vA v15] false ∧ Fmt.s8.isFloat = false ∧ acceptsSr .h .f = true ∧ acceptsSr .f .h = false ∧
    (cOf s0).mode true = some 0 ∧ Sources (tOf s0) (cOf s0) [v15] (linkPort v15) (tOf s0) ([v15].map (cOf s0).v) ∧
    Sources (tOf s0) (cOf s0) [v15] none (tOf s0) ([v15].map (cOf s0).v) ∧
    Sources (tOf s0) (cOf s0) [] (linkPort v15) (tOf s0) [] ∧ Sources (tOf s0) (cOf s0) [v15, (3 : RField)] none (tOf s0)
      ([v15, (3 : RField)].map (cOf s0).v) ∧ Free s0 {} [vD v15, gA g31] false ∧ Free s0 {} [gD g31, vA v15] false ∧
    Free s0 {} [vA v15, vB (3 : RField)] false := by
  and_intros <;> first | exact free_ok (by decide +kernel) | exact sources_ab | exact sources_a _ (by decide) | decide +kernel |
    exact Or.inl ⟨by decide, by decide, rfl, rfl⟩

theorem witness_RoundingIsExact : Fmt.f.isFloat = true ∧ (0xFF800001 : Nat) < 2 ^ Fmt.f.bits ∧ (unpack .f 0x3F800000).isNan = false ∧
    (unpack .f 0xFF800001).isNan = true ∧ isSubnormal .f 0x80000001 = true ∧ isSubnormal .f 0x007FFFFF = true ∧
    isSubnormal .f 0x00800000 = false := by
  decide +kernel

theorem witness_SpecialFunctionsComplete : Free s0 { rnd := some false } [gD g31, gA g31] false ∧ (cOf s0).mode false = some 0 := by
  and_intros <;> first | exact free_ok (by decide +kernel) | decide +kernel

theorem witness_SpecialFunctionCases : Fmt.h.isVFloat = true ∧ Fmt.bf.isVFloat = true ∧ Fmt.f.isVFloat = true ∧ Fmt.d.isVFloat = true := by
  decide

/-! ### The array, maps and work -/

/-- Bank 0 belongs to the strand; g5 holds the last element's index. -/
def sOwn : State := withG (withCore s0 fun k => { k with prec0 := ownPrec }) 5 1023
/-- A command that still uses the bank is queued. -/
def sBusy : State := withCore sOwn fun k =>
  { k with array := [⟨true, false, 0, ownPrec, 0, 0, 0, 0, 0, x0, 0, none, none, [], [], 1, none, 0, none, 0, 0, none⟩] }

theorem witness_PrecisionAndAccumulatorForms : Free (withG s0 5 (shortPrec 0 0 10)) {} [gA g5] false ∧ Free s0 {} [] false ∧
    precOwn (((tOf s0).core 0).prec 0) = false ∧ precValid (shortPrec 0 0 10) = true ∧ pcAcc (shortPrec 0 0 7) = 7 ∧
    precValid (shortPrec 0 0 7) = true ∧ ((tOf s0).core 0).bankBusy 0 = false ∧ Free s0 {} [gD g31] false ∧
    precOwn (((tOf sOwn).core 0).prec 0) = true ∧ precOstr (((tOf sOwn).core 0).prec 0) = x0.strand ∧
    ((cOf sOwn).g (gA g5)).toNat < 1024 ∧ mrdaccType 10 = some .f ∧ mrdaccType 3 = some .b64 ∧
    Free sOwn { rnd := some true } [gD g31, gA g5] false ∧ Free sOwn { rnd := some false } [gD g31, gA g5] false ∧
    ((tOf sOwn).core 0).bankBusy 0 = false ∧ ((tOf sBusy).core 0).bankBusy 0 = true ∧ (cOf sOwn).h.rnd = none ∧
    Free sBusy {} [gD g31, gA g5] false ∧ Free sBusy { rnd := some true } [gD g31, gA g5] false ∧ ((tOf sBusy).strand x0).resumed = false ∧
    ((tOf sBusy).strand x0).park = none ∧ (cOf sOwn).mode (mrdaccSr .f (accFmt (pcAcc ownPrec))) = some 0 ∧
    Free sOwn {} [gD g31, gA g5] false := by
  and_intros <;> first | exact free_ok (by decide +kernel) | decide +kernel

/-- g5 holds a descriptor with k = 64, g6 and g7 operand offsets. -/
def sMma : State := withG (withG (withG sOwn 5 64) 6 (at_ 0x1000)) 7 (at_ 0x4000)

theorem witness_ArrayCommandsComplete : precOwn (((tOf sMma).core 0).prec 0) = true ∧ precOstr (((tOf sMma).core 0).prec 0) = x0.strand ∧
    ((tOf sMma).core 0).array.length < 4 ∧ Free sMma {} [] false ∧
    Free sMma { start := true, seq := true } [gD g5, gA (6 : RField), gB (7 : RField)] false ∧
    mmaBad ((tOf sMma).core 0) 0 0 64 (at_ 0x1000) (at_ 0x4000) = none ∧ timingBad (tOf sMma) (cOf sMma) = none ∧
    ((tOf sMma).core 0).lockEntries < 16 ∧
    ((tOf sMma).strand x0).regs.csr.mpx = 0 := by
  and_intros <;> first | exact free_ok (by decide +kernel) | decide +kernel

/-- A parameter block: two buckets, one shard, 8-byte keys without values, an arena of 4,096 bytes. -/
def mapBlk : Nat := 0x40000 * 2 ^ 64 + 4096 * 2 ^ 128 + 2 ^ 212 + 2 ^ 215 + 2 * 2 ^ 224
/-- A request for one key. -/
def getnReq : Nat := 0x01F0000000000800 + 0x01F0000000000A00 * 2 ^ 64 + 2 ^ 128
/-- A live map whose descriptor g5 names; g6 names a parameter block, g7 a request, g8 a completion object. -/
def sMap : State :=
  let s := (withLeaf (withRec (withRec s0 0x400 32 mapBlk) 0x600 32 getnReq) 0x20000).setNat 0x20000 32 (mapBlk + 2 ^ 127)
  let s := s.modMem fun m => { m with maps := [⟨0x20000, [(0x40000, 4096)], 4096, 1, [], 0⟩] }
  withG (withG (withG (withG s 5 0x10000) 6 (at_ 0x400)) 7 (at_ 0x600)) 8 (at_ 0x3FFF0)
def rMap : State := readTo (tOf sMap) 0x400 32 32
def rGetn : State := readTo (tOf sMap) 0x600 32 32
/-- The request registers. -/
def getnDone : Bool :=
  let cmd : CopyCmd :=
    { kind := .mapgetn, record := BitVec.ofNat 768 getnReq, obj := at_ 0x3FFF0, third := 0x10000, q := 0, hstart := none,
      hseq := none, follow := none }
  (match (rGetn.noteStart (cOf sMap)).performGetn x0 (cOf sMap).seq (cOf sMap).gpc (cOf sMap).vc cmd with
   | .done _ => true
   | _ => false) &&
    (match (withRegs rGetn fun r => { r with csr := { r.csr with mpx := 1 } }).performGetn x0 (cOf sMap).seq (cOf sMap).gpc (cOf sMap).vc cmd with
     | .done _ => true
     | _ => false)
def openOk : Bool :=
  match (tOf sMap).mapCheck x0 0x10000 0 with
  | .inl m => !getnBad (BitVec.ofNat 768 getnReq) m.p (at_ 0x3FFF0)
  | _ => false

theorem witness_MapFormsComplete : Free sMap policyHints [gPair e30, gA g5, gB g31] false ∧ polOk ((cOf sMap).q 0) = true ∧
    polSpace ((cOf sMap).q 0) = 0 ∧ ((cOf sMap).g (gA g5)).toNat % 128 = 0 ∧
    (tOf sMap).resolve x0 0x10000 0 { kind := .read, blocks := true } ≠ .blocked ∧
    Free sMap policyHints [gD g31, gA g5, gB (6 : RField)] false ∧ Free sMap policyHints [gA g5] false ∧
    Free sMap policyHints [gD g31, gA g5] false ∧ openOk = true ∧ Free sMap policyHints [gA g5, gB (6 : RField)] false ∧
    reads (tOf sMap) 0x400 32 32 mapBlk = true ∧
    rMap.resolve x0 0x10000 0 Need.write = .at_ 0x20000 (some 0xC0000000000200F0) ∧ mapParmOk (BitVec.ofNat 256 mapBlk) = true ∧
    Free sMap { policyHints with start := true } [gD (8 : RField), gA g5, gB (7 : RField)] false ∧
    (cOf sMap).regs.csr.mpx = 0 ∧ reads (tOf sMap) 0x600 32 32 getnReq = true ∧ getnKeys (BitVec.ofNat 768 getnReq) % 8 = 0 ∧
    getnOut (BitVec.ofNat 768 getnReq) % 8 = 0 ∧ inWindow (at_ 0x3FFF0) = true ∧ timingBad rGetn (cOf sMap) = none ∧
    rGetn.clear x0 = true ∧ getnDone = true := by
  and_intros <;> first | exact free_ok (by decide +kernel) | decide +kernel

/-- A task record for counter 1, and a launch record of one unit for counter 2. -/
def taskRec : Nat := 0x100 + 2 ^ 224
def launchRec : Nat := 0x100 + 2 ^ 128 + 2 ^ 160 + 2 ^ 192 + 2 ^ 224 + 2 * 2 ^ 272
def sWork : State :=
  withG (withG (withJob (withRec (withRec s0 0x400 64 taskRec) 0x600 64 launchRec) fun j => { j with nctr := 2 }) 5 (at_ 0x400)) 6 (at_ 0x600)
def rTask : State := readTo (tOf sWork) 0x400 64 64
def rLaunch : State := readTo (tOf sWork) 0x600 64 64
/-- The deques, and the job's launches, are full. -/
def sFull : State := withCore sWork fun k => { k with high := List.replicate 256 0, normal := List.replicate 256 0 }

theorem witness_WorkFormsComplete : Free sWork {} [gA g5] false ∧ Free sWork {} [gA (6 : RField)] false ∧
    reads (tOf sWork) 0x400 64 64 taskRec = true ∧ rTask.clear x0 = true ∧ rTask.spawnCheck x0 (BitVec.ofNat 512 taskRec) = none ∧
    ((rTask.core 0).deque (taskHi (BitVec.ofNat 512 taskRec))).length < 256 ∧ reads (tOf sWork) 0x600 64 64 launchRec = true ∧
    rLaunch.clear x0 = true ∧ rLaunch.launchCheck 1 (BitVec.ofNat 512 launchRec) = none ∧
    (rLaunch.endRegion x0).launchCheck 1 (BitVec.ofNat 512 launchRec) = none ∧ ((rLaunch.endRegion x0).job 1).undone < 4096 ∧
    ((tOf sWork).strand x0).gang = none ∧ ((tOf sWork).strand x0).run = .running ∧ ((cOf sWork).g (gA g5)).toNat % 4 = 0 ∧
    (tOf sWork).clear x0 = true ∧ ((tOf sWork).core 0).normal.length < 256 ∧ ((tOf sWork).counter 1 1).cancel = none ∧
    256 ≤ ((tOf sFull).core 0).normal.length ∧ Free sFull {} [gA g5] false := by
  and_intros <;> first | exact free_ok (by decide +kernel) | decide +kernel

/-- g5 names counter 1, the job's one and last; a second counter is DONE. -/
def sCtr : State := withG (withG (withJob s0 fun j => { j with nctr := 2, counters := j.counters ++ [(2, { Counter.zero with state := .done })] }) 5 1) 6 2
/-- A start vc that lies ahead. -/
def sStarts : State := withStrand s0 fun st => { st with starts := [(1000, win, 0)] }

theorem witness_CounterFormsAndTaskEnd : Free sCtr {} [gD g31, gA g5] false ∧ 0 < ((cOf sCtr).g (gA g5)).toNat ∧
    ((cOf sCtr).g (gA (6 : RField))).toNat ≤ ((tOf sCtr).job 1).nctr ∧ ((tOf sCtr).job 1).nctr < 2 ^ 32 ∧ Free sCtr {} [gA g5] false ∧
    Free sCtr {} [gA (6 : RField)] false ∧ ((tOf sCtr).counter 1 1).state ≠ .done ∧ ((tOf sCtr).counter 1 2).state = .done ∧
    Free (withPriv s0) {} [] true ∧ x0.strand = 0 ∧ (tOf (withPriv s0)).coreQuiet x0 = true ∧ Free s0 {} [] false ∧
    (∀ e ∈ ((tOf s0).strand x0).starts, e.1 ≤ (cOf s0).vc) ∧ ((tOf sStarts).strand x0).starts = [(1000, win, 0)] ∧
    (cOf sStarts).vc < 1000 ∧ Free sStarts {} [] false := by
  and_intros <;> first | exact free_ok (by decide +kernel) | decide +kernel

def sBrk : State := withStrand s0 fun st => { st with brken := true }
/-- In a handler, with EPC at a word, and with EPC at none. -/
def sInh (epc : Word) : State :=
  withRegs s0 fun r => { r with csr := { r.csr with epc := epc, status := { r.csr.status with inh := true } } }

theorem witness_SystemFormsComplete : Free s0 {} [] false ∧ ((tOf s0).strand x0).brken = false ∧ ((tOf sBrk).strand x0).brken = true ∧
    Free sBrk {} [] false ∧ (cOf s0).regs.csr.status.inh = false ∧ (cOf (sInh 4)).regs.csr.status.inh = true ∧
    Free (sInh 4) {} [] false ∧ Free (sInh 2) {} [] false ∧ (cOf (sInh 4)).regs.csr.epc.toNat % 4 = 0 ∧
    (cOf (sInh 2)).regs.csr.epc.toNat % 4 ≠ 0 ∧ Free s0 {} [gD g31] false ∧ Free s0 {} [gD g31, gA g31] false ∧
    ((cOf (withG s0 5 0x3F)).g (gA g5)).toNat = 0x3F ∧ ((cOf (withG s0 5 0x40)).g (gA g5)).toNat = 0x40 ∧
    ((cOf (withG s0 5 0x44)).g (gA g5)).toNat = 0x44 ∧ ((cOf (withG s0 5 0x45)).g (gA g5)).toNat = 0x45 := by
  and_intros <;> first | exact free_ok (by decide +kernel) | decide +kernel

/-- A supervisor beside job 2, which runs, is stopping or has stopped on core 1. -/
def sJob2 (r : JobRun) : State :=
  let s := withPriv s0
  { s with jobs := s.jobs ++ [(2, { Job.empty with cores := [1], run := r })], cores := s.cores ++ [(1, { Core.reset with job := some 2 })] }
def sTlb (y : Word) : State := withG (withG (withPriv (withLeaf s0 0x20000)) 5 0x10000) 6 y

theorem witness_SupervisorFormsComplete : Free (withG (sJob2 .running) 5 2) {} [gA g5] true ∧
    (tOf (withG (sJob2 .running) 5 2)).quiesceBad x0 2 = none ∧ (tOf (sJob2 .running)).quiesceBad x0 (2 * 2 ^ 32 + 2) = none ∧
    (tOf (sJob2 .stopped)).quiesceBad x0 (2 ^ 32 + 2) = none ∧ Free (withG (sJob2 .stopped) 5 (2 ^ 32 + 2)) {} [gA g5] true ∧
    Free (withG (withG (sJob2 .stopped) 5 1) 6 2) {} [gA g5, gB (6 : RField)] true ∧ (tOf (sJob2 .stopped)).migrateBad 1 2 = none ∧
    Free (sTlb 1) { scope := true } [gA g5, gB (6 : RField)] true ∧ ((cOf (sTlb 1)).g (gB (6 : RField))) = 1 ∧
    ((tOf (sTlb 1)).strand x0).storeBuf = [] ∧ (0x10000 : Word).toNat + (0x01FFFFFFFFFF0000 : Word).toNat = 2 ^ 57 ∧
    2 ^ 57 < (0x10000 : Word).toNat + (0x01FFFFFFFFFF0001 : Word).toNat ∧ (tOf (sTlb 1)).mem.tlb.length = 1 := by
  and_intros <;> first | exact free_ok (by decide +kernel) | decide +kernel

/-- The hypothesis of an instruction that issues behind one before its fault point. -/
structure Behind (s : State) (att : Attach) (us : List Use) (super : Bool) : Prop where
  issuing : Issuing s (tOf s) (cOf s)
  checks : decodeTrap att us super (tOf s) (cOf s) = none
  waits : (tOf s).clear (cOf s).sid = false

/-- The same as a test that can be evaluated. -/
def behindOk (s : State) (att : Attach) (us : List Use) (super : Bool) : Bool :=
  (s.strand s.cur).run == .running && s.ready s.cur (s.issueVc s.cur) && (decodeTrap att us super (tOf s) (cOf s)).isNone &&
    !(tOf s).clear (cOf s).sid

theorem behind_ok {s : State} {att : Attach} {us : List Use} {super : Bool} (h : behindOk s att us super = true) :
    Behind s att us super := by
  simp only [behindOk, Bool.and_eq_true, beq_iff_eq, Option.isNone_iff_eq_none, Bool.not_eq_true'] at h
  exact ⟨issuing_of h.1.1.1 h.1.1.2, h.1.2, h.2⟩

def sEarly : State := withEarly sMem
/-- The states of the statements above with an instruction before its fault point. -/
def eCopy : State := withEarly sCopy
def eRead : State := readTo (tOf eCopy) 0x400 32 96
def eFollow : State := readTo eRead 0x600 32 32
def eMap : State := withEarly sMap
def eMapRead : State := readTo (tOf eMap) 0x600 32 32
def eWork : State := withEarly sWork
def eTask : State := readTo (tOf eWork) 0x400 64 64
def eLaunch : State := readTo (tOf eWork) 0x600 64 64
def eMma : State := withEarly sMma
def ePriv : State := withEarly (withG (withG (sJob2 .stopped) 5 1) 6 2)
/-- The request of sMap passes MAPGETN's checks. -/
def openEarly : Bool :=
  match (tOf eMap).mapCheck x0 0x10000 0 false with
  | .inl m => !getnBad (BitVec.ofNat 768 getnReq) m.p (at_ 0x3FFF0)
  | _ => false

/-- When an atomic of g31's word issues. -/
def atomLater (s : State) : Option Nat :=
  (tOf s).laterVc (cOf s) ((cOf s).flight ((cOf s).vc + 160) (some (.atomic .add 8 0x10000 none 7 7 5 0 0, .unsent)) none)

theorem witness_EffectsWaitForEarlierFaults :
    Behind sEarly policyHints [gD g5, gA g31] false ∧ polOk ((cOf sEarly).q 0) = true ∧
    ((cOf sEarly).g (gA g31)).toNat % 16 = 0 ∧
    (tOf sEarly).resolve x0 0x10000 0 { Need.write with dev := false } = .at_ 0x20000 (some 0xC0000000000200F0) ∧
    (tOf sEarly).resolve x0 0x10000 0 { Need.write with dev := true } = .at_ 0x20000 (some 0xC0000000000200F0) ∧
    Behind sEarly policyHints [vD v15, gA g31] false ∧ Behind sEarly loadHints [gD g5, gA g31] false ∧
    Behind sEarly policyHints [gA g31] false ∧ Behind sEarly {} [vA v15] false ∧ Behind sEarly {} [] false ∧
    Behind sEarly {} [gA g5] false ∧ ((cOf sEarly).g (gA (4 : RField))).toNat = 0 ∧ coreIdOk 0 = true ∧
    0 ∈ ((tOf sEarly).job ((tOf sEarly).jobOf x0)).cores ∧ ((tOf sEarly).job ((tOf sEarly).jobOf x0)).nctr = 1 ∧
    ((cOf (withG sEarly 5 1)).g (gA g5)).toNat = 1 ∧ Behind sEarly {} [gA g5, gB g31] false ∧ inWindow (at_ 0x3FFF0) = true ∧
    Behind sEarly policyHints [gD g5, gA g31, gB g5] false ∧ Behind (withNear sMem) policyHints [gD g5, gA g31, gB g5] false ∧
    atomLater (withNear sMem) = none ∧ (atomLater sEarly).isSome = true ∧
    Behind sEarly { policyHints with rnd := some false } [gD g5, gA g31, gB g5] false ∧ (cOf sEarly).mode false = some 0 ∧
    Behind eMap policyHints [gPair e30, gA g5, gB g31] false ∧ polSpace ((cOf eMap).q 0) = 0 ∧ ((cOf eMap).g (gA g5)).toNat % 128 = 0 := by
  and_intros <;> first | exact behind_ok (by decide +kernel) | decide +kernel

theorem witness_CopiesAndWorkWait :
    Behind eCopy { start := true } [gA (5 : RField), gB (6 : RField)] false ∧
    Behind eCopy { start := true, seq := true } [gD (7 : RField), gA (5 : RField), gB (6 : RField)] false ∧
    Behind eCopy { start := true } [gD (7 : RField), gA (5 : RField), gB (6 : RField)] false ∧
    ((tOf eCopy).strand x0).nextWaits false = false ∧ reads (tOf eCopy) 0x400 32 96 lay = true ∧ reads eRead 0x600 32 32 follow = true ∧
    (followCmd eRead (cOf eCopy) follow layR (at_ 0x600)).isLeft = true ∧ eRead.clear x0 = false ∧ eFollow.clear x0 = false ∧
    timingBad eRead (cOf eCopy) = none ∧ timingBad eFollow (cOf eCopy) = none ∧
    Behind eMap { policyHints with start := true } [gD (8 : RField), gA g5, gB (7 : RField)] false ∧ openEarly = true ∧
    reads (tOf eMap) 0x600 32 32 getnReq = true ∧ eMapRead.clear x0 = false ∧ timingBad eMapRead (cOf eMap) = none ∧
    Behind eMma {} [] false ∧ ownerBad ((tOf eMma).core 0) 0 0 = none ∧
    Behind eMma { start := true, seq := true } [gD g5, gA (6 : RField), gB (7 : RField)] false ∧
    mmaBad ((tOf eMma).core 0) 0 0 64 (at_ 0x1000) (at_ 0x4000) = none ∧ timingBad (tOf eMma) (cOf eMma) = none ∧
    Behind (withEarly sOwn) {} [gD g31, gA g5] false ∧ ((tOf (withEarly sOwn)).core 0).bankBusy 0 = false ∧
    elementBad (((tOf (withEarly sOwn)).ahead x0).core 0) 0 0 false ((cOf (withEarly sOwn)).g (gA g5)) = none ∧
    Behind eWork {} [gA g5] false ∧ ((tOf eWork).strand x0).nextWaits false = false ∧ reads (tOf eWork) 0x400 64 64 taskRec = true ∧
    eTask.clear x0 = false ∧ eTask.spawnCheck x0 (BitVec.ofNat 512 taskRec) = none ∧ reads (tOf eWork) 0x600 64 64 launchRec = true ∧
    eLaunch.clear x0 = false ∧ eLaunch.launchCheck (eLaunch.jobOf x0) (BitVec.ofNat 512 launchRec) = none ∧
    ((tOf eWork).strand x0).gang = none ∧ ((cOf eWork).g (gA g5)).toNat % 4 = 0 := by
  and_intros <;> first | exact behind_ok (by decide +kernel) | decide +kernel

theorem witness_SupervisorFormsWait :
    Behind ePriv {} [gA g5] true ∧ (tOf ePriv).quiesceBad x0 (2 ^ 32 + 2) = none ∧
    (tOf (withEarly (sJob2 .running))).quiesceBad x0 (2 * 2 ^ 32 + 2) = none ∧ (tOf (withEarly (sJob2 .running))).quiesceBad x0 2 = none ∧
    Behind ePriv {} [gA g5, gB (6 : RField)] true ∧ (tOf ePriv).migrateBad 1 2 = none ∧
    Behind ePriv { scope := true } [gA g5, gB (6 : RField)] true ∧ (1 : Word).toNat + (2 : Word).toNat ≤ 2 ^ 57 ∧
    Behind ePriv {} [] true ∧ (tOf ePriv).coreQuiet x0 = true ∧ Behind (withEarly (sInh 4)) {} [] false ∧
    (cOf (withEarly (sInh 4))).regs.csr.status.inh = true ∧ (cOf (withEarly (sInh 4))).regs.csr.epc.toNat % 4 = 0 ∧
    Behind sEarly {} [] false ∧ ((tOf sEarly).strand x0).starts = [] := by
  and_intros <;> first | exact behind_ok (by decide +kernel) | decide +kernel

/-! ### Steps of queues, the dispatcher and idle strands -/

def ctrRec : Nat := 2 * 2 ^ 192 + 2 ^ 224 + 2 ^ 256
def sJob : State := withJob s0 fun j => { j with nctr := 2 }
def onQueue (f : Queue → Queue) : State := sJob.setQueue 3 (f { Queue.reset with en := true, job := 1 })
def rec (n : Nat) : Rec512 := BitVec.ofNat 512 n

theorem witness_HostQueueSteps : ((onQueue id).queue 3).en = true ∧ (s0.queue 3).en = false ∧ (s0.queue 3).waiting = [] ∧
    Tab.find? (onQueue id).jobs 1 ≠ none ∧ Tab.find? (onQueue id).jobs 9 = none ∧ ((onQueue id).queue 3).waiting.length < 64 ∧
    64 ≤ ((onQueue fun q => { q with waiting := List.replicate 64 (0, 8) }).queue 3).waiting.length ∧ recCnt (rec launchRec) ≠ 0 ∧
    (onQueue id).launchCheck 1 (rec launchRec) = none ∧ (onQueue id).launchCheck 1 (rec (launchRec + 1)) = some (4, 0) ∧
    recCnt (rec ctrRec) = 0 ∧ (onQueue id).counterCheck 1 (rec ctrRec) = none ∧
    (onQueue id).counterCheck 1 (rec (ctrRec - 2 ^ 256)) = some (4, 256) ∧
    recCount (rec (2 ^ 24 * 2 ^ 128)) = 2 ^ 24 ∧ 2 ^ 24 < recCount (rec ((2 ^ 24 + 1) * 2 ^ 128)) ∧
    (∀ k, (57 ≤ k ∧ k ≤ 63 ∨ 153 ≤ k ∧ k ≤ 159) → (rec ((2 ^ 24 + 1) * 2 ^ 128)).getLsbD k = false) ∧
    recSx (rec (2 ^ 128)) * recSy (rec (2 ^ 128)) * recSz (rec (2 ^ 128)) ≠ recCount (rec (2 ^ 128)) := by
  and_intros
  case _ => decide +kernel
  case _ => decide +kernel
  case _ => decide +kernel
  case _ => decide +kernel
  case _ => decide +kernel
  case _ => decide +kernel
  case _ => decide +kernel
  case _ => decide +kernel
  case _ => decide +kernel
  case _ => decide +kernel
  case _ => decide +kernel
  case _ => decide +kernel
  case _ => decide +kernel
  case _ => decide +kernel
  case _ => decide +kernel
  case _ =>
    have h : ∀ k, k < 160 → (57 ≤ k ∧ k ≤ 63 ∨ 153 ≤ k ∧ k ≤ 159) → (rec ((2 ^ 24 + 1) * 2 ^ 128)).getLsbD k = false := by decide +kernel
    exact fun k hk => h k (by omega) hk
  case _ => decide +kernel

/-- Core 0 idle in job 1, firmware booted; counter 2 is held, and a launch of it has been taken. -/
def sIdle : State :=
  let s := withStrand sJob fun _ => Strand.reset
  { s with fw := { s.fw with measured := some 0 } }
def launch2 (gang released : Bool) : Launch :=
  ⟨1, rec (launchRec + if gang then 2 ^ 256 + 2 ^ 261 + 2 ^ 266 else 0), 7, 0, released⟩
def withLaunch (l : Launch) : State := sIdle.modDisp fun d => { d with launches := [l] }
def gang1 : Gang := ⟨1, 2, 0, 0, 0, 1, 1, (launch2 true true).record, none, [], [], 0⟩
def sGang : State := { withLaunch (launch2 true true) with gangs := [(4, gang1)] }
def ret1 : Retiring := ⟨1, 2, [], .unit, 0⟩
/-- A record that a gang's rectangle returned. -/
def sBack : State := sIdle.modDisp fun d => { d with returned := [(1, rec taskRec)] }

theorem witness_DispatcherSteps : recCount (rec launchRec) ≠ 0 ∧ ((onQueue fun q => { q with waiting := [(rec launchRec, 7)] }).queue 3).waiting = [(rec launchRec, 7)] ∧
    (sIdle.modDisp fun d => { d with fromTasks := [(1, rec launchRec)] }).disp.fromTasks = [(1, rec launchRec)] ∧
    (7 : Nat) < 8 ∧ 0 < recCount (rec launchRec) ∧ Tab.find? sIdle.jobs 1 ≠ none ∧ sIdle.nextServe = none ∧
    (withLaunch (launch2 false true)).nextServe = some (.unit (launch2 false true) 0) ∧ sBack.nextServe = some (.back 1 (rec taskRec) 0) ∧
    (withLaunch (launch2 true true)).nextServe = some (.place (launch2 true true)) ∧
    (withLaunch (launch2 true true)).launchOf 1 2 = some (launch2 true true) ∧ (withLaunch (launch2 true true)).placed 1 2 = none ∧
    (withLaunch (launch2 true true)).flows 1 = true ∧ sGang.launchOf 1 2 = some (launch2 true true) ∧
    (launch2 true true).released = true ∧ recGang (launch2 true true).record = true ∧ sGang.flows 1 = true ∧
    sGang.placed 1 2 = some (4, gang1) ∧ gang1.cores.all sGang.coreIdle = true ∧ sGang.gangBefore gang1 (launch2 true true) = false ∧
    sGang.freeChannel 0 = some 0 ∧ sGang.clock.cc % (sGang.core (gang1.cores.headD 0)).part.strands = 0 ∧
    (let d := (sIdle.modDisp fun d => { d with retiring := [ret1] }).disp
     d.retiring.find? (d.settled 1 2) = some ret1) ∧ sIdle.disp.retiring.find? (sIdle.disp.settled 1 2) = none ∧
    (withLaunch (launch2 false true)).canServe (launch2 false true) = some (.unit (launch2 false true) 0) := by
  and_intros <;> decide +kernel

def sPhase (dies : List Nat) : State := withJob sIdle fun j => { j with phaseOf := [1], phaseDies := dies }
def withCounter (c : Counter) : State := sIdle.setCounter 1 2 c
def sDead : State := withCounter { Counter.zero with state := .active, cancel := some true }

theorem witness_JobAndCounterSteps : s0.booted = false ∧ sIdle.booted = true ∧ (1 : Nat) ∈ ((sPhase []).job 1).phaseOf ∧
    (2 : Nat) ∉ (sDead.job 1).phaseOf ∧ ((withJob sIdle fun j => { j with run := .stopped }).job 1).run = .stopped ∧
    (sIdle.job 1).run ≠ .stopped ∧ (sIdle.counter 1 2).pred ≤ 1 ∧
    ((withJob (withCounter { Counter.zero with level := 2 }) fun j => { j with phase := some 1, phaseOf := [2] }).job 1).phaseOf = [2] ∧
    ((sPhase []).job 1).phaseOf = [1] ∧ ((sPhase []).job 1).dies = [0] ∧ (0 : Nat) ∉ ((sPhase []).job 1).phaseDies ∧
    (∀ d ∈ ((sPhase [0]).job 1).dies, d ∈ ((sPhase [0]).job 1).phaseDies) ∧
    ((withJob (withCounter { Counter.zero with level := 2 }) fun j => { j with phase := some 1 }).counter 1 2).level = 2 ∧
    ((withJob (withCounter { Counter.zero with level := 2 }) fun j => { j with phase := some 1 }).job 1).phase ≠ none ∧
    ((withCounter { Counter.zero with pend := 1 }).counter 1 2).pend ≠ 0 ∧
    (sDead.counter 1 2).state.armed = true ∧ (sDead.counter 1 2).cancel ≠ none ∧ sDead.cancelReady 1 2 = true ∧
    (sDead.counter 1 2).parent = 0 ∧ (sIdle.core 5).job = none ∧ (sIdle.core 5).forward = none ∧
    (∀ e ∈ sIdle.jobs, e.1 % 65536 ≠ 7 % 65536) ∧ Tab.find? sIdle.jobs 1 = some (sIdle.job 1) ∧
    (sDead.counter 1 2).state = .active ∧ (sIdle.counter 1 2).state ≠ .active ∧ (sIdle.counter 1 2).level ≠ 2 ∧
    ((withCounter { Counter.zero with state := .held, pred := 1 }).counter 1 2).state = .held ∧ (sIdle.counter 1 2).state = .idle ∧
    (sIdle.counter 1 2).pend = 0 := by
  and_intros <;> decide +kernel

/-- Core 0 with records in its deques, and a strand that awaits the reply of core 2, two places on in the ring. -/
def withDeques (h n : List Rec512) : State := withCore sIdle fun k => { k with high := h, normal := n }
def sProbe (k : Nat) (awaits : Bool) : State :=
  let s := withJob sIdle fun j => { j with cores := [0, 2, coreIdOf 1 0 0] }
  let s := { s with cores := s.cores ++ [(2, { Core.reset with job := some 1, normal := [rec taskRec] })] }
  withStrand s fun st => { st with steal := ⟨k, awaits, 1, 0⟩ }
/-- The wait after a round is over, and is not. -/
def sRetry (due : Nat) : State := withStrand sIdle fun st => { st with steal := ⟨0, false, 2, due⟩ }

theorem witness_SeekingSteps : (withDeques [rec taskRec] []).seeks x0 = true ∧ ((withDeques [rec taskRec] []).core 0).high = [rec taskRec] ∧
    (rec taskRec).getLsbD 511 = false ∧ (withDeques [] [rec taskRec]).seeks x0 = true ∧
    ((withDeques [] [rec taskRec]).core 0).normal = [rec taskRec] ∧ sIdle.seeks x0 = true ∧ (sIdle.core 0).high = [] ∧
    (sIdle.core 0).normal = [] ∧ (sIdle.strand x0).steal.round = 0 ∧ (sProbe 0 false).seeks x0 = true ∧
    ((sProbe 0 false).strand x0).steal.awaiting = false ∧ ((sProbe 0 false).stealTargets x0)[0]? = some (.core 2) ∧
    ((sProbe 0 false).stealTargets x0)[1]? = some (.die 1) ∧ ((sProbe 2 false).stealTargets x0)[2]? = none ∧
    (sProbe 0 true).stealFrom x0 (.core 2) = some (2, false) ∧ ((sProbe 0 true).core 2).normal = [] ++ [rec taskRec] ∧
    ((sProbe 0 true).strand x0).steal.awaiting = true ∧ ((sProbe 0 true).strand x0).steal.due ≤ (sProbe 0 true).clock.cc ∧
    (sIdle.strand x0).run = .idle ∧ ((sRetry 0).strand x0).run = .idle ∧ ((sRetry 0).strand x0).steal.round = 2 ∧
    ((sRetry 0).strand x0).steal.due ≤ (sRetry 0).clock.cc ∧ (sRetry 0).clock.cc < ((sRetry 64).strand x0).steal.due := by
  and_intros <;> decide +kernel

/-! ### Steps of strands and their requests -/

/-- An instruction whose fault is due. -/
def sDue : State := withStrand s0 fun st => { st with inflight := [{ early with faultVc := 0, trap := some ⟨.perm, 0, 0⟩, req := none }] }
def lateOf (t : TrapInfo) (s : State) : State := withStrand s fun st => { st with late := [⟨t, none⟩] }
def sLate : State := lateOf ⟨.timing, 1, 0⟩ s0
/-- PREEMPT waits, in a strand with a write still to land. -/
def sPre (ps : List Pending) : State := lateOf ⟨.preempt, 0, 0⟩ (withStrand s0 fun st => { st with pending := ps })
def isDue (s : State) : Bool := ((s.strand x0).dueTrap ((s.strand x0).vcAt s.clock.cc)).isSome
def settled (s : State) : State := (s.modStrand x0 fun st => st.settle ((s.strand x0).vcAt s.clock.cc)).commitSvec x0
def lateDue (s : State) : Option LateTrap := (settled s).dueLate x0

theorem witness_LandingSteps : (s0.strand x0).run = .running ∧ isDue sDue = true ∧ isDue s0 = false ∧ lateDue s0 = none ∧
    isDue sLate = false ∧ lateDue sLate = some ⟨⟨.timing, 1, 0⟩, none⟩ ∧ lateDue (sPre []) = some ⟨⟨.preempt, 0, 0⟩, none⟩ ∧
    isDue (sPre []) = false ∧ ((settled (sPre [])).strand x0).pending = [] ∧ isDue (sPre [⟨9, 0, .g 5 1⟩]) = false ∧
    lateDue (sPre [⟨9, 0, .g 5 1⟩]) = some ⟨⟨.preempt, 0, 0⟩, none⟩ ∧
    ((settled (sPre [⟨9, 0, .g 5 1⟩])).strand x0).pending ≠ [] ∧ Tab.wf 0 Regs.reset.g = true ∧
    Tab.wf 0 Regs.reset.v = true ∧ Tab.wf 0 Regs.reset.p = true := by
  and_intros <;> decide +kernel

/-- Two writes of one vc in the order of their issue, one of a later vc. -/
def pend3 : List Pending := [⟨3, 0, .g 5 1⟩, ⟨3, 1, .g 5 2⟩, ⟨4, 0, .g 0 9⟩]
theorem witness_LandingOrder : pend3.Pairwise (fun p q => p.vc ≤ q.vc) ∧
    pend3.Pairwise (fun p q => p.vc < q.vc ∨ p.vc = q.vc ∧ p.seq ≤ q.seq) ∧ Tab.wf 0 Regs.reset.g = true ∧ Tab.wf 0 Regs.reset.v = true ∧
    Tab.wf 0 Regs.reset.p = true ∧ Tab.wf 0 Regs.reset.csr.q = true := by
  decide +kernel

/-- A load whose response is not there at its fault point; the same domain held there, with the response there. -/
def loadReq (st : Stage) : Inflight := ⟨0, 4, 0, some (.load 0 0x20000 8 (.g 5 false) 0, st), none, none, Regs.reset, []⟩
def sWaits : State := withStrand (s0.tick 4) fun st => { st with inflight := [loadReq (.sent 0)] }
def fixed (s : State) : State := (s.domain x0).foldl (fun u y => u.modStrand y fun st => st.fixLates s.clock.cc) s
def sHeld : State := withStrand (s0.tick 12) fun st => { st with inflight := [loadReq (.answered 5)], held := 4 }
theorem witness_HoldingSteps : (fixed sWaits).lateAt x0 = some 4 ∧ ((fixed sWaits).strand x0).held = 0 ∧
    ((fixed sWaits).strand x0).gang = none ∧ ((fixed sWaits).strand x0).base + 4 ≤ sWaits.clock.cc ∧
    (sHeld.strand x0).gang = none ∧ (sHeld.strand x0).held ≠ 0 ∧ sHeld.present x0 = true ∧
    sHeld.clock.cc = (sHeld.strand x0).base + (sHeld.strand x0).held + 1 * sHeld.rotation x0 := by
  and_intros <;> decide +kernel

def sEff (e : Effect) : State :=
  withStrand s0 fun st => { st with deferred := [⟨0, 0, 0, e, none⟩], inflight := [⟨0, 0, 0, none, none, none, Regs.reset, []⟩] }
def doneOf (s : State) : Option EffRes := (s.strand x0).effectDue.map (s.performEffect x0)
def ready1 : Park := ⟨.sfu, .ready 0 [.g 5 1] none, 0, 0, 0, 0⟩
def sReady : State := withStrand s0 fun st => { st with park := some ready1 }
/-- The route that an SOPEN wants is another strand's; its strand runs, or is parked for it or for another instruction. -/
def sNoRoute (p : Option Park) : State :=
  withStrand (withCore (sEff (.sopen 0)) fun k => { k with routeHolder := some ⟨0, 1⟩ }) fun st => { st with park := p }
def parksFor (s : State) : Option ParkReason :=
  match doneOf s with
  | some (.park _ r) => some r
  | _ => none
theorem witness_EffectAndParkSteps : parksFor (sNoRoute none) = some .stream ∧
    parksFor (sNoRoute (some ⟨.serial, .effect, 0, 0, 0, 0⟩)) = some .stream ∧
    parksFor (sNoRoute (some ⟨.serial, .effect, 0, 1, 0, 0⟩)) = some .stream ∧
    ((sNoRoute none).strand x0).park = none ∧ ((sEff (.mprec 0 false 0)).strand x0).effectDue.isSome = true ∧
    ((sEff (.cancel false 1)).strand x0).effectDue.map (fun e => ((sEff (.cancel false 1)).strand x0).effectCc e) = some 0 ∧
    (match doneOf (sEff (.cancel false 1)) with | some (.done _) => true | _ => false) = true ∧
    (match doneOf (sEff (.mprec 0 false 0)) with | some (.fault t _) => ((t.strand x0).inflight.find? fun i => i.seq = 0).isSome | _ => false) =
      true ∧
    (sReady.strand x0).run = .running ∧ (sReady.strand x0).deferred.any (fun e => e.stuck.isSome) = false ∧
    (sReady.strand x0).park = some ready1 := by
  and_intros <;> decide +kernel

def withReq (e : Inflight) : State := withStrand s0 fun st => { st with inflight := [e] }
def key1 : MapCmd := ⟨.prb, 0x10000, 5, 0, 0, 2, 4, 1, 0x10⟩
def mapReq : Inflight := ⟨0, 200, 0, some (.mapKey key1, .sent 0), none, none, Regs.reset, []⟩
def sKey : State := withStrand sMap fun st => { st with inflight := [mapReq] }
def waiter1 : Waiter := ⟨x0, 0, .stf, 0x20000, 1, 0⟩
def sWaiter : State := (s0.setEmpty 0x20000 true).modMem fun m => { m with waiters := [waiter1] }
/-- The load waits behind its strand's message, and a second one behind the first. -/
def sOutReq : State := withStrand (withReq (loadReq (.sent 0))) fun st => { st with msgOut := true }
def sTwo : State := withStrand s0 fun st => { st with inflight := [atWord1, sentLoad 1] }
def sBuf (zero : Bool) (due : Nat) : State := withStrand s0 fun st => { st with storeBuf := [⟨0x20000, zero, due⟩] }
/-- A load of class 1 through a leaf, whose line is nowhere cached. -/
def missed : Request := .load 0x10000 0x20000 8 (.g 5 false) 0x10
def sMiss : State := withStrand sMem fun st => { st with inflight := [⟨0, 4, 0, some (missed, .sent 0), none, none, Regs.reset, []⟩] }
theorem witness_RequestSteps : ((sBuf true 0).strand x0).storeBuf = [⟨0x20000, true, 0⟩] ∧ ((sBuf true 0).strand x0).msgOut = false ∧
    (sBuf true 0).classOut x0 = false ∧ (sBuf false 9).clock.cc < 9 ∧ ((sBuf false 9).strand x0).msgOut = false ∧ (sBuf false 9).classOut x0 = false ∧ ((withReq (loadReq (.sent 0))).strand x0).inflight.find? (fun e => e.seq = 0) = some (loadReq (.sent 0)) ∧
    ((withReq (loadReq (.sent 0))).strand x0).firstSent 0 = true ∧
    (withReq (loadReq (.sent 0))).classWaits x0 (.load 0 0x20000 8 (.g 5 false) 0) = false ∧
    (sMiss.refusesNow x0 missed 0 (some 63)).2 = some 63 ∧ (sMiss.strand x0).firstSent 0 = true ∧ sMiss.classWaits x0 missed = false ∧
    ((withReq (loadReq (.sent 0))).refusesNow x0 (.load 0 0x20000 8 (.g 5 false) 0) 0 none).2 = none ∧
    (withReq (loadReq (.sent 0))).waitersFull (.load 0 0x20000 8 (.g 5 false) 0) = false ∧
    (withReq (loadReq (.sent 0))).requestHome x0 (.load 0 0x20000 8 (.g 5 false) 0) = some (0, 0x20000) ∧ polTc 0 = 0 ∧
    ({ sKey with choices := [4] }.refusesNow x0 (.mapKey key1) 0 none).2 = some 3 ∧ (sKey.refusesNow x0 (.mapKey key1) 0 none).2 = none ∧
    (sOutReq.classWaits x0 (.load 0 0x20000 8 (.g 5 false) 0)) = true ∧ (sTwo.strand x0).firstSent 1 = false ∧
    (sKey.strand x0).firstSent 0 = true ∧ sKey.classWaits x0 (.mapKey key1) = false ∧ (sKey.mapKeyAt x0 key1).2.isLeft = true ∧
    ((withReq (loadReq (.sent 1))).strand x0).inflight.find? (fun e => e.seq = 0) = some (loadReq (.sent 1)) ∧
    ((withReq (loadReq (.served [.g 5 1] none))).strand x0).inflight.find? (fun e => e.seq = 0) = some (loadReq (.served [.g 5 1] none)) ∧
    ((withReq (loadReq (.served [.g 5 1] none))).strand x0).park = none ∧
    ((sBuf false 9).strand x0).storeBuf = [⟨0x20000, false, 9⟩] ∧ waiter1.op.reads = false ∧ sWaiter.mem.waiters = [waiter1] ∧ waiter1.op.fits (sWaiter.isEmpty waiter1.loc) = true ∧ waiter1.loc % 8 = 0 := by
  and_intros <;> decide +kernel

/-- The strand is parked with what the macro still has to do. -/
def parkAs (s : State) (r : ParkReason) (on : ParkOn) : State := withStrand s fun st => { st with park := some ⟨r, on, 0, 0, 0, 0⟩ }
def parkIs (s : State) (r : ParkReason) (on : ParkOn) : Bool := (s.strand x0).park == some ⟨r, on, 0, 0, 0, 0⟩
def hd0 : Word := 0x10000
def rangeIs (i : Nat) : Bool :=
  match (withRegs sMem fun r => { r with csr := { r.csr with mpx := BitVec.ofNat 64 i } }).rangeLine x0 .flush 0x10000 (0x10000 + BitVec.ofNat 64 (128 * i)) 0 with
  | .inl _ => true
  | _ => false
/-- The arena is mapped; a map that MAPNEW has made; a scan record at the start, and one at the end. -/
def sArena : State :=
  (withLeaf (withRec (withRec s0 0xE00 32 (2 ^ 64)) 0xE20 32 (2 ^ 63)) 0x20000).modMem fun m =>
    { m with tlb := m.tlb ++ [⟨some 0, 0, 1, 0x40000, 4096, 0xC0000000000400F0⟩] }
def newMap : EffRes := sArena.performMapnew x0 0 hd0 (BitVec.ofNat 256 mapBlk) 0
def sNew : State := match newMap with | .done s => s | _ => s0
def resIs (r : MacroRes) (more : Bool) : Bool := match r with | .more _ => more | .complete _ => !more | _ => false

/-- A MAPNEW that waits for a write-blocked page. -/
def sParked : State :=
  withStrand (parkAs s0 .writeBlocked (.mapnew hd0 0 0)) fun st => { st with blocked := some ⟨0, 0x10000, 1, false, []⟩ }

theorem witness_MacroStepsGoOn : parkIs (parkAs sMem .serial (.rangeMacro .flush 0x10000 256 0)) .serial (.rangeMacro .flush 0x10000 256 0) = true ∧
    (parkAs sMem .serial (.rangeMacro .flush 0x10000 256 0)).quietFor x0 0 = true ∧ (sMem.strand x0).run = .running ∧
    rangeLines 0x10000 256 = 2 ∧ rangeIs 0 = true ∧ rangeIs 1 = true ∧ 0 + 1 < rangeLines 0x10000 256 ∧ 1 + 1 = rangeLines 0x10000 256 ∧
    (match newMap with | .done _ => true | _ => false) = true ∧ sNew.resolve x0 hd0 0 Need.map ≠ .blocked ∧ (sNew.strand x0).blockedBy 0 = false ∧
    (sParked.strand x0).blockedBy 0 = true ∧ parkIs sParked .writeBlocked (.mapnew hd0 0 0) = true ∧ sParked.quietFor x0 0 = true ∧
    resIs (sNew.scanStep x0 0 0 hd0 (at_ 0xE00) (at_ 0x800) 0) true = true ∧
    resIs (sNew.scanStep x0 0 0 hd0 (at_ 0xE20) (at_ 0x800) 0) false = true ∧
    resIs (sNew.settleOnce x0 hd0 0 0).1 true = true ∧ resIs (sNew.clearOnce x0 hd0 0) true = true ∧
    resIs ((sNew.setMpx x0 1).clearOnce x0 hd0 0) false = true ∧ openOk = true ∧
    s0.tlbClear [] [] [] = true ∧ sWoad.memberOf x0 0 = some 0 ∧ sWoad.woadPending x0 0 = false ∧
    ((sEff (.copy (copyCmd .cpy 0 none))).strand x0).headEffect.isSome = true := by
  and_intros <;> decide +kernel

/-- A gang of one member that has been parked for 256 cycles. -/
def gangA : Gang := { gang1 with channel := some 0, members := [x0] }
def sStall : State :=
  let s := parkAs (s0.tick 300) .fullEmpty (.home 0)
  { (withStrand s fun st => { st with gang := some 4 }) with gangs := [(4, gangA)] }
def withWdone (s : State) : State := withRegs s fun r => { r with csr := { r.csr with status := { r.csr.status with wdone := true } } }
def closed1 (k : WKind) : Channel := ⟨[], [(0, [⟨x0, k, 3⟩])]⟩
def sClosed : State := (withStrand sWoad id).setChannel 0 (closed1 .plain)
def sClosedW : State := (parkAs sWoad .woad (.woad 0 0 true (some 5))).setChannel 0 (closed1 .add)

theorem witness_WoadAndGangSteps : ((sWoad.setChannel 0 ⟨[⟨x0, .plain, 0⟩], []⟩).members 0).all
      (fun x => ([] ++ [(⟨x0, .plain, 0⟩ : Arrival)]).any fun e => e.sid = x) = true ∧
    (sClosed.channel 0).closed = [(0, [⟨x0, .plain, 3⟩])] ∧ sClosed.woadWaiters 0 = [] ∧
    (sClosed.channel 0).closed.find? (fun g => g.1 ≤ sClosed.clock.cc) = some (0, [⟨x0, .plain, 3⟩]) ∧
    ((withWdone sClosed).channel 0).closed.find? (fun g => g.1 ≤ (withWdone sClosed).clock.cc) = some (0, [⟨x0, .plain, 3⟩]) ∧
    (withWdone sClosed).woadWaiters 0 = [] ∧ ((withWdone sClosed).strand x0).regs.csr.status.wdone = true ∧
    (sClosedW.channel 0).closed.find? (fun g => g.1 ≤ sClosedW.clock.cc) = some (0, [⟨x0, .add, 3⟩]) ∧
    (sClosedW.strand x0).regs.csr.status.wdone = false ∧
    (sClosed.strand x0).regs.csr.status.wdone = false ∧ (sClosedW.channel 0).closed = [(0, [⟨x0, .add, 3⟩])] ∧
    sClosedW.woadWaiters 0 = [(x0, ⟨.woad, .woad 0 0 true (some 5), 0, 0, 0, 0⟩)] ∧
    (∀ a ∈ [(⟨x0, .add, 3⟩ : Arrival), ⟨⟨0, 1⟩, .add, 4⟩], a.kind = .add) ∧
    (∃ a ∈ [(⟨x0, .add, 3⟩ : Arrival), ⟨⟨0, 1⟩, .send, 4⟩], a.kind = .add ∨ a.kind = .min ∨ a.kind = .max) ∧
    (∃ a ∈ [(⟨x0, .add, 3⟩ : Arrival), ⟨⟨0, 1⟩, .send, 4⟩], a.kind = .plain ∨ a.kind = .send ∨ a.kind = .recv ∨ a.kind = .or) ∧
    (∀ a ∈ [(⟨x0, .or, 3⟩ : Arrival), ⟨⟨0, 1⟩, .send, 4⟩], a.kind ≠ .add ∧ a.kind ≠ .min ∧ a.kind ≠ .max) ∧
    Tab.find? sStall.gangs 4 = some gangA ∧ gangA.members ≠ [] ∧ gangA.quietFrom + 256 ≤ sStall.clock.cc ∧
    (∀ x ∈ gangA.members, sStall.drives x = true ∧ (sStall.strand x).held = 0 ∧ sStall.driveCc x + 256 ≤ sStall.clock.cc) ∧
    (∀ a ∈ [(⟨x0, .add, 3⟩ : Arrival)], (sClosedW.strand a.sid).regs.csr.status.wdone = false) ∧ (sClosedW.strand x0).park ≠ none ∧
    (⟨0, 1⟩ : SId) ≠ x0 ∧ (∃ x ∈ gangA.members, (sStall.strand x).park ≠ none) := by
  and_intros <;> decide +kernel

/-! ### Steps of engines, units, links and streams -/

def land2 : List Land := [⟨0, some 0x20000, [1], 0xFF, false, 1⟩, ⟨0, some 0x20001, [2], 0xFF, false, 1⟩]
def op1 (started : Bool) (start : Option Nat) : CopyOp :=
  ⟨1, { copyCmd .cpy 0 none with hstart := start }, x0, 0, started, !started, false, land2, [], 0, [], [], [], [], [], [], [], none⟩
def getn1 (ps : List Probe) : CopyOp :=
  let cmd : CopyCmd :=
    { kind := .mapgetn, record := BitVec.ofNat 768 getnReq, obj := at_ 0x3FFF0, third := 0x10000, q := 0, hstart := none,
      hseq := none, follow := none }
  ⟨1, cmd, x0, 0, true, true, false, [], [], 0, ps, [], [], [], [], [], [], none⟩
def withOps (s : State) (os : List CopyOp) : State := withCore s fun k => { k with ops := os }
def waitingOps (s : State) : List CopyOp := (s.core 0).ops.filter fun p => p.inBox && !p.started
def m1 : Msg := ⟨9, 0, 4, 0⟩
def sHolds : State := withCore s0 fun k => { k with held := [m1], heldTo := [0] }
def sFlips : State := withCore s0 fun k => { k with flips := [(oAt, 1, 0)] }
/-- A copy that has started holds what the next one writes, at whose start vc the engine looks. -/
def sClash : State := withOps s0 [{ op1 true none with id := 0, wlocks := [(0x20000, 128)] }, { op1 false (some 0) with wlocks := [(0x20000, 128)] }]
/-- The first request waits for its start vc, the second has reached its own. -/
def sPassed : State := withOps s0 [op1 false (some 1000), { op1 false (some 0) with id := 2 }]
def sTransit : State := withCore s0 fun k => { k with transit := [m1] }

/-- A copy with a follow-on that has landed all its bytes. -/
def doneCpyx : CopyOp :=
  { op1 true none with todo := [], cmd := { copyCmd .cpyx 0 (some ⟨false, false, 0, ownPrec, 64, at_ 0x1000, at_ 0x4000, 0, 0, x0, 0, none,
      none, [], [], 2, some 1, 0, none, 0, 0, none⟩) with hstart := none } }

theorem witness_CopyEngineSteps : waitingOps (withOps s0 [op1 false none]) = [op1 false none] ∧
    (withOps s0 [op1 false none]).engineRuns 0 (.copy 0) = true ∧
    (withOps s0 [op1 false none]).opHeld (op1 false none) = false ∧ (s0.core 0).held.length < 4 ∧ (op1 false none).todo ≠ [] ∧
    (withOps (s0.tick 7) [op1 false none]).moveSlot 0 = 0 ∧ (op1 false none).cmd.kind ≠ .mapgetn ∧
    waitingOps sClash = [{ op1 false (some 0) with wlocks := [(0x20000, 128)] }] ∧ sClash.opVc (op1 false (some 0)) = 0 ∧
    sClash.opHeld { op1 false (some 0) with wlocks := [(0x20000, 128)] } = true ∧ (op1 false (some 0)).cmd.hseq = none ∧
    waitingOps sPassed = [op1 false (some 1000), { op1 false (some 0) with id := 2 }] ∧ sPassed.opVc (op1 false (some 1000)) < 1000 ∧
    sPassed.opVc { op1 false (some 0) with id := 2 } = 0 ∧ (op1 true none).rows = [] ∧
    (withOps s0 [op1 false none, { op1 false (some 0) with id := 2 }]).opVc { op1 false (some 0) with id := 2 } = 0 ∧
    freeRows (withOps s0 [op1 true none]).opLive [⟨land2, [], [], [9]⟩, ⟨[], [], [], [1]⟩] = (land2, [⟨[], [], [], [1]⟩]) ∧
    landIndex [⟨0, some 0x20000, [1, 2, 3, 4, 5, 6, 7, 8], 0xFF, false, 8⟩, ⟨0, some 0x20004, [1, 2, 3, 4, 5, 6, 7, 8], 0xFF, false, 8⟩,
      ⟨0, some 0x20008, [1, 2, 3, 4, 5, 6, 7, 8], 0xFF, false, 8⟩] 2 = some 0 ∧
    ((withOps s0 [doneCpyx]).core 0).ops.find? (fun p => p.id = doneCpyx.id) = some doneCpyx ∧ doneCpyx.todo = [] ∧ doneCpyx.rows = [] ∧
    doneCpyx.started = true ∧ doneCpyx.open_ = false ∧ doneCpyx.cmd.follow ≠ none ∧ doneCpyx.cmd.kind ≠ .mapgetn ∧
    landIndex land2 1 = some 1 ∧ 1 < land2.length ∧ (getn1 []).next < getnCount (getn1 []).cmd.record ∧
    (getn1 [⟨0, 1, 0, 0⟩]).probes = [⟨0, 1, 0, 0⟩] ∧ (sHolds.core 0).held = [m1] ∧ (sHolds.core 0).heldTo = [0] ∧
    sHolds.nextHeld 0 = some 0 ∧ s0.nextHeld 0 = none ∧ sFlips.freeStep 0 = some (oAt, 1, 0) ∧
    (sTransit.core 0).transit[3 % Nat.max 1 (sTransit.core 0).transit.length]? = some m1 ∧ (sTransit.core 0).inbox.length < 16 ∧
    (sTransit.core 0).transit.find? (fun n => n.sender = m1.sender) = some m1 := by
  and_intros <;> decide +kernel

def withTransit (cc : Nat) : State := withCore (s0.tick cc) fun k => { k with linkTransit := [(0, [(0, x0, 7)])] }
def sGrant : State :=
  withCore (sEff (.sopen 0)) fun k => { k with routeWait := [x0] }
theorem witness_LinkAndStreamSteps : ((withTransit 4).core 0).linkComing 0 = [(0, x0, 7)] ∧ (withTransit 4).linkPresent 0 x0 = true ∧
    (withTransit 3).linkPresent 0 x0 = false ∧
    ((withCore s0 fun k => { k with streamTransit := [none] }).core 0).streamTransit = [none] ∧
    ((withCore s0 fun k => { k with streamTransit := [none] }).core 0).streamIn.length < 16 ∧
    (sGrant.core (sGrant.fwd 0)).routeHolder = none ∧ (sGrant.core (sGrant.fwd 0)).routeWait = [x0] ∧
    ((sGrant.strand x0).headEffect.map fun d => d.eff) = some (.sopen 0) ∧ (sRoute.strand x0).route = some 0 ∧
    (s0.strand x0).route = none := by
  and_intros <;> decide +kernel

def sfuReq : Inflight := ⟨0, 40, 0, some (.sfu 4 .f 0x40800000 5 0 false, .sent 0), none, none, Regs.reset, []⟩
def sRing : State := (withReq sfuReq).setSfu 0 ⟨[(x0, 0)], [], 7, 0⟩
def sTaken : State := ((withReq sfuReq).tick 40).setSfu 0 ⟨[], [(0, x0, 0)], 0, 2⟩
def cmd1 (start : Option Nat) (ends step k : Nat) : ArrayCmd :=
  ⟨false, false, 0, ownPrec, BitVec.ofNat 64 k, at_ 0x1000, at_ 0x4000, step, 0, x0, 0, none, none, [], [], 1, none, 0, start, 0, ends, none⟩
def zero1 : ArrayCmd := { cmd1 none 0 0 64 with zero := true }
def withCmd (s : State) (a : ArrayCmd) : State := withCore s fun k => { k with array := [a] }
def runningCmd (s : State) : Option ArrayCmd :=
  ((s.core 0).array.filter fun a => a.start.isSome && !s.stepHeld a a.step).find? fun a => a.ends = 0 || a.ends ≤ s.clock.cc
/-- A command of a task that has ended is left in bank 1. -/
def sLeft : State := withCore (withCmd sOwn { cmd1 (some 0) 100 0 64 with bank := 1, base := some 0 }) fun k => { k with releasing := [0] }
def sEnds (k : Nat) : State := withCmd (s0.tick 100) (cmd1 (some 0) 100 0 k)
/-- A command at its start vc. -/
def sharp : ArrayCmd := { cmd1 none 0 0 64 with hstart := some 0 }

/-- A copy registered before it writes what a command at its start vc reads. -/
def locked : ArrayCmd := { sharp with locks := [(0x20000, 128)] }
def sBlocks : State := withCore (withCmd s0 locked) fun k => { k with ops := [{ op1 true none with id := 0, wlocks := [(0x20000, 128)] }] }

theorem witness_UnitSteps : (sRing.sfuOf 0).ring ≠ [] ∧ (sRing.sfuOf 0).idleAt ≤ sRing.clock.cc ∧ (sTaken.sfuOf 0).accepted = [(0, x0, 0)] ∧
    0 + 40 ≤ sTaken.clock.cc ∧ (sTaken.strand x0).inflight.find? (fun e => e.seq = 0) = some sfuReq ∧
    (withCmd s0 (cmd1 none 0 0 64)).arrayGoes 0 = true ∧ (cmd1 none 0 0 64).waitCopy = none ∧
    (withCmd s0 sharp).arrayGoes 0 = true ∧
    ((withCmd s0 sharp).core 0).array.find? (fun a => a.hstart.any fun n => n ≤ (withCmd s0 sharp).cmdVc a) = some sharp ∧
    orderReached [sharp] sharp = true ∧ (withCmd s0 sharp).freeCc 0 sharp ≤ s0.clock.cc ∧ (withCmd s0 sharp).tagBad 0 sharp = none ∧
    (withCmd s0 sharp).conflictsEarlier sharp.id sharp.locks [] = false ∧
    sBlocks.arrayGoes 0 = true ∧ (sBlocks.core 0).array.find? (fun a => a.hstart.any fun n => n ≤ sBlocks.cmdVc a) = some locked ∧
    orderReached [locked] locked = true ∧ sBlocks.freeCc 0 locked ≤ sBlocks.clock.cc ∧ sBlocks.tagBad 0 locked = none ∧
    sBlocks.conflictsEarlier locked.id locked.locks [] = true ∧ locked.hseq = none ∧ { locked with hseq := some 0 }.hseq ≠ none ∧
    orderReached [{ sharp with id := 0, hstart := none }, sharp] sharp = false ∧ (sEnds 128).arrayGoes 0 = true ∧
    runningCmd (sEnds 128) = some (cmd1 (some 0) 100 0 128) ∧ (sEnds 128).stepBad 0 (cmd1 (some 0) 100 0 128) 0 = none ∧
    (withCmd s0 zero1).arrayGoes 0 = true ∧
    ((withCmd s0 (cmd1 none 0 0 64)).core 0).array.filter (fun a => !a.zero && a.start.isNone) = [cmd1 none 0 0 64] ∧
    orderReached [cmd1 none 0 0 64] (cmd1 none 0 0 64) = true ∧
    (withCmd s0 (cmd1 none 0 0 64)).freeCc 0 (cmd1 none 0 0 64) ≤ s0.clock.cc ∧
    (withCmd s0 (cmd1 none 0 0 64)).tagBad 0 (cmd1 none 0 0 64) = none ∧ runningCmd (sEnds 64) = some (cmd1 (some 0) 100 0 64) ∧
    (sEnds 64).stepBad 0 (cmd1 (some 0) 100 0 64) 0 = none ∧ dscSteps 64 ≤ 0 + 1 ∧ 0 + 1 < dscSteps 128 ∧
    (((sEnds 64).setBad (Config.scratchLoc 0 0x1000) true).stepBad 0 (cmd1 (some 0) 100 0 64) 0).isSome = true ∧
    ((withCmd s0 zero1).core 0).array.find? (fun a => a.zero && orderReached [zero1] a && (earlierCmds [zero1] a.id).all fun e => e.bank ≠ a.bank) =
      some zero1 ∧
    ((withCore sOwn fun k => { k with releasing := [0] }).core 0).releasing.contains (0 : BitVec 1).toNat = true ∧
    ((withCore sOwn fun k => { k with releasing := [0] }).core 0).bankBusy (0 : BitVec 1).toNat = false ∧
    ((withCore sOwn fun k => { k with releasing := [0] }).core 0).leftBy 0 = false ∧ precOstr (ownPrec) = 0 ∧
    (sLeft.core 0).releasing.contains (0 : BitVec 1).toNat = true ∧ (sLeft.core 0).bankBusy (0 : BitVec 1).toNat = false ∧
    (sLeft.core 0).leftBy (precOstr ((sLeft.core 0).prec 0)) = true := by
  and_intros <;> decide +kernel

/-! ### Steps of pre-emption, debug and outside agents -/

def sStop : State := withJob s0 fun j => { j with run := .stopping, markers := [.dispatcher] }
def sInSuper : State :=
  withRegs sStop fun r => { r with csr := { r.csr with status := { r.csr.status with inh := true, priv := true } } }
def sDrain : State := withStrand sStop fun st => { st with drainT := some 0 }
def sAllOut : State := withStrand sStop fun st => { st with run := .drained }
def sMove : State := parkAs (sJob2 .stopped) .barrierPhase (.migrate 1 2)
/-- The core moved before. -/
def sMoved : State := sMove.modCore 1 fun k => { k with forward := some 3 }
def sAsked : State := withStrand s0 fun st => { st with stopAsked := true }

/-- A member of a gang of one whose job is to stop. -/
def sGangStop : State := { (withStrand sStop fun st => { st with gang := some 4 }) with gangs := [(4, gangA)] }

theorem witness_StoppingSteps : (sGangStop.strand x0).gang ≠ none ∧ (sGangStop.strand x0).drainCc = 0 ∧ (sGangStop.strand x0).run = .running ∧
    (sGangStop.strand x0).drainT = none ∧ (sGangStop.job (sGangStop.jobOf x0)).run = .stopping ∧ sGangStop.runners x0 = [x0] ∧
    ((sGangStop.strand x0).regs.csr.status.priv && (sGangStop.strand x0).regs.csr.status.inh) = false ∧ (sDrain.strand x0).dying = false ∧
    (sDrain.strand x0).gang = none ∧ (sDrain.strand x0).run = .running ∧ (1 : Nat) ≠ 2 ∧
    ((withStrand s0 fun st => { st with run := .halted }).strand x0).gang = none ∧ (sAllOut.strand x0).run = .drained ∧
    (sAsked.strand x0).run = .running ∧ (sStop.strand x0).gang = none ∧ (sStop.strand x0).run = .running ∧ (sStop.strand x0).drainT = none ∧
    (sStop.job (sStop.jobOf x0)).run = .stopping ∧
    ((sStop.strand x0).regs.csr.status.priv && (sStop.strand x0).regs.csr.status.inh) = false ∧
    ((sInSuper.strand x0).regs.csr.status.priv && (sInSuper.strand x0).regs.csr.status.inh) = true ∧ (sDrain.strand x0).held = 0 ∧
    (sDrain.strand x0).drainT = some 0 ∧ (sDrain.strand x0).quiet = true ∧
    (sDrain.strand x0).base + roundUp (sDrain.rotation x0) (Nat.max 0 ((sDrain.strand x0).vcAt sDrain.clock.cc)) ≤ sDrain.clock.cc ∧
    (sAllOut.job 1).markers.contains .dispatcher = true ∧ sAllOut.markerReady 1 .dispatcher = true ∧
    (∀ y ∈ sAllOut.tasksOf 1, (sAllOut.strand y).run ≠ .running) ∧ (sAllOut.job 1).markers = [.dispatcher] ∧
    (sMoved.core 1).forward ≠ none ∧ (∃ y ∈ sMoved.allStrands, ∃ p, (sMoved.strand y).park = some p ∧ p.on = .migrate 1 2) ∧
    (sMove.core 1).forward = none ∧ (∃ y ∈ sMove.allStrands, ∃ p, (sMove.strand y).park = some p ∧ p.on = .migrate 1 2) ∧
    ((withStrand s0 fun st => { st with run := .halted }).strand x0).run = .halted ∧ (sAsked.strand x0).stopAsked = true ∧
    (sAsked.strand x0).standing = true := by
  and_intros <;> decide +kernel

/-- A table of the last level that maps page 0. -/
def sTable : State :=
  (s0.setNat 0x40000 8 0xC0000000000200F0).modMem fun m => { m with tlb := [⟨none, 0, 1, 0, 2 ^ 24, 0x8000000000040000⟩] }
def sWindow : State := { s0 with fw := { s0.fw with windows := [⟨0, Config.hbmEnd - 1, true⟩] } }

theorem witness_MemoryAgentSteps : (∀ y ∈ s0.allStrands, (s0.strand y).lates = []) ∧ (∀ y ∈ sTable.allStrands, (sTable.strand y).lates = []) ∧
    sWindow.mapLocked 0x20000 8 = false ∧ sWindow.storeLocked 0x20000 8 = false ∧ (∀ b ∈ sWindow.sectorMarks 0x20000 8, b = false) ∧
    sWindow.natAt 0x20000 8 ≠ (1 : Word).toNat % 2 ^ (8 * 8) ∧ s0.heldLeaf 0 1 0 = none ∧
    ((s0.install (.l1 0) 1024 .normal).mem.cached (.l1 0) (4096 / 4)).isSome = true ∧ s0.walkHeld 0 1 0 = none ∧ sTable.heldLeaf 0 1 0 = none ∧
    (sTable.walkHeld 0 1 0).isSome = true ∧ sTable.walkHeld 0 1 0 ≠ some [] ∧ sWindow.fw.recovery = false ∧
    (Config.hbmEnd - 1) / 128 * 128 + 128 ≤ Config.hbmEnd ∧ sWindow.inHostWindow ((Config.hbmEnd - 1) / 128 * 128) 128 = true ∧
    sWindow.loadLocked ((Config.hbmEnd - 1) / 128 * 128) 128 = false ∧ [(1 : Byte)] ≠ [] ∧ Config.hbmEnd - 1 + 1 ≤ Config.hbmEnd ∧
    sWindow.inHostWindow (Config.hbmEnd - 1) 1 = true ∧ sWindow.mapLocked (Config.hbmEnd - 1) 1 = false ∧
    sWindow.storeLocked (Config.hbmEnd - 1) 1 = false ∧ s0.inHostWindow 0 1 = false ∧ isHost ((Config.hostEnd / 128 - 1) * 128) = true ∧
    isMemory (0 * 32) = true ∧ coreIdOk 0 = true ∧ 8191 < 8192 ∧ devMask 0x3000009000018 = some 0xFFFFFFFF := by
  and_intros <;> decide +kernel

/-- Die 0's ring at 0x20000 holds one step, a SEND of nothing, for job 1. -/
def ringAt (v : Nat) (posted : Nat) : State :=
  (s0.setNat 0x20000 64 v).modMem fun m => { m with dev := [(colReg 0, 0x20000 + 2 ^ 56), (colReg 0 + 8, BitVec.ofNat 64 posted)] }
def stepRec (op : Nat) : Nat := 2 ^ 176 + op * 2 ^ 208
def busyAt (op wdog t : Nat) : State := { (s0.tick 100) with coll := [(0, ⟨some (rec (stepRec op + wdog * 2 ^ 448), t)⟩)] }

theorem witness_CollectiveSteps : (ringAt (stepRec 0) 2).colPosted 0 ≤ 2 ^ (ringAt (stepRec 0) 2).colLog2 0 ∧
    2 ^ (ringAt (stepRec 0) 3).colLog2 0 < (ringAt (stepRec 0) 3).colPosted 0 ∧
    (Tab.get Collective.idle (ringAt (stepRec 0) 1).coll 0).running = none ∧ (ringAt (stepRec 0) 1).colErr 0 = false ∧
    (ringAt (stepRec 0) 1).colPosted 0 ≠ 0 ∧ ((ringAt (stepRec 0) 1).job (stepJob ((ringAt (stepRec 0) 1).colStep 0))).run = .running ∧
    stepRecordBad ((ringAt (stepRec 0) 1).colStep 0) = false ∧
    ((ringAt (stepRec 0) 1).sectorMarks ((ringAt (stepRec 0) 1).colStepAt 0) 64).any id = false ∧
    (((ringAt (stepRec 0) 1).setBad 0x20020 true).sectorMarks ((ringAt (stepRec 0) 1).colStepAt 0) 64).any id = true ∧ stepRecordBad ((ringAt (stepRec 6) 1).colStep 0) = true ∧
    (Tab.get Collective.idle (busyAt 0 1 0).coll 0).running = some (rec (stepRec 0 + 2 ^ 448), 0) ∧
    ((busyAt 0 1 0).colRun 0 (rec (stepRec 0)) [] false).isLeft = true ∧ (busyAt 1 1 0).colRun 0 (rec (stepRec 1)) [1] false matches .inr 3 ∧
    stepWdog (rec (stepRec 0 + 2 ^ 448)) ≠ 0 ∧ 0 + stepWdog (rec (stepRec 0 + 2 ^ 448)) ≤ (busyAt 0 1 0).clock.ns := by
  and_intros <;> decide +kernel

def sSample : State := s0.modMem fun m => { m with dev := [(madReg 0, 0x8000000100000001)] }
/-- An image that is accepted, one that is not, and a boot with a runtime image and one strand to start. -/
def goodImage : Image := ⟨[1], true, Config.minVersion⟩
def badImage : Image := ⟨[1], false, 0⟩
def boot1 : Boot := ⟨0x1000, some goodImage, 0x20000, [], [(⟨0, 6⟩, 0x20000)]⟩
theorem witness_DeviceSteps : sSample.sampling x0 = some 1 ∧ sSample.sampleCc x0 1 = sSample.clock.cc ∧ s0.fw.flash = none ∧
    State.reset.fw.measured = none ∧
    (goodImage.signed = true ∧ Config.minVersion ≤ goodImage.version) ∧ ¬(badImage.signed = true ∧ Config.minVersion ≤ badImage.version) ∧
    boot1.runtime = some goodImage ∧ boot1.starts = [(⟨0, 6⟩, 0x20000)] ∧ coreIdOk 0 = true ∧ (6 : Nat) < 7 ∧ boot1.regs = [] ∧
    ({ s0 with fw := { s0.fw with recovery := true } } : State).fw.recovery = true ∧ s0.fw.recovery = false := by
  and_intros <;> first | exact Nat.le_refl _ | exact rfl | exact fun h => Bool.noConfusion h.1

/-! ### Words, steps and the whole machine -/

theorem witness_ChecksInOrder : Issuing s0 (tOf s0) (cOf s0) ∧ badHint {} [gD (63 : RField)] ((tOf s0).strand x0).group = none ∧
    beyondPartition ((tOf s0).core 0).part (cOf s0).h [gD (63 : RField)] = some 63 ∧
    beyondPartition ((tOf s0).core 0).part (cOf s0).h [gA g31] = none ∧ (cOf s0).regs.csr.status.priv = false ∧
    ((tOf s0).core 0).part.gregs ≤ (cOf s0).h.x (gD (63 : RField)) ∧
    (badHint {} [] ((tOf (withStrand s0 fun st => { st with group := [0xFC000000] })).strand x0).group).isSome = true ∧
    (decodeTrap {} [gA g31] true (tOf s0) (cOf s0)).isSome = true := by
  and_intros <;> first | exact issuing_s0 | decide +kernel

def fetchesWord (s : State) : Bool := match ((s.atFetch x0).fetch x0).2 with | .inl w => w == 0 | _ => false
def sFar : State := withStrand s0 fun st => { st with pc := 0x10000 }
def sCode : State := withLeaf sFar 0x20000
theorem witness_StepRunsTheDecodedInstruction : (s0.pick.map (·.2)) = some (.issue x0) ∧ fetchesWord s0 = true ∧
    (s0.atFetch x0).fetchLate x0 = 0 ∧ ({ sCode with choices := [0, 3] }.atFetch x0).fetchLate x0 = 2 + 1 ∧
    ((((s0.placeWord (Config.scratchLoc 0 0) 0x100).atFetch x0).fetch x0).2 matches .inl 0x100) ∧ decode 0x100 = none ∧ isHintWord 0x100 = false ∧
    isHintWord 0xFFFFFFFF = true ∧ (((sFar.atFetch x0).fetch x0).2 matches .inr _) ∧
    ((s0.post 0 (.dealUnit 1 1)).pick.map (·.2)) = some (.agenda 0 (.dealUnit 1 1)) ∧ (sDue.pick.map (·.2)) = some (.duty (.landing x0)) ∧
    State.reset.pick = none := by
  and_intros <;> decide +kernel

theorem witness_DecodingInvertsEncoding : (Instr.add 63 63 63).wf = true ∧ (Instr.add 63 63 63).fields ≠ none ∧
    decode 0xBFFFFFFF = none ∧ (decode 0x00FFF01F).isSome = false ∧ (decode 0x00514201).isSome = true := by
  decide +kernel

theorem inv_s0 (s : State) (h : Memory.wf s.mem.cells = true) : s.Inv := h
theorem witness_StepsKeepMemoryCanonical : State.reset.Inv ∧ (s0.setNat 0x20000 4 0xFF00FF).Inv ∧ (step s0 matches .next _) := by
  and_intros <;> first | exact inv_s0 _ (by decide +kernel) | decide +kernel

theorem witness_TrapsEnterAndReturn : (∀ e ∈ (s0.core x0.core).strands, e.2.regs.csr.svecIn = none ∧ e.2.pending = []) ∧
    (s0.strand x0).regs.csr.status.inh = false ∧ ((sInSuper.strand x0).regs.csr.status.inh = true) ∧
    (sInSuper.strand x0).regs.csr.status.priv = true ∧ (cOf s0).sid = x0 ∧ (s0.strand x0).inflight = [] ∧
    ((withJob s0 fun j => { j with tmask := 0x1000, tvec := 8 }).job 1).tmask.getLsbD Cause.timing.code = true := by
  and_intros <;> decide +kernel

theorem witness_MemoryReadsBackWhatIsWritten : s0.Inv ∧ Config.hostEnd - 8 + 8 ≤ Config.hostEnd ∧ s0.mem.allocatorOf (Config.hostEnd - 1) = none ∧
    (∀ e ∈ (s0.install (.l1 0) 1024 .normal).mem.cache, Tab.risesFrom 0 e.bad = true ∧ (e.untracked = true → placeLevel e.place = 0)) ∧
    0x3FFF8 + 8 ≤ 0x40000 ∧ Tab.wf 0 (s0.core 0).scratch = true ∧ Tab.risesFrom 0 s0.mem.bad = true ∧
    Tab.risesFrom 0 (s0.core 0).scratchBad = true := by
  and_intros <;> first | exact inv_s0 _ (by decide +kernel) | decide +kernel

theorem calm_s0 : Calm s0 x0 := ⟨by decide +kernel, by decide +kernel⟩
/-- The word runs, no trap is taken, and the strand still runs. -/
def runs (s : State) (i : Instr) : Bool :=
  match exec i s with
  | .next u => (u.strand x0).run == .running && (u.strand x0).traps == (s.strand x0).traps
  | _ => false
theorem witness_RegisterInstructionsChangeNothingElse : Issuing s0 (tOf s0) (cOf s0) ∧ Calm s0 x0 ∧
    (((s0.strand x0).landTo (cOf s0).vc).regs.csr.svecIn = none) ∧ runs s0 (.add 5 6 7) = true ∧
    linkPort v15 = none ∧ linkPort (59 : RField) = none ∧ runs s0 (.vadd 15 3 2 .s8) = true ∧ runs s0 (.vadd 15 3 2 .f) = true ∧
    runs s0 (.vcvt 15 3 .h .f) = true ∧ runs s0 (.vsplat 15 31 .s8) = true ∧ runs s0 (.vext 31 3 15 .s8) = true ∧
    runs s0 (.vcmp .eq 1 3 2 .f) = true ∧
    runs s0 (.pnot 1 2) = true ∧ runs s0 (.br 0x3FFFFF) = true ∧ runs s0 (.call 1) = true ∧ runs s0 (.vins 5 6 15 .s8) = true := by
  and_intros <;> first | exact issuing_s0 | exact calm_s0 | decide +kernel

theorem witness_StoresChangeOnlyTheirBytes : Issuing sWin (tOf sWin) (cOf sWin) ∧ Calm sWin x0 ∧
    (((sWin.strand x0).landTo (cOf sWin).vc).regs.csr.svecIn = none) ∧ (∀ e ∈ sWin.mem.cache, NSet.has e.dirty 0 = false) ∧
    (tOf sWin).resolve x0 win 0 { Need.write with dev := true } = .at_ lWin none ∧
    (tOf sWin).resolve x0 win 0 Need.write = .at_ lWin none ∧ runs sWin (.stB64 5 31 0 0) = true ∧ runs sWin (.stnHi 5 31 0) = true := by
  and_intros <;> first | exact issuing_of (by decide +kernel) (by decide +kernel) |
    exact ⟨by decide +kernel, by decide +kernel⟩ | decide +kernel

/-! ## Words written out from the encoding tables of R89 and R98 to R117 -/

/-- Each word decodes to the instruction beside it. -/
def decodes (ws : List (IWord × Instr)) : Bool := ws.all fun e => decide (decode e.1 = some e.2)

/-- R109: fn 0x00 to 0x1A. -/
theorem test_decode_scalar_two_operand : decodes [
    (0b000000_000000_000000_000000_00000000, .nop),
    (0b000000_000101_010100_100010_00000001, .add 5 20 34),
    (0b000000_000101_010100_100010_00000010, .sub 5 20 34),
    (0b000000_000101_010100_100010_00000011, .mul 5 20 34),
    (0b000000_000101_010100_100010_00000100, .mulhs 5 20 34),
    (0b000000_000101_010100_100010_00000101, .mulhz 5 20 34),
    (0b000000_000101_010100_100010_00000110, .div 5 20 34),
    (0b000000_000101_010100_100010_00000111, .divz 5 20 34),
    (0b000000_000101_010100_100010_00001000, .rem 5 20 34),
    (0b000000_000101_010100_100010_00001001, .remz 5 20 34),
    (0b000000_000101_010100_100010_00001010, .and 5 20 34),
    (0b000000_000101_010100_100010_00001011, .or 5 20 34),
    (0b000000_000101_010100_100010_00001100, .xor 5 20 34),
    (0b000000_000101_010100_100010_00001101, .andn 5 20 34),
    (0b000000_000101_010100_100010_00001110, .orn 5 20 34),
    (0b000000_000101_010100_100010_00001111, .shl 5 20 34),
    (0b000000_000101_010100_100010_00010000, .shr 5 20 34),
    (0b000000_000101_010100_100010_00010001, .sar 5 20 34),
    (0b000000_000101_010100_100010_00010010, .rol 5 20 34),
    (0b000000_000101_010100_100010_00010011, .ror 5 20 34),
    (0b000000_000101_010100_100010_00010100, .min 5 20 34),
    (0b000000_000101_010100_100010_00010101, .max 5 20 34),
    (0b000000_000101_010100_100010_00010110, .minz 5 20 34),
    (0b000000_000101_010100_100010_00010111, .maxz 5 20 34),
    (0b000000_000101_010100_100010_00011000, .slt 5 20 34),
    (0b000000_000101_010100_100010_00011001, .sltz 5 20 34),
    (0b000000_000101_010100_100010_00011010, .seq 5 20 34)] = true := by decide

/-- R109: fn 0x20 to 0x5E. -/
theorem test_decode_one_operand_and_predicates : decodes [
    (0b000000_000101_010100_000000_00100000, .clz 5 20),
    (0b000000_000101_010100_000000_00100001, .ctz 5 20),
    (0b000000_000101_010100_000000_00100010, .popc 5 20),
    (0b000000_000101_010100_000000_00100011, .bswp 5 20),
    (0b000000_000101_010100_000000_00100100, .sxtS8 5 20),
    (0b000000_000101_010100_000000_00100101, .sxtS16 5 20),
    (0b000000_000101_010100_000000_00100110, .sxtS32 5 20),
    (0b000000_000101_010100_000000_00101000, .zxtB8 5 20),
    (0b000000_000101_010100_000000_00101001, .zxtB16 5 20),
    (0b000000_000101_010100_000000_00101010, .zxtB32 5 20),
    (0b000000_000101_010100_100010_01000011, .csel 5 20 34 3),
    (0b000000_000010_000011_000100_01010000, .pand 2 3 4),
    (0b000000_000010_000011_000100_01010001, .por 2 3 4),
    (0b000000_000010_000011_000100_01010010, .pxor 2 3 4),
    (0b000000_000010_000011_000000_01010011, .pnot 2 3),
    (0b000000_000101_000011_000000_01010100, .movpGP 5 3),
    (0b000000_000010_010100_000000_01010101, .movpPG 2 20),
    (0b000000_000010_010100_100010_01011000, .pcmpEq 2 20 34),
    (0b000000_000010_010100_100010_01011001, .pcmpNe 2 20 34),
    (0b000000_000010_010100_100010_01011010, .pcmpLt 2 20 34),
    (0b000000_000010_010100_100010_01011011, .pcmpGe 2 20 34),
    (0b000000_000010_010100_100010_01011100, .pcmpLtu 2 20 34),
    (0b000000_000010_010100_100010_01011101, .pcmpGeu 2 20 34),
    (0b000000_000010_010100_100010_01011110, .pcmpTst 2 20 34)] = true := by decide

/-- R110. -/
theorem test_decode_immediates : decodes [
    (0b000001_000101_010100_11111111111110, .addi 5 20 0x3FFE),
    (0b000010_000101_000000_11111111111110, .movi 5 0x3FFE),
    (0b000011_000101_000000_00000000001000, .lea 5 8),
    (0b000100_000101_010100_00111110000001, .bfx 5 20 62 1),
    (0b000100_000101_010100_01000111001001, .bfxS 5 20 7 9),
    (0b000101_000101_010100_00000111001001, .bfi 5 20 7 9),
    (0b000110_000101_000000_11111111111101, .loop 5 0x3FFD),
    (0b000111_000101_000000_00000000001000, .csrr 5 8),
    (0b000111_000000_010100_01000000100100, .csrw 20 0x024),
    (0b000111_000000_010100_10000000010110, .csrs 20 0x016),
    (0b000111_000000_010100_11000000010110, .csrc 20 0x016)] = true := by decide

/-- R111: the M majors. -/
theorem test_decode_loads_and_stores : decodes [
    (0b001000_000101_010100_110_11111111111, .ldB8 5 20 6 0x7FF),
    (0b001001_000101_010100_110_11111111111, .ldB16 5 20 6 0x7FF),
    (0b001010_000101_010100_110_11111111111, .ldB32 5 20 6 0x7FF),
    (0b001011_000101_010100_110_11111111111, .ldB64 5 20 6 0x7FF),
    (0b001100_000101_010100_110_11111111111, .ldS8 5 20 6 0x7FF),
    (0b001101_000101_010100_110_11111111111, .ldS16 5 20 6 0x7FF),
    (0b001110_000101_010100_110_11111111111, .ldS32 5 20 6 0x7FF),
    (0b001111_010010_010100_110_00000000011, .ldpr 9 20 6 3),
    (0b010000_000101_010100_110_11111111111, .stB8 5 20 6 0x7FF),
    (0b010001_000101_010100_110_11111111111, .stB16 5 20 6 0x7FF),
    (0b010010_000101_010100_110_11111111111, .stB32 5 20 6 0x7FF),
    (0b010011_000101_010100_110_11111111111, .stB64 5 20 6 0x7FF),
    (0b010100_000101_010100_110_11111111111, .ldv 5 20 6 0x7FF),
    (0b010101_000101_010100_110_11111111111, .stv 5 20 6 0x7FF),
    (0b010110_000101_010100_110_11111111111, .ldf 5 20 6 0x7FF),
    (0b010111_000101_010100_110_11111111111, .stf 5 20 6 0x7FF),
    (0b011000_000101_010100_110_11111111111, .ldfp 5 20 6 0x7FF)] = true := by decide

/-- R111: major 0x19. -/
theorem test_decode_memory_control : decodes [
    (0b011001_000101_010100_000110_00000000, .stnLo 5 20 6),
    (0b011001_000101_010100_000110_00000001, .stnHi 5 20 6),
    (0b011001_000000_010100_000110_00000010, .femarkE 20 6),
    (0b011001_000000_010100_000110_00000011, .femarkF 20 6),
    (0b011001_000000_010100_000110_00000100, .pref 20 6),
    (0b011001_000101_010100_000110_00000101, .flush 5 20 6),
    (0b011001_000101_010100_000110_00000110, .inval 5 20 6),
    (0b011001_000101_010100_000110_00000111, .fill 5 20 6)] = true := by decide

/-- R112. -/
theorem test_decode_atomics : decodes [
    (0b011010_000101_010100_100010_11000000, .aadd 5 20 34 6 false),
    (0b011010_000101_010100_100010_11010001, .aand 5 20 34 6 true),
    (0b011010_000101_010100_100010_11000010, .aor 5 20 34 6 false),
    (0b011010_000101_010100_100010_11010011, .axor 5 20 34 6 true),
    (0b011010_000101_010100_100010_11000100, .amin 5 20 34 6 false),
    (0b011010_000101_010100_100010_11010101, .amax 5 20 34 6 true),
    (0b011010_000101_010100_100010_11000110, .aminz 5 20 34 6 false),
    (0b011010_000101_010100_100010_11010111, .amaxz 5 20 34 6 true),
    (0b011010_000101_010100_100010_11001000, .axchg 5 20 34 6 false),
    (0b011010_000101_010100_100010_11011001, .acas 5 20 34 6 true),
    (0b011010_000101_010100_100010_11001010, .afadd 5 20 34 6 false),
    (0b011010_000001_000000_000000_00001111, .fence .acquire .strand),
    (0b011010_000100_000101_000000_00001111, .fence .sync .system)] = true := by decide

/-- R113: majors 0x1B and 0x1C. -/
theorem test_decode_woad_and_streams : decodes [
    (0b011011_000000_000000_010111_00000000, .warv 23),
    (0b011011_000000_000000_010111_00000001, .wwait 23),
    (0b011011_000000_000000_010111_00000010, .wbar 23),
    (0b011011_000000_010100_010111_00000011, .wsend 20 23),
    (0b011011_000101_000000_010111_00000100, .wrecv 5 23),
    (0b011011_000101_010100_010111_00000101, .wredAdd 5 20 23),
    (0b011011_000101_010100_010111_00000110, .wredMin 5 20 23),
    (0b011011_000101_010100_010111_00000111, .wredMax 5 20 23),
    (0b011011_000101_010100_010111_00001000, .wredOr 5 20 23),
    (0b011100_000000_010100_000000_00000000, .sopen 20),
    (0b011100_000000_010100_000000_00000001, .ssend 20),
    (0b011100_000101_000000_000000_00000010, .srecv 5),
    (0b011100_000011_000000_000000_00000011, .spoll 3),
    (0b011100_000000_000000_000000_00000100, .sclose)] = true := by decide

/-- R113: major 0x1D; an even d (R219). -/
theorem test_decode_copies_and_messages : decodes [
    (0b011101_000000_010100_100010_00000000, .cpy 20 34),
    (0b011101_000000_010100_100010_00000001, .cpym 20 34),
    (0b011101_000101_010100_100010_00000010, .cpyx 5 20 34),
    (0b011101_000101_010100_100010_00000011, .gath 5 20 34),
    (0b011101_000101_010100_100010_00000100, .scat 5 20 34),
    (0b011101_000000_010100_100010_00000101, .barinit 20 34),
    (0b011101_000000_010100_100010_00000110, .baradd 20 34),
    (0b011101_000000_010100_000001_00000111, .waitph 20 true),
    (0b011101_000000_010100_100010_00001000, .msgsend 20 34),
    (0b011101_010010_000000_000000_00001001, .msgrecv 9),
    (0b011101_000000_000000_000000_00001010, .waitmsg)] = true := by decide

/-- R114: major 0x1E; VSAT's target type stands in b. The model's order of VSAT's types is (target, source). -/
theorem test_decode_vector_group_a : decodes [
    (0b011110_000101_010100_100010_00000100, .vadd 5 20 34 .s8),
    (0b011110_000101_010100_100010_00010101, .vsub 5 20 34 .s16),
    (0b011110_000101_010100_100010_00100110, .vmul 5 20 34 .s32),
    (0b011110_000101_010100_100010_00110111, .vmulh 5 20 34 .s64),
    (0b011110_000101_010100_100010_01001000, .vfma 5 20 34 .h),
    (0b011110_000101_010100_100010_01011001, .vfms 5 20 34 .bf),
    (0b011110_000101_010100_100010_01101010, .vfnma 5 20 34 .f),
    (0b011110_000101_010100_100010_01111011, .vdiv 5 20 34 .d),
    (0b011110_000101_010100_100010_10000000, .vmin 5 20 34 .b8),
    (0b011110_000101_010100_100010_10010001, .vmax 5 20 34 .b16),
    (0b011110_000101_010100_000000_10101010, .vabs 5 20 .f),
    (0b011110_000101_010100_000000_10111011, .vneg 5 20 .d),
    (0b011110_000101_010100_000000_11010010, .vclz 5 20 .b32),
    (0b011110_000101_010100_000000_11100011, .vpopc 5 20 .b64),
    (0b011110_000101_010100_000100_11000110, .vsat 5 20 .s8 .s32)] = true := by decide

/-- R114: major 0x1F. -/
theorem test_decode_vector_group_b : decodes [
    (0b011111_000101_010100_100010_00000000, .vand 5 20 34 .b8),
    (0b011111_000101_010100_100010_00010001, .vor 5 20 34 .b16),
    (0b011111_000101_010100_100010_00100010, .vxor 5 20 34 .b32),
    (0b011111_000101_010100_100010_00110011, .vandn 5 20 34 .b64),
    (0b011111_000101_010100_100010_01000100, .vshl 5 20 34 .s8),
    (0b011111_000101_010100_100010_01010101, .vshr 5 20 34 .s16),
    (0b011111_000101_010100_100010_01100110, .vsar 5 20 34 .s32),
    (0b011111_000101_010100_100010_01110011, .vsel 5 20 34 3),
    (0b011111_000101_010100_100010_10000100, .vdot4 5 20 34 .s8),
    (0b011111_000101_010100_100010_10011001, .vdot2 5 20 34 .bf),
    (0b011111_000101_010100_100010_10101010, .vshuf 5 20 34 .f),
    (0b011111_000101_010100_100010_10110000, .vperm 5 20 34 .b8),
    (0b011111_000101_010100_000000_11001010, .vredadd 5 20 .f),
    (0b011111_000101_010100_000000_11010101, .vredmin 5 20 .s16),
    (0b011111_000101_010100_000000_11101011, .vredmax 5 20 .d),
    (0b011111_000101_010100_100010_11110010, .vrng 5 20 34)] = true := by decide

/-- R114: majors 0x20 and 0x21. -/
theorem test_decode_conversions_and_group_d : decodes [
    (0b100000_000101_010100_000000_11001010, .vcvt 5 20 .e4 .f),
    (0b100001_000101_010100_000000_00001000, .vsplat 5 20 .h),
    (0b100001_000101_010100_001111_00010100, .vext 5 20 15 .s8),
    (0b100001_000101_010100_000001_00101011, .vins 5 20 1 .d),
    (0b100001_000101_010100_000000_00110010, .vmov 5 20 .b32),
    (0b100001_100010_010100_100010_01000101, .vcmp .gt 2 20 34 .s16),
    (0b100001_110010_010100_100010_01001010, .vcmp .un 2 20 34 .f)] = true := by decide

/-- R115: major 0x22. -/
theorem test_decode_special_functions : decodes [
    (0b100010_000101_010100_000000_00001000, .sfexp2 5 20 .h),
    (0b100010_000101_010100_000000_00011001, .sflog2 5 20 .bf),
    (0b100010_000101_010100_000000_00101010, .sfrcp 5 20 .f),
    (0b100010_000101_010100_000000_00111011, .sfrsq 5 20 .d),
    (0b100010_000101_010100_000000_01001000, .sfsqrt 5 20 .h),
    (0b100010_000101_010100_000000_01011001, .sfsin 5 20 .bf),
    (0b100010_000101_010100_000000_01101010, .sfcos 5 20 .f),
    (0b100010_000101_010100_000000_01111011, .sftanh 5 20 .d),
    (0b100010_000101_010100_000000_10001000, .sfsigm 5 20 .h),
    (0b100010_000101_010100_000000_10011001, .sferf 5 20 .bf)] = true := by decide

/-- R115: major 0x23. -/
theorem test_decode_matrix : decodes [
    (0b100011_001010_000100_001001_00000001, .mprecShort 10 4 9 1),
    (0b100011_000000_010100_000000_00010001, .mprecImage 20 1),
    (0b100011_000101_000000_000000_00100001, .mrdp 5 1),
    (0b100011_000101_010100_100010_00110001, .mma 5 20 34 1),
    (0b100011_000101_010100_100010_01000000, .mmas 5 20 34 0),
    (0b100011_000000_000000_000000_01010001, .mzero 1),
    (0b100011_000101_010100_001010_01100011, .mrdacc 5 20 10 true 1),
    (0b100011_000101_010100_001011_01100000, .mrdacc 5 20 11 false 0),
    (0b100011_000101_010100_000000_01110001, .mwracc 5 20 1)] = true := by decide

/-- R116. -/
theorem test_decode_maps : decodes [
    (0b100100_010010_010100_100010_00011110, .mapprb 9 20 34 3 6),
    (0b100100_010010_010100_100010_01011110, .mapins 9 20 34 3 6),
    (0b100100_010010_010100_100010_10011110, .mapups 9 20 34 3 6),
    (0b100100_010010_010100_100010_11011110, .mapdel 9 20 34 3 6),
    (0b100101_010010_010100_100010_00011110, .mapadd 9 20 34 3 6),
    (0b100101_010010_010100_100010_01011110, .mapcas 9 20 34 3 6),
    (0b100110_000000_010100_100010_00000110, .mapnew 20 34 6),
    (0b100110_000101_010100_100010_00010110, .mapgetn 5 20 34 6),
    (0b100110_000101_010100_100010_00100110, .mapscan 5 20 34 6),
    (0b100110_000000_010100_000000_00110110, .mapstl 20 6),
    (0b100110_000000_010100_000000_01000110, .mapclr 20 6),
    (0b100110_000101_010100_000000_01010110, .mapinfo 5 20 6)] = true := by decide

/-- R89. -/
theorem test_decode_work : decodes [
    (0b101100_000010_010100_000000_00000000, .tspawn 2 20),
    (0b101100_000010_010100_000000_00000001, .tyield 2 20),
    (0b101100_000010_010100_000000_00000010, .launch 2 20),
    (0b101100_000101_010100_000000_00000011, .cntrd 5 20),
    (0b101100_000000_010100_000000_00000100, .cntwait 20),
    (0b101100_000000_010100_000000_00000101, .cancelDrain 20),
    (0b101100_000000_010100_000000_00000110, .cancelKill 20),
    (0b101100_000000_000000_000001_00000111, .repart .p8),
    (0b101100_000000_000000_000010_00000111, .repart .p4),
    (0b101100_000000_000000_000011_00000111, .repart .p2)] = true := by decide

/-- R117. -/
theorem test_decode_control_and_system : decodes [
    (0b101101_000000_010100_000000_00000000, .brr 20),
    (0b101101_000000_010100_000000_00000001, .callr 20),
    (0b101101_000000_000000_000000_00000010, .ret),
    (0b101101_000000_000000_000000_00000011, .tend),
    (0b101110_000000_111111_000001_00000000, .trap 0xFC1),
    (0b101110_000000_111111_000001_00000111, .brk 0xFC1),
    (0b101110_000000_000000_000000_00000001, .eret),
    (0b101110_000000_010100_000000_00000010, .quiesce 20),
    (0b101110_000000_010100_100010_00000011, .migrate 20 34),
    (0b101110_000000_010100_100010_00000100, .tlbinv 20 34),
    (0b101110_000101_000000_000000_00000101, .rdtime 5),
    (0b101110_000101_010100_000000_00000110, .rdperf 5 20),
    (0b110000_0011_1111111111111111111100, .brp 3 0x3FFFFC),
    (0b110000_1011_1111111111111111111100, .brpN 3 0x3FFFFC),
    (0b110000_0000_1111111111111111111100, .br 0x3FFFFC),
    (0b110000_1000_0000000000000000000001, .brpN 0 1),
    (0b110001_0000_1111111111111111111100, .call 0x3FFFFC)] = true := by decide

/-- R104. -/
theorem test_decode_hints : decodes [
    (0b111111_0000_1010101010101010101010, .himm 0x2AAAAA),
    (0b111111_0001_0000001111111111111111, .hdly 0xFFFF),
    (0b111111_0010_0000000000000000000100, .hxreg true false false),
    (0b111111_0010_0000000000000000000011, .hxreg false true true),
    (0b111111_0011_1010101010101010101010, .hstart 0x2AAAAA),
    (0b111111_0100_0000001000000000000001, .hseq 0x8001),
    (0b111111_0101_0000000001000000000001, .hpol 0x1001),
    (0b111111_0110_0000000000000000000100, .hscope .package),
    (0b111111_0111_0000000000000000000100, .hrnd 4)] = true := by decide

/-- Words that R107 refuses: reserved major opcodes, function codes that no map lists, fields that must be 0, and reserved
codes of R89, R104 and R109 to R117. -/
theorem test_decode_refuses : [
    (0b100111_000000_000000_000000_00000000 : IWord),
    (0b101111_000000_000000_000000_00000000 : IWord),
    (0b110010_0000_0000000000000000000000 : IWord),
    (0b000000_000101_010100_100010_00011011 : IWord),
    (0b000000_000000_000001_000000_00000000 : IWord),
    (0b000000_000101_010100_000001_00100000 : IWord),
    (0b000000_001000_000011_000100_01010000 : IWord),
    (0b000100_000101_010100_00111111000001 : IWord),
    (0b000111_000101_000000_00000000110111 : IWord),
    (0b000011_000101_000001_00000000001000 : IWord),
    (0b001111_000101_010100_000_00000000000 : IWord),
    (0b011001_000101_010100_000000_00000010 : IWord),
    (0b011001_000101_010100_001000_00000101 : IWord),
    (0b011010_000101_010100_100010_00001011 : IWord),
    (0b011010_000000_000000_000000_00001111 : IWord),
    (0b011010_000001_000110_000000_00001111 : IWord),
    (0b011011_000000_000000_011000_00000000 : IWord),
    (0b011100_000000_000000_000000_00000101 : IWord),
    (0b011101_000000_010100_000010_00000111 : IWord),
    (0b011101_000101_000000_000000_00001001 : IWord),
    (0b011110_000101_010100_100010_00001100 : IWord),
    (0b011110_000101_010100_100010_00111010 : IWord),
    (0b011110_000101_010100_000000_11011010 : IWord),
    (0b011110_000101_010100_100010_11110000 : IWord),
    (0b011111_000101_010100_100010_01111000 : IWord),
    (0b011111_000101_010100_100010_10000101 : IWord),
    (0b100000_000101_010100_000000_01100110 : IWord),
    (0b100000_000101_010100_000000_11100110 : IWord),
    (0b100001_000101_010100_010000_00010100 : IWord),
    (0b100001_111000_010100_100010_01001010 : IWord),
    (0b100001_110000_010100_100010_01000100 : IWord),
    (0b100010_000101_010100_000000_10101010 : IWord),
    (0b100010_000101_010100_000000_00001100 : IWord),
    (0b100011_000000_000000_000000_01010010 : IWord),
    (0b100011_000000_000000_000000_10000000 : IWord),
    (0b100100_000101_010100_100010_00000000 : IWord),
    (0b100101_010010_010100_100010_10000000 : IWord),
    (0b100110_000000_010100_100010_00001000 : IWord),
    (0b101100_000000_010100_000000_00001000 : IWord),
    (0b101100_000000_000000_000000_00000111 : IWord),
    (0b101100_000000_000000_000100_00000111 : IWord),
    (0b101101_000000_000000_000000_00000100 : IWord),
    (0b101110_000000_000000_000000_00001000 : IWord),
    (0b101110_000001_000000_000000_00000000 : IWord),
    (0b110001_0001_0000000000000000000000 : IWord),
    (0b111111_1000_0000000000000000000000 : IWord),
    (0b111111_0001_0000010000000000000000 : IWord),
    (0b111111_0010_0000000000000000001000 : IWord),
    (0b111111_0110_0000000000000000000110 : IWord),
    (0b111111_0111_0000000000000000000101 : IWord)].all (fun w => decide (decode w = none)) = true := by decide

/-! ## Ill-formed terms -/

/-- One ill-formed instruction word for each check on register fields, types, numbers and codes. -/
theorem test_wf_words : ([.bfx 1 2 63 1, .bfxS 1 2 32 32, .bfi 1 2 1 63, .loop 0 1, .csrr 1 0x037, .csrw 1 0x017, .csrs 1 0x01A, .csrc 1 0xFFF, .ldv 60 1 0 0,
    .stv 63 1 0 0, .fence .relaxed .die, .warv 24, .wwait 31, .wbar 24, .wsend 1 24, .wrecv 1 24, .wredAdd 1 2 24, .wredMin 1 2 25,
    .wredMax 1 2 26, .wredOr 1 2 27, .ssend 61, .srecv 62, .vadd 1 2 3 .e4, .vfma 60 1 2 .f, .vfms 1 1 2 .q4, .vmulh 1 2 3 .f, .vabs 1 2 .e5,
    .vsplat 1 2 .q4, .vclz 1 2 .h, .vpopc 1 2 .d, .vsat 1 2 .s64 .s32, .vsat 1 2 .s8 .f, .vand 1 2 3 .f, .vdot4 1 2 3 .s16, .vdot4 60 2 3 .s8,
    .vdot2 1 2 3 .s8, .vdot2 60 2 3 .h, .vshuf 1 2 3 .e4, .vcvt 1 2 .f .f, .vcvt 1 2 .q4 .f, .vcvt 1 2 .f .q4, .vext 1 2 16 .s8, .vext 1 2 2 .d,
    .vins 60 2 0 .s8, .vins 1 2 8 .s16, .vcmp .un 1 2 3 .s32, .vcmp .eq 1 2 3 .e4, .sfexp2 1 2 .s32, .sferf 1 2 .e4, .brp 0 1, .hrnd 5] :
    List Instr).all (fun i => !i.wf) = true := by decide

/-- One ill-formed step for each check on what it names. -/
theorem test_wf_steps : ([.launchRecord 131072 true 0, .counterRecord 131072 true 0, .qcfgWrite 131072 0, .dispatcherTake (some 131072),
    .phaseAgentArrival 1 8, .pop ⟨24, 0⟩, .landing ⟨0, 8⟩, .holdEnd ⟨768, 0⟩ 1, .homeSliceRequest ⟨8192, 0⟩ 0 none, .copyStart 24,
    .byteLanding 8192 0 0, .messageArrival 24 0, .linkWordArrival 0 4, .sfuAccept 12, .sfuResult 96, .pageWalk 1024 1 0 .read,
    .migrationComplete 0 24, .ingressRequest 0xC000000000 .read false false, .ingressRequest 0 (.write (List.replicate 129 0)) false false,
    .ingressRequest 4 (.atomic .add 8 0 0 0) false true, .ingressRequest 0 (.atomic .add 2 0 0 0) false true,
    .hostSnoop (2 ^ 45) none, .hostSnoop 0 (some []), .coltailWrite 8 0, .madcfgClr 8 0, .collectiveStepStart 8, .collectiveStepEnd 8 [] false,
    .registerWrite 0x3000000000004 0, .registerWrite 0 0, .jobCreate 1 [24] 1 .p8 [] none, .softError (.scratch 0 8192) false,
    .softError (.scratch 24 0) false] : List Instr).all (fun i => !i.wf) = true := by decide +kernel

/-! ## Single steps, with results from the rules' tables -/

/-- The next state of a word. -/
def after (s : State) (i : Instr) : State :=
  match exec i s with
  | .next t => t
  | _ => State.reset
/-- The writes that it has made pending. -/
def writes (s : State) (i : Instr) : List Dest := ((after s i).strand x0).pending.map (·.dest)
def xy (x y : Word) : State := withG (withG s0 6 x) 7 y
def minW : Word := 0x8000000000000000

/-- R145: wrapping, division by zero, the division that overflows, signed and unsigned halves and comparisons, counts modulo 64. -/
theorem test_two_operand :
    [writes (xy (-1) 2) (.add 5 6 7), writes (xy 1 2) (.sub 5 6 7), writes (xy (-1) (-1)) (.mulhs 5 6 7), writes (xy (-1) (-1)) (.mulhz 5 6 7),
     writes (xy 9 0) (.div 5 6 7), writes (xy minW (-1)) (.div 5 6 7), writes (xy (-7) 2) (.div 5 6 7), writes (xy (-7) 2) (.rem 5 6 7),
     writes (xy minW (-1)) (.rem 5 6 7), writes (xy 9 0) (.remz 5 6 7), writes (xy 0xF0 0x30) (.andn 5 6 7), writes (xy 0 (-2)) (.orn 5 6 7),
     writes (xy 1 65) (.shl 5 6 7), writes (xy minW 63) (.sar 5 6 7), writes (xy minW 1) (.rol 5 6 7), writes (xy 1 1) (.ror 5 6 7),
     writes (xy (-1) 1) (.min 5 6 7), writes (xy (-1) 1) (.minz 5 6 7), writes (xy (-1) 1) (.slt 5 6 7), writes (xy (-1) 1) (.sltz 5 6 7)] =
    ([1, -1, 0, -2, -1, minW, -3, -1, 0, 9, 0xC0, 1, 2, -1, 1, minW, -1, 1, 1, 0] : List Word).map fun v => [.g 5 v] := by decide +kernel

/-- R146, R149, R152. -/
theorem test_one_operand :
    [writes (xy 0 0) (.clz 5 6), writes (xy 0 0) (.ctz 5 6), writes (xy (-1) 0) (.popc 5 6), writes (xy 0x0102030405060708 0) (.bswp 5 6),
     writes (xy 0x80 0) (.sxtS8 5 6), writes (xy (-1) 0) (.zxtB32 5 6), writes (xy 0xF00 0) (.bfxS 5 6 3 8), writes (xy (-1) 0) (.bfx 5 6 63 0),
     writes (withG (xy 0xFFF 0) 5 minW) (.bfi 5 6 7 56), writes s0 (.movpGP 5 0), writes s0 (.movi 5 0x2000)] =
    ([64, 64, 64, 0x0807060504030201, 0xFFFFFFFFFFFFFF80, 0xFFFFFFFF, -1, -1, 0xFF00000000000000, 0xFFFF, 0xFFFFFFFFFFFFE000] : List Word).map
      fun v => [.g 5 v] := by decide +kernel

/-- R100: a write to g0 or p0 is discarded; R150. -/
theorem test_discarded_and_predicates : ((after (xy 1 2) (.add 0 6 7)).strand x0).regs.readG 0 = 0 ∧
    writes (xy 6 1) (.pcmpTst 2 6 7) = [.p 2 0] ∧ writes (xy (-1) 1) (.pcmpLt 2 6 7) = [.p 2 0xFFFF] ∧
    writes (xy (-1) 1) (.pcmpLtu 2 6 7) = [.p 2 0] ∧ writes s0 (.pnot 2 0) = [.p 2 0] := by decide +kernel

/-- R153 to R157: a branch goes to its word's address and 4 times the offset, CALL leaves the address behind it in g31, and a
target that is no word's address faults. -/
theorem test_branches : ((after s0 (.br 0x3FFFFF)).strand x0).pc = win - 4 ∧ ((after s0 (.brp 1 4)).strand x0).pc = win + 4 ∧
    ((after s0 (.brpN 1 4)).strand x0).pc = win + 16 ∧ writes s0 (.call 2) = [.g 31 (win + 4)] ∧
    ((after (xy 2 0) (.brr 6)).strand x0).regs.csr.cause = 0x04 ∧ ((after (xy 2 0) (.loop 6 4)).strand x0).pc = win + 16 ∧
    ((after (xy 1 0) (.loop 6 4)).strand x0).pc = win + 4 := by decide +kernel

/-- R357, R358, R391 and R392: TRAP n enters the supervisor handler with EPC behind it; ERET returns and restores the mode. -/
def inHandler : State := after (withCore s0 fun k => { k with svec := 0x4000 }) (.trap 5)
theorem test_trap_and_return : (inHandler.strand x0).pc = 0x4000 ∧ (inHandler.strand x0).regs.csr.cause = 0x13 ∧
    (inHandler.strand x0).regs.csr.eval = 5 ∧ (inHandler.strand x0).regs.csr.epc = win + 4 ∧
    (inHandler.strand x0).regs.csr.status = ⟨false, false, false, true, false, true⟩ ∧
    ((after inHandler .eret).strand x0).pc = win + 4 ∧ ((after inHandler .eret).strand x0).regs.csr.status = ⟨false, false, false, false, false, false⟩ := by
  decide +kernel

/-- R3, R193 and R196: bytes are little-endian; STN.hi changes the high nibble alone. -/
def sBytes : State := after (withG (withG s0 31 win) 5 0x0102030405060708) (.stB64 5 31 0 1)
theorem test_stores : (sBytes.byteAt (Config.scratchLoc 0 8)) = 0x08 ∧ (sBytes.byteAt (Config.scratchLoc 0 15)) = 0x01 ∧
    (sBytes.byteAt (Config.scratchLoc 0 7)) = 0 ∧ (sBytes.byteAt (Config.scratchLoc 0 16)) = 0 ∧
    ((after (withG (withG (withRec s0 0 1 0xAB) 31 win) 5 0x1C) (.stnHi 5 31 0)).byteAt (Config.scratchLoc 0 0)) = 0xCB := by
  decide +kernel

/-- R192: a signed load extends the sign, an unsigned one does not. -/
theorem test_loads : writes (withG (withRec s0 0 2 0x80FF) 31 win) (.ldS16 5 31 0 0) = [.g 5 0xFFFFFFFFFFFF80FF] ∧
    writes (withG (withRec s0 0 2 0x80FF) 31 win) (.ldB8 5 31 0 1) = [.g 5 0x80] := by decide +kernel

/-- R195: LDF takes the word and leaves it empty; FEMARK.e and an STF that finds a full word, which parks. -/
theorem test_full_empty : (after sWin (.ldf 5 31 0 0)).isEmpty lWin = true ∧ (after sWin (.ldfp 5 31 0 0)).isEmpty lWin = false ∧
    ((after sWin (.stf 5 31 0 0)).strand x0).park.isSome = true ∧ (after (sWin.setEmpty lWin true) (.stf 5 31 0 0)).isEmpty lWin = false := by
  decide +kernel

/-- R351 and R352: AMAX compares with sign, AMAXZ without; ACAS writes only on a match. -/
theorem test_atomics :
    (s0.atomicAt x0 .max 4 0 0x20000 0xFFFFFFFF 0 0 0).1.natAt 0x20000 4 = 0 ∧
    (s0.atomicAt x0 .maxz 4 0 0x20000 0xFFFFFFFF 0 0 0).1.natAt 0x20000 4 = 0xFFFFFFFF ∧
    (s0.atomicAt x0 .cas 8 0 0x20000 5 1 0 0).1.natAt 0x20000 8 = 0 ∧ (s0.atomicAt x0 .cas 8 0 0x20000 5 0 0 0).1.natAt 0x20000 8 = 5 := by
  decide +kernel

/-- R224: the third of three expected bytes flips the phase and leaves a count of 0. -/
theorem test_barrier_count : let s := (s0.setNat oAt 4 3).count oAt 2 0
    s.natAt (oAt + 8) 4 = 2 ∧ s.natAt (oAt + 12) 4 = 0 ∧ (s.count oAt 1 0).natAt (oAt + 8) 4 = 0 ∧ (s.count oAt 1 0).natAt (oAt + 12) 4 = 1 := by
  decide +kernel

/-- R227 to R236: halves of ties go to even; .e4 holds 448 and turns an overflow into its NaN or, in RTZ, 448; a NaN becomes the canonical one. -/
theorem test_rounding : pack .h 0 0 false (unpack .d 0x40A0020000000000) = 0x6800 ∧ pack .h 0 0 false (unpack .d 0x40A0060000000000) = 0x6802 ∧
    pack .h 1 0 false (unpack .d 0x40A0060000000000) = 0x6801 ∧ pack .f 0 0 false (unpack .f 0xFF800001) = 0x7FC00000 ∧
    pack .e4 1 0 false (unpack .f 0x47000000) = 0x7E ∧ pack .f 0 0 true (unpack .f 0x80000001) = 0x80000000 := by decide +kernel

/-- R237: the counter generator, worked out by hand; R185: the check code of its own example. -/
theorem test_generator_and_check_code : counterG 0 0 = 0 ∧ counterG 1 0 = 0x852bbfa5 ∧ counterG 2 7 = 0xe4a4c09a ∧
    checkCode [0x31, 0x32, 0x33, 0x34, 0x35, 0x36, 0x37, 0x38, 0x39] = 0x29B1 := by decide +kernel

/-- R247 and R255: lanes wrap apart from each other; a vector minimum is signed where its type is. -/
theorem test_vector_lanes : lane2 .s8 (fun p q => wrapTo 8 (laneInt .s8 p + laneInt .s8 q)) 0x7FFF 0x0101 = 0x8000 ∧
    writes (withRegs s0 fun r => { r with v := [(1, 0x80), (2, 0x01)] }) (.vmin 3 1 2 .s8) = [.v 3 0x80] ∧
    writes (withRegs s0 fun r => { r with v := [(1, 0x80), (2, 0x01)] }) (.vmin 3 1 2 .b8) = [.v 3 0x01] := by decide +kernel

/-- R357: a fault known at issue; R8: nothing is due after reset, so a core cycle passes. -/
theorem test_illegal_and_idle : (match step (s0.placeWord (Config.scratchLoc 0 0) 0x100) with | .next t => (t.strand x0).regs.csr.cause | _ => 0) = 0x01 ∧
    (match step State.reset with | .next t => t.clock.cc | _ => 0) = 1 := by decide +kernel

/-- A step runs the word where the strand stands, and reset fetches nothing. -/
theorem test_withFetchWord : (match step (State.reset.withFetchWord 32 0x10500007) with | .next t => (t.strand x0).pc | _ => 0) = win + 4 ∧
    State.reset.nextFetch = none := by decide +kernel
end Sys2Proof.Tests
end

section
/-! O55: what device reset leaves. -/

namespace Sys2Proof.Machine

/-- Reset lists no core: each reads as `Core.reset`. -/
@[simp] theorem State.core_reset (c : Nat) : State.reset.core c = Core.reset := rfl
/-- Reset lists no strand: each reads as `Strand.reset`. -/
@[simp] theorem State.strand_reset (x : SId) : State.reset.strand x = Strand.reset := rfl
/-- Reset lists no queue: each reads as `Queue.reset`. -/
@[simp] theorem State.queue_reset (q : Nat) : State.reset.queue q = Queue.reset := rfl

/-- An unwritten device register reads its reset value. -/
@[simp] theorem State.devReg_reset (a : Nat) : State.reset.mem.devReg a = devReset a := rfl

/-- Nothing is due after reset. -/
theorem State.pick_reset : State.reset.pick = none := rfl

/-- A core cycle in which nothing is due passes. -/
theorem step_of_pick_none {s : State} (h : s.pick = none) : step s = .next (s.tick (s.clock.cc + 1)) := by
  unfold step
  rw [h]

@[simp] theorem State.isEmpty_reset (l : Nat) : State.reset.isEmpty l = false := by
  unfold State.isEmpty
  split <;> rfl

/-- Where no copy is listed, memory serves at the home. -/
theorem MemSys.atHome_of_no_copies {m : MemSys} (h : m.cache = []) (n : Nat) : m.atHome n = none := by
  simp [MemSys.atHome, MemSys.owner, MemSys.holder, MemSys.cached, h]

@[simp] theorem State.isBad_reset (l : Nat) : State.reset.isBad l = false := by
  unfold State.isBad
  split
  · rfl
  · rw [MemSys.atHome_of_no_copies rfl]
    rfl

/-- SPER of every die's Madder engine is 1 after reset (R425). -/
theorem devReset_madcfg {d : Nat} (hd : d < 8) : devReset (0x300000C000000 + d * 0x100000) = 0x100000000 := by
  unfold devReset
  rw [if_neg (by unfold hcBase; omega), if_pos]
  simp only [Bool.and_eq_true, decide_eq_true_eq]
  unfold madBase
  omega

/-- HCTHR is 256 after reset (R410). -/
theorem devReset_hcthr : devReset 0x3000009000018 = 256 := if_pos rfl

/-- Settles O55: reset lists nothing, so each part reads as its default, and nothing is due. -/
theorem resetValues : Obligations.ResetValues := by
  refine ⟨State.reset_wf, rfl, rfl, step_of_pick_none State.pick_reset, fun q => ?_, fun c => ?_, fun x => ?_, fun l => ?_,
    ?_, fun d hd => ?_, fun w hw => ?_, List.length_replicate⟩
  · simp [Queue.reset]
  · simp [Core.reset, Core.prec, Core.accAt, Config.precReset]
  · simp [Strand.reset]
  · simp
  · rw [State.devReg_reset, devReset_hcthr]
  · rw [State.devReg_reset, devReset_madcfg hd]
  · rw [List.eq_of_mem_replicate hw]

end Sys2Proof.Machine
end

section
/-! O57: bytes of memory and scratch, and the marks of their sectors, after a write. -/

namespace Sys2Proof.Machine

/-! ### Little-endian bytes (R3) -/

@[simp] theorem length_leBytes (n v : Nat) : (leBytes n v).length = n := by
  induction n generalizing v with
  | zero => rfl
  | succ n ih => simp [leBytes, ih]

/-- The value of the bytes of a number, so far as they hold it. -/
theorem leNat_leBytes (n v : Nat) : leNat (leBytes n v) = v % 256 ^ n := by
  induction n generalizing v with
  | zero => simp [leBytes, leNat, Nat.mod_one]
  | succ n ih => rw [leBytes, leNat, ih, BitVec.toNat_ofNat, pow_succ' 256 n, Nat.mod_mul]

/-! ### The check code (R184) -/

theorem crcBit_lt (c : Nat) (b : Bool) : crcBit c b < 2 ^ 16 := by
  have hc : c * 2 % 2 ^ 16 < 2 ^ 16 := Nat.mod_lt _ (by decide)
  unfold crcBit
  dsimp only
  split
  · exact Nat.xor_lt_two_pow hc (by decide)
  · exact hc

/-- A check code has 16 bits. -/
theorem checkCode_lt (bs : List Byte) : checkCode bs < 2 ^ 16 :=
  List.foldlRecOn bs crcByte (motive := (· < 2 ^ 16)) (by decide) fun _ _ _ _ => crcBit_lt _ _

/-! ### Bytes -/

theorem isScratchLoc_iff (l : Nat) : isScratchLoc l = true ↔ 0x10000000000000 ≤ l := decide_eq_true_iff

/-- A write of one byte leaves every other byte, of memory or of scratch. -/
theorem State.byteAt_setByte_other {s : State} {l m : Nat} (b : Byte) (h : m ≠ l) :
    (s.setByte l b).byteAt m = s.byteAt m := by
  cases hl : isScratchLoc l with
  | false => exact State.byteAt_setByte_ne b hl h
  | true =>
    unfold State.byteAt State.setByte
    rw [if_pos hl]
    split
    case isFalse => rfl
    case isTrue hm =>
      by_cases hc : locCore m = locCore l
      · have ho : locOff m ≠ locOff l := by
          rw [isScratchLoc_iff] at hl hm
          simp only [locCore, locOff, Config.hostEnd] at hc ⊢
          omega
        rw [hc, State.core_modCore]
        exact Tab.get_set_ne _ _ ho
      · rw [State.core_modCore_ne _ _ hc]

/-- A byte at a location reads back as it is written: scratch in its canonical form, or canonical memory outside allocator
maps (R300). -/
def State.ReadsBack (s : State) (l : Nat) : Prop :=
  if isScratchLoc l then Tab.wf (0 : Byte) (s.core (locCore l)).scratch = true
  else s.mem.allocatorOf l = none ∧ Memory.wf s.mem.cells = true

theorem State.ReadsBack.byteAt {s : State} {l : Nat} (b : Byte) (h : s.ReadsBack l) : (s.setByte l b).byteAt l = b := by
  unfold State.ReadsBack at h
  cases hl : isScratchLoc l with
  | true => exact State.byteAt_setByte_scratch b hl (by simpa [hl] using h)
  | false =>
    simp only [hl, Bool.false_eq_true, if_false] at h
    exact State.byteAt_setByte b hl h.1 h.2

theorem State.ReadsBack.setByte {s : State} {m : Nat} (l : Nat) (b : Byte) (h : s.ReadsBack m) :
    (s.setByte l b).ReadsBack m := by
  unfold State.ReadsBack at *
  split at h
  case isTrue hm =>
    rw [if_pos hm]
    unfold State.setByte
    split
    · by_cases hc : locCore m = locCore l
      · rw [hc] at h ⊢
        rw [State.core_modCore]
        exact Tab.wf_set _ _ h
      · rwa [State.core_modCore_ne _ _ hc]
    · exact h
  case isFalse hm =>
    rw [if_neg hm]
    refine ⟨?_, State.setByte_wf l b h.2⟩
    unfold State.setByte
    split <;> exact h.1

/-- A write of bytes leaves every byte outside its range. -/
theorem State.byteAt_setBytes_outside {s : State} {l a : Nat} {bs : List Byte} (h : a < l ∨ l + bs.length ≤ a) :
    (s.setBytes l bs).byteAt a = s.byteAt a := by
  induction bs generalizing s l with
  | nil => rfl
  | cons b bs ih =>
    rw [List.length_cons] at h
    rw [State.setBytes, ih (by omega), State.byteAt_setByte_other b (by omega)]

/-- Bytes read back as they are written. -/
theorem State.bytesAt_setBytes {s : State} {l : Nat} {bs : List Byte} (h : ∀ k, k < bs.length → s.ReadsBack (l + k)) :
    (s.setBytes l bs).bytesAt l bs.length = bs := by
  induction bs generalizing s l with
  | nil => rfl
  | cons b bs ih =>
    have hfirst : ((s.setByte l b).setBytes (l + 1) bs).byteAt l = b := by
      rw [State.byteAt_setBytes_outside (.inl (by omega)), State.ReadsBack.byteAt b (by simpa using h 0)]
    have hrest : ((s.setByte l b).setBytes (l + 1) bs).bytesAt (l + 1) bs.length = bs := by
      refine ih fun k hk => State.ReadsBack.setByte l b ?_
      rw [Nat.add_assoc, Nat.add_comm 1 k]
      exact h (k + 1) (by simpa using hk)
    rw [State.setBytes, List.length_cons, State.bytesAt, hfirst, hrest]

/-- Bytes are read one by one. -/
theorem State.bytesAt_congr {s t : State} (h : ∀ a, t.byteAt a = s.byteAt a) (l n : Nat) : t.bytesAt l n = s.bytesAt l n := by
  induction n generalizing l with
  | zero => rfl
  | succ n ih => rw [State.bytesAt, State.bytesAt, h, ih]

/-! ### Marks are kept apart from bytes and full/empty bits (R185, R188) -/

theorem State.allocatorOf_setBad (s : State) (l a : Nat) (b : Bool) : (s.setBad l b).mem.allocatorOf a = s.mem.allocatorOf a := by
  unfold State.setBad
  split <;> rfl

theorem State.scratch_setBad (s : State) (l c : Nat) (b : Bool) : ((s.setBad l b).core c).scratch = (s.core c).scratch := by
  unfold State.setBad
  split
  · by_cases h : c = locCore l
    · rw [h, State.core_modCore]
    · rw [State.core_modCore_ne _ _ h]
  · rfl

@[simp] theorem State.byteAt_setBad (s : State) (l a : Nat) (b : Bool) : (s.setBad l b).byteAt a = s.byteAt a := by
  simp only [State.byteAt, State.scratch_setBad, State.allocatorOf_setBad, State.setBad_cells]

@[simp] theorem State.isEmpty_setBad (s : State) (l a : Nat) (b : Bool) : (s.setBad l b).isEmpty a = s.isEmpty a := by
  unfold State.isEmpty State.setBad
  split
  · split
    · by_cases h : locCore a = locCore l
      · rw [h, State.core_modCore]
      · rw [State.core_modCore_ne _ _ h]
    · rfl
  · split <;> rfl

@[simp] theorem State.isBad_setByte (s : State) (l a : Nat) (b : Byte) : (s.setByte l b).isBad a = s.isBad a := by
  unfold State.isBad State.setByte
  split
  · split
    · by_cases h : locCore a = locCore l
      · rw [h, State.core_modCore]
      · rw [State.core_modCore_ne _ _ h]
    · rfl
  · split <;> rfl

@[simp] theorem State.isBad_setBytes (s : State) (l a : Nat) (bs : List Byte) : (s.setBytes l bs).isBad a = s.isBad a := by
  induction bs generalizing s l with
  | nil => rfl
  | cons b bs ih => exact (ih _ _).trans (State.isBad_setByte s l a b)

/-! ### Sets of marks -/

theorem NSet.has_setTo_ne (t : NSet) {i j : Nat} (b : Bool) (h : j ≠ i) : NSet.has (NSet.setTo t i b) j = NSet.has t j := by
  cases b
  · simp [NSet.setTo, NSet.has, NSet.del, Tab.find?_drop_ne t h]
  · simp [NSet.setTo, NSet.has, NSet.put, Tab.find?_put_ne t () h]

theorem NSet.has_setTo_false {t : NSet} (i : Nat) (h : Tab.risesFrom 0 t = true) : NSet.has (NSet.setTo t i false) i = false := by
  simp [NSet.setTo, NSet.has, NSet.del, Tab.find?_drop_self h]

theorem NSet.risesFrom_setTo {t : NSet} (i : Nat) (b : Bool) (h : Tab.risesFrom 0 t = true) :
    Tab.risesFrom 0 (NSet.setTo t i b) = true := by
  cases b
  · exact Tab.risesFrom_drop h
  · exact Tab.risesFrom_put () h (Nat.zero_le i)

/-! ### Copies found after a change that keeps what they are found by -/

/-- A change of copies that keeps the fields by which the model finds one. -/
def KeepsIdentity (f : CacheLine → CacheLine) : Prop :=
  ∀ e, (f e).place = e.place ∧ (f e).line = e.line ∧ (f e).owned = e.owned ∧ (f e).untracked = e.untracked

section
variable {m : MemSys} {f : CacheLine → CacheLine} (hf : KeepsIdentity f)
include hf

theorem MemSys.cached_map (p : Place) (n : Nat) :
    ({ m with cache := m.cache.map f } : MemSys).cached p n = (m.cached p n).map f := by
  have hp : (fun e : CacheLine => e.is p n) ∘ f = fun e => e.is p n := by
    funext e
    obtain ⟨hplace, hline, -, -⟩ := hf e
    simp [CacheLine.is, hplace, hline]
  simp only [MemSys.cached, List.find?_map, hp]

theorem MemSys.holder_map (ps : List Place) (n : Nat) :
    ({ m with cache := m.cache.map f } : MemSys).holder ps n = (m.holder ps n).map f := by
  induction ps with
  | nil => rfl
  | cons p ps ih =>
    unfold MemSys.holder at ih ⊢
    rw [List.findSome?_cons, List.findSome?_cons, MemSys.cached_map hf, ih]
    cases m.cached p n <;> rfl

theorem MemSys.owner_map (n : Nat) : ({ m with cache := m.cache.map f } : MemSys).owner n = (m.owner n).map f := by
  have hp (r : Nat) : (fun e : CacheLine => e.line = n && e.owned && !e.untracked && placeLevel e.place = r) ∘ f =
      fun e => e.line = n && e.owned && !e.untracked && placeLevel e.place = r := by
    funext e
    obtain ⟨hplace, hline, howned, huntracked⟩ := hf e
    simp [hplace, hline, howned, huntracked]
  simp only [MemSys.owner, List.find?_map, hp, Option.map_or]

theorem MemSys.atHome_map (n : Nat) : ({ m with cache := m.cache.map f } : MemSys).atHome n = (m.atHome n).map f := by
  simp only [MemSys.atHome, MemSys.owner_map hf, MemSys.holder_map hf, Option.map_or]

end

/-- What `State.setBad` makes of a copy: a tracked one of the sector's line takes the mark. -/
def CacheLine.mark (l : Nat) (b : Bool) (e : CacheLine) : CacheLine :=
  if e.line = l / 128 && !e.untracked then e.setBad l b else e

theorem CacheLine.keepsIdentity_mark (l : Nat) (b : Bool) : KeepsIdentity (CacheLine.mark l b) := by
  intro e
  unfold CacheLine.mark
  split <;> exact ⟨rfl, rfl, rfl, rfl⟩

theorem CacheLine.has_mark_ne {l m : Nat} (b : Bool) (e : CacheLine) (h : m / 32 ≠ l / 32) :
    NSet.has (e.mark l b).bad (m / 32) = NSet.has e.bad (m / 32) := by
  unfold CacheLine.mark
  split
  · exact NSet.has_setTo_ne _ b h
  · rfl

theorem CacheLine.risesFrom_mark {e : CacheLine} (l : Nat) (b : Bool) (h : Tab.risesFrom 0 e.bad = true) :
    Tab.risesFrom 0 (e.mark l b).bad = true := by
  unfold CacheLine.mark
  split
  · exact NSet.risesFrom_setTo _ b h
  · exact h

theorem State.setBad_scratch {s : State} {l : Nat} (b : Bool) (h : isScratchLoc l = true) :
    s.setBad l b = s.modCore (locCore l) fun k => { k with scratchBad := NSet.setTo k.scratchBad (locOff l / 32) b } := by
  unfold State.setBad
  rw [if_pos h]

theorem State.setBad_memory {s : State} {l : Nat} (b : Bool) (h : isScratchLoc l = false) :
    s.setBad l b = s.modMem fun m => { m with bad := NSet.setTo m.bad (l / 32) b, cache := m.cache.map (CacheLine.mark l b) } := by
  unfold State.setBad
  rw [if_neg (by simp [h])]
  rfl

theorem MemSys.atHome_mark (m : MemSys) (l : Nat) (b : Bool) (n : Nat) :
    ({ m with bad := NSet.setTo m.bad (l / 32) b, cache := m.cache.map (CacheLine.mark l b) } : MemSys).atHome n =
      (m.atHome n).map (CacheLine.mark l b) := MemSys.atHome_map (CacheLine.keepsIdentity_mark l b) n

/-- Marking one sector leaves the mark of every other. -/
theorem State.isBad_setBad_ne {s : State} {l m : Nat} (b : Bool) (h : m / 32 ≠ l / 32) : (s.setBad l b).isBad m = s.isBad m := by
  cases hl : isScratchLoc l with
  | true =>
    rw [State.setBad_scratch b hl]
    unfold State.isBad
    split
    case isFalse => rfl
    case isTrue hm =>
      by_cases hc : locCore m = locCore l
      · have ho : locOff m / 32 ≠ locOff l / 32 := by
          rw [isScratchLoc_iff] at hl hm
          simp only [locCore, locOff, Config.hostEnd] at hc ⊢
          omega
        rw [hc, State.core_modCore]
        exact NSet.has_setTo_ne _ b ho
      · rw [State.core_modCore_ne _ _ hc]
  | false =>
    rw [State.setBad_memory b hl]
    unfold State.isBad
    split
    case isTrue => rfl
    case isFalse =>
      rw [State.modMem_mem, MemSys.atHome_mark]
      cases s.mem.atHome (m / 128) with
      | none => exact NSet.has_setTo_ne _ b h
      | some e => exact CacheLine.has_mark_ne b e h

/-! ### A sector that is written whole takes a good code (R185) -/

/-- The tables of marks are in order, and only copies of an L1 are untracked (R171). -/
structure State.MarksInOrder (s : State) : Prop where
  memory : Tab.risesFrom 0 s.mem.bad = true
  scratch : ∀ c, Tab.risesFrom 0 (s.core c).scratchBad = true
  copies : ∀ e ∈ s.mem.cache, Tab.risesFrom 0 e.bad = true ∧ (e.untracked = true → placeLevel e.place = 0)

theorem State.MarksInOrder.setBad {s : State} (l : Nat) (b : Bool) (h : s.MarksInOrder) : (s.setBad l b).MarksInOrder := by
  cases hl : isScratchLoc l with
  | true =>
    rw [State.setBad_scratch b hl]
    refine ⟨h.memory, fun c => ?_, h.copies⟩
    by_cases hc : c = locCore l
    · subst hc
      rw [State.core_modCore]
      exact NSet.risesFrom_setTo _ b (h.scratch _)
    · rw [State.core_modCore_ne _ _ hc]
      exact h.scratch c
  | false =>
    rw [State.setBad_memory b hl]
    refine ⟨NSet.risesFrom_setTo _ b h.memory, h.scratch, fun e he => ?_⟩
    obtain ⟨e, hmem, rfl⟩ := List.mem_map.mp he
    obtain ⟨hplace, -, -, huntracked⟩ := CacheLine.keepsIdentity_mark l b e
    rw [hplace, huntracked]
    exact ⟨CacheLine.risesFrom_mark l b (h.copies e hmem).1, (h.copies e hmem).2⟩

theorem State.MarksInOrder.setByte {s : State} (l : Nat) (b : Byte) (h : s.MarksInOrder) : (s.setByte l b).MarksInOrder := by
  unfold State.setByte
  split
  · refine ⟨h.memory, fun c => ?_, h.copies⟩
    by_cases hc : c = locCore l
    · subst hc
      rw [State.core_modCore]
      exact h.scratch _
    · rw [State.core_modCore_ne _ _ hc]
      exact h.scratch c
  · exact ⟨h.memory, h.scratch, h.copies⟩

theorem State.MarksInOrder.setBytes {s : State} (l : Nat) (bs : List Byte) (h : s.MarksInOrder) :
    (s.setBytes l bs).MarksInOrder := by
  induction bs generalizing s l with
  | nil => exact h
  | cons b bs ih => exact ih (l + 1) (h.setByte l b)

theorem placeLevel_homePath {p : Place} {pa : Nat} (h : p ∈ homePath pa) : 2 ≤ placeLevel p := by
  unfold homePath at h
  split at h <;> simp only [List.mem_cons, List.not_mem_nil, or_false] at h
  · rcases h with rfl | rfl <;> simp [placeLevel]
  · subst h
    simp [placeLevel]

/-- The copy that serves at the home is one of the line, tracked where only copies of an L1 are untracked. -/
theorem MemSys.atHome_some {m : MemSys} {n : Nat} {e : CacheLine} (h : m.atHome n = some e)
    (hu : ∀ e ∈ m.cache, e.untracked = true → placeLevel e.place = 0) : e ∈ m.cache ∧ e.line = n ∧ e.untracked = false := by
  have owned {r : Nat} (h : m.cache.find? (fun e => e.line = n && e.owned && !e.untracked && placeLevel e.place = r) = some e) :
      e ∈ m.cache ∧ e.line = n ∧ e.untracked = false := by
    have hp := List.find?_some h
    simp only [Bool.and_eq_true, decide_eq_true_eq, Bool.not_eq_true'] at hp
    obtain ⟨⟨⟨hline, -⟩, htracked⟩, -⟩ := hp
    exact ⟨List.mem_of_find?_eq_some h, hline, htracked⟩
  unfold MemSys.atHome MemSys.owner at h
  simp only [Option.or_eq_some_iff] at h
  rcases h with (h | ⟨-, h⟩) | ⟨-, h⟩
  · exact owned h
  · exact owned h
  · obtain ⟨p, hp, h⟩ := List.exists_of_findSome?_eq_some h
    have he := List.mem_of_find?_eq_some h
    have his := List.find?_some h
    simp only [CacheLine.is, Bool.and_eq_true, decide_eq_true_eq] at his
    obtain ⟨rfl, hline⟩ := his
    refine ⟨he, hline, ?_⟩
    cases hut : e.untracked with
    | false => rfl
    | true =>
      have h0 := hu e he hut
      have h2 := placeLevel_homePath hp
      omega

/-- A sector that takes a good code is good. -/
theorem State.isBad_setBad_false {s : State} (l : Nat) (h : s.MarksInOrder) : (s.setBad l false).isBad l = false := by
  cases hl : isScratchLoc l with
  | true =>
    rw [State.setBad_scratch false hl]
    unfold State.isBad
    rw [if_pos hl, State.core_modCore]
    exact NSet.has_setTo_false _ (h.scratch _)
  | false =>
    rw [State.setBad_memory false hl]
    unfold State.isBad
    rw [if_neg (by simp [hl]), State.modMem_mem, MemSys.atHome_mark]
    cases he : s.mem.atHome (l / 128) with
    | none => exact NSet.has_setTo_false _ h.memory
    | some e =>
      obtain ⟨hmem, hline, htracked⟩ := MemSys.atHome_some he fun e he => (h.copies e he).2
      have hmark : e.mark l false = e.setBad l false := by simp [CacheLine.mark, hline, htracked]
      rw [Option.map_some, hmark]
      exact NSet.has_setTo_false _ (h.copies e hmem).1

/-- What holds before new codes are written and is kept by each good code of a sector within the range holds after. -/
theorem State.recode_keeps {P : State → Prop} {s : State} {l n : Nat}
    (hP : ∀ t i, l ≤ i * 32 → i * 32 + 32 ≤ l + n → P t → P (t.setBad (i * 32) false)) (h : P s) : P (s.recode l n) := by
  unfold State.recode
  refine List.foldlRecOn _ _ h fun t ht i _ => ?_
  dsimp only
  split
  case isTrue hin =>
    simp only [Bool.and_eq_true, decide_eq_true_eq] at hin
    exact hP t _ hin.1 hin.2 ht
  case isFalse => exact ht

@[simp] theorem State.byteAt_recode (s : State) (l n a : Nat) : (s.recode l n).byteAt a = s.byteAt a :=
  State.recode_keeps (P := fun t => t.byteAt a = s.byteAt a) (fun t _ _ _ h => by rw [State.byteAt_setBad, h]) rfl

@[simp] theorem State.isEmpty_recode (s : State) (l n a : Nat) : (s.recode l n).isEmpty a = s.isEmpty a :=
  State.recode_keeps (P := fun t => t.isEmpty a = s.isEmpty a) (fun t _ _ _ h => by rw [State.isEmpty_setBad, h]) rfl

/-- A sector that a range does not cover keeps its mark. -/
theorem State.isBad_recode_partial {s : State} {l n k : Nat} (hk : 32 * k < l ∨ l + n < 32 * k + 32) :
    (s.recode l n).isBad (32 * k) = s.isBad (32 * k) :=
  State.recode_keeps (P := fun t => t.isBad (32 * k) = s.isBad (32 * k))
    (fun t _ _ _ h => by rw [State.isBad_setBad_ne false (by omega), h]) rfl

/-- A fold that keeps P, and that reaches an element which establishes Q, ends in Q where every element keeps Q. -/
theorem foldl_establishes {α β : Type} {P Q : β → Prop} {f : β → α → β} {a : α} (hP : ∀ t x, P t → P (f t x))
    (hQ : ∀ t x, P t → Q t → Q (f t x)) (ha : ∀ t, P t → Q (f t a)) {as : List α} {s : β} (h : P s) (hmem : a ∈ as) :
    Q (as.foldl f s) := by
  induction as generalizing s with
  | nil => cases hmem
  | cons x as ih =>
    rcases List.mem_cons.mp hmem with rfl | hmem
    · exact (List.foldlRecOn as f (motive := fun t => P t ∧ Q t) ⟨hP s a h, ha s h⟩
        fun t ht x _ => ⟨hP t x ht.1, hQ t x ht.1 ht.2⟩).2
    · exact ih (hP s x h) hmem

/-- A good code for one sector makes no sector bad. -/
theorem State.isBad_setBad_false_of_good {s : State} {i k : Nat} (hs : s.MarksInOrder) (h : s.isBad (32 * k) = false) :
    (s.setBad (i * 32) false).isBad (32 * k) = false := by
  by_cases hik : i = k
  · rw [hik, Nat.mul_comm k 32]
    exact State.isBad_setBad_false _ hs
  · rwa [State.isBad_setBad_ne false (by omega)]

/-- A sector that a range covers takes a good code. -/
theorem State.isBad_recode_whole {s : State} {l n k : Nat} (hs : s.MarksInOrder) (h1 : l ≤ 32 * k) (h2 : 32 * k + 32 ≤ l + n) :
    (s.recode l n).isBad (32 * k) = false := by
  have hk : (l / 32 + (k - l / 32)) * 32 = 32 * k := by omega
  unfold State.recode
  refine foldl_establishes (P := State.MarksInOrder) (Q := fun t => t.isBad (32 * k) = false) (a := k - l / 32)
    (fun t i ht => ?_) (fun t i ht hgood => ?_) (fun t ht => ?_) hs (List.mem_range.mpr (by omega))
  · dsimp only
    split
    · exact ht.setBad _ _
    · exact ht
  · dsimp only
    split
    · exact State.isBad_setBad_false_of_good ht hgood
    · exact hgood
  · simp only [hk, h1, h2, decide_true, Bool.and_self, if_true]
    exact State.isBad_setBad_false _ ht

/-! ### A write (R185, R188) -/

/-- A number reads back as it is written. -/
theorem State.natAt_write {s : State} {l n : Nat} (v : Nat) (h : ∀ k, k < n → s.ReadsBack (l + k)) :
    (s.write l (leBytes n v)).natAt l n = v % 256 ^ n := by
  have hb := State.bytesAt_setBytes (s := s) (l := l) (bs := leBytes n v) (by simpa using h)
  rw [length_leBytes] at hb
  rw [State.natAt, State.write, State.bytesAt_congr (State.byteAt_recode _ _ _), hb, leNat_leBytes]

/-- Physical memory outside allocator maps reads back, where it is in its canonical form. -/
theorem State.readsBack_memory {s : State} {l : Nat} (hs : s.Inv) (hl : l < Config.hostEnd) (hm : s.mem.allocatorOf l = none) :
    s.ReadsBack l := by
  unfold State.ReadsBack
  rw [if_neg (by simpa [isScratchLoc] using hl)]
  exact ⟨hm, hs⟩

/-- A core's scratch reads back, where it is in its canonical form. -/
theorem State.readsBack_scratch {s : State} {c o : Nat} (ho : o < 0x40000) (h : Tab.wf (0 : Byte) (s.core c).scratch = true) :
    s.ReadsBack (Config.scratchLoc c o) := by
  have hl : isScratchLoc (Config.scratchLoc c o) = true := by
    rw [isScratchLoc_iff, Config.scratchLoc]
    omega
  have hc : locCore (Config.scratchLoc c o) = c := by
    simp only [locCore, Config.hostEnd, Config.scratchLoc]
    omega
  unfold State.ReadsBack
  rwa [if_pos hl, hc]

/-- Settles O57: a write is its bytes, then good codes for the sectors that it covers; bytes, full/empty bits and marks stand
apart. -/
theorem memoryReadsBackWhatIsWritten : Obligations.MemoryReadsBackWhatIsWritten := by
  refine ⟨fun s l n v _ => ⟨fun a ha => ?_, fun a => ?_, fun hs hl hm => ?_, fun c o ho hl hc => ?_,
    fun hmem hscratch hcopies k h1 h2 => ?_, fun k hk => ?_⟩, by decide +kernel, checkCode_lt⟩
  · rw [State.write, State.byteAt_recode, State.byteAt_setBytes_outside (by simpa using ha)]
  · rw [State.write, State.isEmpty_recode, State.isEmpty_setBytes]
  · exact State.natAt_write v fun k hk => State.readsBack_memory hs (by omega) (hm k hk)
  · subst hl
    refine State.natAt_write v fun k hk => ?_
    rw [show Config.scratchLoc c o + k = Config.scratchLoc c (o + k) from Nat.add_assoc _ _ _]
    exact State.readsBack_scratch (by omega) hc
  · rw [State.write, length_leBytes]
    exact State.isBad_recode_whole (State.MarksInOrder.setBytes l _ ⟨hmem, hscratch, hcopies⟩) h1 h2
  · rw [State.write, length_leBytes, State.isBad_recode_partial hk, State.isBad_setBytes]

end Sys2Proof.Machine
end

section
/-! O47: requests from outside, and the state in which a read's answer differs from what its recall leaves. -/

namespace Sys2Proof.Machine

/-- A read from outside answers the bytes and marks of its line as they stood before the recall that it starts (R407). -/
theorem exec_ingressRequest_read {s : State} {pa : Nat} {poison peer : Bool} (hr : s.fw.recovery = false)
    (hend : pa / 128 * 128 + 128 ≤ Config.hbmEnd) (hwin : peer = true ∨ s.inHostWindow (pa / 128 * 128) 128 = true)
    (hlock : s.loadLocked (pa / 128 * 128) 128 = false) :
    exec (.ingressRequest pa .read poison peer) s = .next ((s.homeAll (pa / 128 * 128) 128 false).answer
      (.data (s.bytesAt (pa / 128 * 128) 128) (s.sectorMarks (pa / 128 * 128) 128))) := by
  have hin : (peer || s.inHostWindow (pa / 128 * 128) 128) = true := by simpa using hwin
  simp [execIngressRequest, State.serveIngress, ingressRange, hr, Nat.not_lt.mpr hend, hin, hlock]

/-- An Owned copy of line 0 in a cluster's L1, with some bad sectors. -/
def ownedCopy (cluster : Nat) (bad : NSet) : CacheLine :=
  { place := .l1 cluster, line := 0, cls := .normal, owned := true, born := 0, untracked := false, bytes := [], dirty := [],
    bad := bad, sidecar := none }

/-- Two clusters own line 0, and sector 0 of cluster 1's copy alone is bad. -/
def twoOwners : State := State.reset.modMem fun m => { m with cache := [ownedCopy 0 [], ownedCopy 1 [(0, ())]] }

/-- Cluster 0's copy serves the line, and it is good. -/
theorem sectorMarks_twoOwners : twoOwners.sectorMarks 0 128 = [false, false, false, false] := by decide +kernel

/-- The recall writes back cluster 0's copy and then cluster 1's, whose mark stays. -/
theorem isBad_homeAll_twoOwners : (twoOwners.homeAll 0 128 false).isBad 0 = true := by decide +kernel

/-- Refutes O47: where two L1s own a line and one of the copies has a bad sector, a peer's read answers the marks from before
the recall, not those that the recall leaves, as the statement has it. R168 lets a line have one owner, but the statement
speaks of every state and asks for no such thing. -/
theorem not_memoryAgentSteps : ¬ Obligations.MemoryAgentSteps := by
  intro h
  obtain ⟨-, hserve, -⟩ := h twoOwners 0 0 0 0 0 0 0 .read false true []
  obtain ⟨hread, -⟩ := hserve rfl
  have hend : 0 / 128 * 128 + 128 ≤ Config.hbmEnd := by decide
  have hlock : twoOwners.loadLocked (0 / 128 * 128) 128 = false := by decide
  obtain ⟨u, hu, -, hout⟩ := hread hend (.inl rfl) hlock
  rw [exec_ingressRequest_read rfl hend (.inl rfl) hlock] at hu
  cases hu
  simp [sectorMarks_twoOwners, isBad_homeAll_twoOwners] at hout

end Sys2Proof.Machine
end

section
/-! What the effects and the record reads of instructions come to at issue. -/

namespace Sys2Proof.Machine

variable {s t u v w : State} {c : Ctx}

/-- An effect that is performed at issue lets its strand go on (R133). -/
theorem emit_done {eff : Effect} {next : Word} (hclear : t.clear c.sid = true)
    (hheld : (t.strand c.sid).effectHeld eff = false)
    (hdone : t.performEffect c.sid ⟨c.seq, c.vc, c.gpc, eff, none⟩ = .done u) : emit t c eff next = .go u next := by
  simp [emit, hclear, hheld, hdone]

/-- A record is read once what the strand must perform before that has been performed (R42, R348). -/
theorem withRecord_free {entry : Act} (h : (t.strand c.sid).nextWaits false = false) : withRecord t c entry = entry := by
  simp [withRecord, h]

theorem withRecord_waits {entry : Act} (h : (t.strand c.sid).nextWaits false = true) :
    withRecord t c entry = .again .serial (.order false) := by
  simp [withRecord, h]

/-- A change of a strand that keeps its list of instructions in flight and of deferred effects. -/
theorem State.clear_modStrand {x : SId} {f : Strand → Strand} (hi : (f (t.strand x)).inflight = (t.strand x).inflight)
    (hd : (f (t.strand x)).deferred = (t.strand x).deferred) : (t.modStrand x f).clear x = t.clear x := by
  simp only [State.clear, State.strand_modStrand, hi, hd]

/-- A start vc that the strand remembers is no instruction under way. -/
@[simp] theorem State.clear_noteStart : (t.noteStart c).clear c.sid = t.clear c.sid := by
  unfold State.noteStart
  split
  · exact State.clear_modStrand rfl rfl
  · rfl

@[simp] theorem State.core_post (s : State) (dt : Nat) (e : Event) (n : Nat) : (s.post dt e).core n = s.core n := rfl

theorem objectBad_eq_none {o : Word} (halign : o.toNat % 16 = 0) (hwin : inWindow o = true) : objectBad o = none := by
  simp [objectBad, halign, hwin]

end Sys2Proof.Machine
end

section
/-! O15: the copy forms at issue, and what registration leaves of the mailbox and the lock table. -/

namespace Sys2Proof.Machine

/-! ### The copy forms at issue (R220 to R222) -/

section
variable {s t u v w : State} {c : Ctx} {k : CopyKind} {a b : RField}

/-- The value of a copy form's third operand; 0 where it has none. -/
def Ctx.third (c : Ctx) : Option RField → Word
  | some d => c.g (gD d)
  | none => 0

/-- The command that a copy form captures. -/
def Ctx.copyCmd (c : Ctx) (k : CopyKind) (r : Rec768) (obj x : Word) (f : Option ArrayCmd) : CopyCmd :=
  { kind := k, record := r, obj := obj, third := x, q := 0, hstart := startVc c, hseq := c.h.seq, follow := f }

theorem copyChecks_ok {ra obj : Word} {n : Nat} (hread : t.readRecord c.sid ra 32 96 = (u, .inl n))
    (hlay : layoutBad (BitVec.ofNat 768 n) = none) (hobj : objectBad obj = none) :
    copyChecks t c ra obj = (u, .inl (BitVec.ofNat 768 n)) := by
  simp [copyChecks, hread, hlay, hobj]

theorem formChecks_cpyx {r : Rec768} {gd : Word} {m : Nat} {f : ArrayCmd} (hmesh : layMeshd r = 0)
    (hread : u.readRecord c.sid gd 32 32 = (v, .inl m)) (hfollow : followCmd v c m r gd = .inl f) :
    formChecks .cpyx u c r gd = (v, .inl (some f)) := by
  simp [formChecks, hmesh, hread, hfollow]

theorem formChecks_rows {r : Rec768} {gd : Word} (hk : k = .gath ∨ k = .scat) (hmesh : layMeshd r = 0)
    (hq4 : layFmt r = 14 → layRank r ≠ 1) (hwin : inWindow gd = true) (halign : gd.toNat % 4 = 0)
    (hend : gd.toNat + 4 * layWin r (layRank r - 1) ≤ Config.scratchBase + 0x40000) :
    formChecks k u c r gd = (u, .inl none) := by
  have hpair : (layQ4 r && layRank r = 1) = false := by simpa [layQ4] using hq4
  rcases hk with rfl | rfl <;> simp only [formChecks, hmesh, hpair, hwin, halign, Nat.not_lt.mpr hend] <;> rfl

theorem State.performEffect_copy {x : SId} {seq issue : Nat} {gpc : Word} {cmd : CopyCmd} {stuck : Option ParkReason}
    (hk : cmd.kind ≠ .mapgetn) (hreg : t.performCopy x seq gpc issue cmd = .done w) :
    t.performEffect x ⟨seq, issue, gpc, .copy cmd, stuck⟩ =
      .done (if cmd.follow.isSome then w.lockFollow x.core else w) := by
  simp only [State.performEffect, if_neg hk, hreg]

/-- A copy form that passes its checks registers as its effect, which a follow-on completes (R220, R221). -/
theorem copyEntry_done {d : Option RField} {r : Rec768} {f : Option ArrayCmd} (hk : k ≠ .mapgetn)
    (hfree : (t.strand c.sid).nextWaits false = false)
    (hcopy : copyChecks t c (c.g (gA a)) (c.g (gB b)) = (u, .inl r)) (hform : formChecks k u c r (c.third d) = (v, .inl f))
    (hclear : v.clear c.sid = true) (htime : timingBad v c = none)
    (hreg : (v.noteStart c).performCopy c.sid c.seq c.gpc c.vc (c.copyCmd k r (c.g (gB b)) (c.third d) f) = .done w) :
    copyEntry k a b d t c = .go (if f.isSome then w.lockFollow c.sid.core else w) c.next := by
  have hemit := emit_done (next := c.next) (State.clear_noteStart.trans hclear) rfl (State.performEffect_copy hk hreg)
  cases d
  all_goals
    simp only [Ctx.third] at hform hemit
    simp only [copyEntry, withRecord_free hfree, hcopy, hform, htime]
    exact hemit

end

/-! ### What registration leaves of the engines -/

/-- Every core has the engine operations that it had, and the same claims on the mailbox and the lock table (R202). -/
def State.KeepsOps (s t : State) : Prop := ∀ c, (t.core c).ops = (s.core c).ops ∧ (t.core c).claims = (s.core c).claims

namespace State.KeepsOps

variable {s t u : State}

theorem refl (s : State) : s.KeepsOps s := fun _ => ⟨rfl, rfl⟩

theorem trans (h : s.KeepsOps t) (h' : t.KeepsOps u) : s.KeepsOps u := fun c =>
  ⟨(h' c).1.trans (h c).1, (h' c).2.trans (h c).2⟩

theorem ite {p : Prop} [Decidable p] (ht : s.KeepsOps t) (hu : s.KeepsOps u) : s.KeepsOps (if p then t else u) := by
  split <;> assumption

/-- A fold keeps the engines where every element does. -/
theorem foldl {α : Type} {f : State → α → State} (h : ∀ (t : State) (a : α), t.KeepsOps (f t a)) (as : List α) (s : State) :
    s.KeepsOps (as.foldl f s) :=
  List.foldlRecOn as f (motive := s.KeepsOps) (refl s) fun t ht a _ => ht.trans (h t a)

theorem modMem (s : State) (f : MemSys → MemSys) : s.KeepsOps (s.modMem f) := refl s
theorem post (s : State) (dt : Nat) (e : Event) : s.KeepsOps (s.post dt e) := refl s

theorem modCore (s : State) (n : Nat) {f : Core → Core} (hops : (f (s.core n)).ops = (s.core n).ops)
    (hclaims : (f (s.core n)).claims = (s.core n).claims) : s.KeepsOps (s.modCore n f) := fun c => by
  by_cases h : c = n
  · subst h
    rw [State.core_modCore]
    exact ⟨hops, hclaims⟩
  · rw [State.core_modCore_ne _ _ h]
    exact ⟨rfl, rfl⟩

theorem modStrand (s : State) (x : SId) (f : Strand → Strand) : s.KeepsOps (s.modStrand x f) := modCore s x.core rfl rfl

theorem setByte (s : State) (l : Nat) (b : Byte) : s.KeepsOps (s.setByte l b) := by
  unfold State.setByte
  split
  · exact modCore s _ rfl rfl
  · exact modMem s _

theorem setBytes (s : State) (l : Nat) (bs : List Byte) : s.KeepsOps (s.setBytes l bs) := by
  induction bs generalizing s l with
  | nil => exact refl s
  | cons b bs ih => exact (setByte s l b).trans (ih _ _)

theorem setBad (s : State) (l : Nat) (b : Bool) : s.KeepsOps (s.setBad l b) := by
  unfold State.setBad
  split
  · exact modCore s _ rfl rfl
  · exact modMem s _

theorem setEmpty (s : State) (l : Nat) (b : Bool) : s.KeepsOps (s.setEmpty l b) := by
  unfold State.setEmpty
  split
  · exact modCore s _ rfl rfl
  · exact modMem s _

theorem write (s : State) (l : Nat) (bs : List Byte) : s.KeepsOps (s.write l bs) :=
  State.recode_keeps (P := s.KeepsOps) (fun t _ _ _ h => h.trans (setBad t _ _)) (setBytes s l bs)

theorem homeWrite (s : State) (line : Nat) : s.KeepsOps (s.homeWrite line) := refl s

theorem homeWrites (s : State) (lines : List Nat) : s.KeepsOps (lines.foldl State.homeWrite s) := foldl homeWrite lines s

theorem homeSet (s : State) (l n v : Nat) : s.KeepsOps (s.homeSet l n v) := (homeWrites s _).trans (setBytes _ _ _)

theorem feStep (s : State) (op : FeOp) (l : Nat) (v : Word) (d : Nat) : s.KeepsOps (s.feStep op l v d).1 := by
  cases op with
  | ldfp => exact refl s
  | stf => exact (write s _ _).trans (setEmpty _ _ _)
  | ldf | markE | markF => exact setEmpty s _ _

theorem fill (s : State) (x : SId) (seq : Nat) (ds : List Dest) (t : Option TrapInfo) : s.KeepsOps (s.fill x seq ds t) :=
  (modStrand s _ _).trans (post _ _ _)

theorem serveWaiters (n : Nat) (s : State) (l : Nat) : s.KeepsOps (s.serveWaiters n l) := by
  induction n generalizing s with
  | zero => exact refl s
  | succ n ih =>
    unfold State.serveWaiters
    split
    · exact refl s
    · dsimp only
      split
      · exact (modMem s _).trans ((fill _ _ _ _ _).trans (ih _))
      · exact (modMem s _).trans ((feStep _ _ _ _ _).trans ((fill _ _ _ _ _).trans (ih _)))

theorem notify (s : State) (job index va : Nat) : s.KeepsOps (s.notify job index va) := by
  unfold State.notify
  dsimp only
  split
  · exact modMem s _
  · split
    · exact (homeWrites s _).trans ((write _ _ _).trans ((homeSet _ _ _ _).trans ((setEmpty _ _ _).trans (serveWaiters _ _ _))))
    · exact modMem s _

theorem countAccess (s : State) (job va pa n : Nat) : s.KeepsOps (s.countAccess job va pa n) := by
  induction n generalizing s with
  | zero => exact refl s
  | succ n ih =>
    unfold State.countAccess
    dsimp only
    split
    · exact (ite ((homeSet s _ _ _).trans (notify _ _ _ _)) (homeSet s _ _ _)).trans (ih _)
    · exact refl s

theorem countLeaf (s : State) (job : Nat) (leaf : Option Word) (va pa n : Nat) : s.KeepsOps (s.countLeaf job leaf va pa n) := by
  unfold State.countLeaf
  split
  · split
    · exact countAccess s _ _ _ _
    · exact refl s
  · exact refl s

theorem countLines (s : State) (x : SId) (seq : Nat) (counted : List (Nat × Nat)) : s.KeepsOps (s.countLines x seq counted) := by
  unfold State.countLines
  refine List.foldlRecOn counted _ (motive := fun acc : State × NSet => s.KeepsOps acc.1) (refl s) fun acc hacc e _ => ?_
  dsimp only
  split
  · exact hacc
  · exact hacc.trans (countLeaf _ _ _ _ _ _)

theorem unblock (s : State) (x : SId) : s.KeepsOps (s.unblock x) := modStrand s _ _

theorem recallLocked (s : State) (g : Reg) (k : CopyKind) : s.KeepsOps (s.recallLocked g k) :=
  foldl (fun t _ => modMem t _) _ s

theorem noteLate (s : State) (x : SId) (item : LateItem) (t : Nat) : s.KeepsOps (s.noteLate x item t) := modStrand s _ _

theorem walkLate (s : State) (x : SId) (va : Word) (loc t : Nat) : s.KeepsOps (s.walkLate x va loc t) := by
  unfold State.walkLate
  split
  · exact refl s
  · split
    · exact refl s
    · dsimp only
      split
      · exact refl s
      · exact .trans (t := { s with choices := _ }) (refl s) ((noteLate _ _ _ _).trans (post _ _ _))

theorem walkPages (s : State) (x : SId) (issue : Nat) (m : List (Nat × Nat)) : s.KeepsOps (s.walkPages x issue m) :=
  foldl (fun t _ => walkLate t _ _ _ _) m s

end State.KeepsOps

/-! ### Registration (R202, R216) -/

section
variable {s v : State} {x : SId} {cmd : CopyCmd} {g : Reg}

/-- A strand without a claim takes a free place of the mailbox and a free entry of the lock table; the operations stay. -/
theorem State.claim_free (hnew : ∀ e ∈ (s.core x.core).claims, e.1 ≠ x) (hbox : (s.core x.core).boxed < 4)
    (hlock : (s.core x.core).lockEntries < 16) :
    ∃ v, s.claim x 1 false = (v, true) ∧ (v.core x.core).ops = (s.core x.core).ops ∧ v.nextId = s.nextId := by
  have hown : ((s.core x.core).claims.filterMap fun e => if e.1 = x then some (0, e.2) else none) = [] :=
    List.filterMap_eq_nil_iff.mpr fun e he => if_neg (hnew e he)
  have hroom : ¬ 16 < (s.core x.core).lockEntries + 1 := by omega
  refine ⟨s.modCore x.core fun k => { k with claims := (x, 1) :: k.claims.filter fun e => e.1 ≠ x }, ?_, ?_, rfl⟩
  · simp [State.claim, hown, Tab.find?, hbox, hroom]
  · rw [State.core_modCore]

/-- A registered copy holds no claim, and the operations are those that were there. -/
theorem State.core_claimed (v : State) (x : SId) : ((v.claimed x).core x.core).ops = (v.core x.core).ops ∧
    ∀ e ∈ ((v.claimed x).core x.core).claims, e.1 ≠ x := by
  unfold State.claimed
  rw [State.core_modCore]
  exact ⟨rfl, fun e he => by simpa using List.of_mem_filter he⟩

/-- The state that a registered operation joins: its strand's claim has gone, its lines are counted and recalled, and its
pages walked (R202, R216, R411). -/
def State.registered (v : State) (x : SId) (seq issue : Nat) (k : CopyKind) (g : Reg) : State :=
  { ((((v.claimed x).countLines x seq g.counted).unblock x).recallLocked g k).walkPages x issue g.pages with
    nextId := v.nextId + 2 }

theorem State.KeepsOps.registered (v : State) (x : SId) (seq issue : Nat) (k : CopyKind) (g : Reg) :
    (v.claimed x).KeepsOps (v.registered x seq issue k g) :=
  (countLines _ _ _ _).trans ((unblock _ _).trans ((recallLocked _ _ _).trans (walkPages _ _ _ _)))

/-- What registering a window without rows and without a follow-on answers. -/
theorem State.performCopy_registers {seq issue : Nat} {gpc : Word} (hk : cmd.kind = .cpy ∨ cmd.kind = .cpym)
    (hfollow : cmd.follow = none) (hclaim : (s.endRegion x).claim x 1 false = (v, true))
    (hmesh : v.meshOutside x cmd.record = none) (hg : v.regUnits x cmd.kind cmd.record (layElems cmd.record x.core) = g)
    (hbad : g.bad = none) (hblocked : g.blocked = none) :
    ∃ dt, s.performCopy x seq gpc issue cmd = .done (((v.registered x seq issue cmd.kind g).modCore x.core fun k =>
      { k with ops := k.ops ++ [(v.newCopy x gpc cmd false (s.strand x).regs.csr.mpx.toNat).addReg g],
               array := k.array ++ [] }).post dt (.copyStart x.core)) := by
  have hrows : (decide (cmd.kind = .gath) || decide (cmd.kind = .scat)) = false := by rcases hk with hk | hk <;> rw [hk] <;> rfl
  apply Exists.intro
  unfold State.performCopy
  simp only [hrows, hfollow, hclaim, hmesh, hg, hbad, hblocked, Option.isSome_none, Bool.false_eq_true, if_false, Bool.false_and]
  rfl

/-- The locks that a copy writes: lines of memory where it leads out of scratch, else chunks of scratch (R216). -/
theorem Reg.locks_snd (g : Reg) (hk : cmd.kind = .cpy ∨ cmd.kind = .cpym) : (g.locks cmd.kind).2 =
    if cmd.kind = .cpym then g.wlocks.map (fun e => (e.1 * 128, 128)) else g.wlocks.map fun e => (e.1 * 16, 16) := by
  rcases hk with hk | hk <;> simp [Reg.locks, lockRanges, CopyKind.isOut, hk]

end

/-- Settles O15: a copy form whose checks pass hands its command to the registration, and a registration that finds room and no
fault leaves its operation behind those of the core. -/
theorem copyFormsRegister : Obligations.CopyFormsRegister := by
  refine ⟨fun s t u w c d a b n hi => ?_, fun s x seq gpc issue cmd hk hfollow => ?_⟩
  · dsimp only
    refine ⟨fun hwaits hd i hmem => ?_, fun hfree hread hlay halign hwin => ?_⟩
    · have hstay (k : CopyKind) : copyEntry k a b none t c = .again .serial (.order false) := withRecord_waits hwaits
      simp only [List.mem_cons, List.not_mem_nil, or_false] at hmem
      rcases hmem with rfl | rfl
      · rw [exec_cpy, execCpy, issue_eq hi hd, hstay]
      · rw [exec_cpym, execCpym, issue_eq hi hd, hstay]
    · have hcopy := copyChecks_ok hread hlay (objectBad_eq_none halign hwin)
      refine ⟨fun hd hclear htime hreg => ?_, fun hd hclear htime hreg => ?_, fun hmesh v m f hfollowRead hf hd hclear htime hreg => ?_,
        fun hmesh hq4 hgdWin hgdAlign hgdEnd => ?_⟩
      · exact issue_go hi hd (copyEntry_done (by decide) hfree hcopy rfl hclear htime hreg)
      · exact issue_go hi hd (copyEntry_done (by decide) hfree hcopy rfl hclear htime hreg)
      · exact issue_go hi hd
          (copyEntry_done (d := some d) (by decide) hfree hcopy (formChecks_cpyx hmesh hfollowRead hf) hclear htime hreg)
      · have hform {k : CopyKind} (hk : k = .gath ∨ k = .scat) := formChecks_rows (u := u) (c := c) hk hmesh hq4 hgdWin hgdAlign hgdEnd
        exact ⟨fun hd hclear htime hreg => issue_go hi hd
            (copyEntry_done (d := some d) (by decide) hfree hcopy (hform (.inl rfl)) hclear htime hreg),
          fun hd hclear htime hreg => issue_go hi hd
            (copyEntry_done (d := some d) (by decide) hfree hcopy (hform (.inr rfl)) hclear htime hreg)⟩
  · dsimp only
    intro hnew hbox hlock
    obtain ⟨v, hclaim, hv, hid⟩ := State.claim_free hnew hbox hlock
    rw [hclaim]
    intro hmesh hbad hblocked
    dsimp only at hmesh hbad hblocked ⊢
    obtain ⟨dt, hdone⟩ := State.performCopy_registers (seq := seq) (issue := issue) (gpc := gpc) hk hfollow hclaim hmesh rfl hbad hblocked
    generalize v.regUnits x cmd.kind cmd.record (layElems cmd.record x.core) = g at hdone ⊢
    obtain ⟨hops, hclaims⟩ := State.KeepsOps.registered v x seq issue cmd.kind g x.core
    obtain ⟨hkept, hgone⟩ := State.core_claimed v x
    refine ⟨_, (v.newCopy x gpc cmd false (s.strand x).regs.csr.mpx.toNat).addReg g, hdone, ?_, hid, rfl, rfl, rfl, rfl, rfl, rfl,
      Reg.locks_snd g hk, ?_, ⟨_, List.mem_append_right _ (List.mem_singleton_self _), rfl⟩⟩
    · rw [State.core_post, State.core_modCore]
      dsimp only
      rw [hops, hkept, hv]
    · rw [State.core_post, State.core_modCore]
      dsimp only
      rw [hclaims]
      exact hgone

end Sys2Proof.Machine
end

section
/-! O26: the map instructions at issue. -/

namespace Sys2Proof.Machine

section
variable {s t u v : State} {c : Ctx}

/-- A map operation's request goes to its home at once where every earlier instruction has passed its fault point (R133). -/
theorem emitRequest_mapKey {lat : Nat} {cmd : MapCmd} (hclear : t.clear c.sid = true)
    (hpage : t.resolve c.sid cmd.handle cmd.q Need.map ≠ .blocked)
    (hlater : t.laterVc c (c.flight (c.vc + lat) (some (.mapKey cmd, .unsent)) none) = none) :
    emitRequest t c lat (.mapKey cmd) =
      .go ((t.addFlight c (c.flight (c.vc + lat) (some (.mapKey cmd, .unsent)) none)).performRequest c.sid c.seq (.mapKey cmd))
        c.next := by
  have hblocked : t.requestBlocked c.sid (.mapKey cmd) = none := if_neg hpage
  simp only [emitRequest, hlater, hclear, hblocked]
  rfl

theorem mapImageBad_eq_none {q : Policy} {handle : Word} (hpol : polOk q = true) (hspace : polSpace q = 0)
    (halign : handle.toNat % 128 = 0) : mapImageBad q handle = none := by
  simp [mapImageBad, hpol, hspace, halign]

/-- The command of a key operation: its operands as they stand at issue (R315). -/
def Ctx.mapCmd (c : Ctx) (op : MapOp) (d : EField) (a b : RField) (p : PField) (qn : QField) : MapCmd :=
  { op := op, handle := c.g (gA a), key := c.regs.readG (c.h.x (gB b) + 1) ++ c.regs.readG (c.h.x (gB b)),
    val := c.regs.readG (c.h.x (gPair d) + 2) ++ c.regs.readG (c.h.x (gPair d)), new := c.regs.readG (c.h.x (gPair d) + 1),
    d := c.h.x (gPair d), b := c.h.x (gB b), p := p.toNat, q := c.q qn }

/-- A key operation whose image and handle pass checks 1 and 2 of R317 sends its request. -/
theorem keyOperation_sends {op : MapOp} {d : EField} {a b : RField} {p : PField} {qn : QField} (hi : Issuing s t c)
    (hd : decodeTrap policyHints [gPair d, gA a, gB b] false t c = none) (hclear : t.clear c.sid = true)
    (hpol : polOk (c.q qn) = true) (hspace : polSpace (c.q qn) = 0) (halign : (c.g (gA a)).toNat % 128 = 0)
    (hpage : t.resolve c.sid (c.g (gA a)) (c.q qn) Need.map ≠ .blocked)
    (hlater : t.laterVc c (c.flight (c.vc + 200) (some (.mapKey (c.mapCmd op d a b p qn), .unsent)) none) = none) :
    keyOperation op d a b p qn s =
      .next (((t.addFlight c (c.flight (c.vc + 200) (some (.mapKey (c.mapCmd op d a b p qn), .unsent)) none)).performRequest
        c.sid c.seq (.mapKey (c.mapCmd op d a b p qn))).finish c (c.pc + 4)) := by
  refine issue_go hi hd ?_
  rw [keyEntry, mapImageBad_eq_none hpol hspace halign]
  exact emitRequest_mapKey hclear hpage hlater

theorem State.performEffect_getn {x : SId} {seq issue : Nat} {gpc : Word} {cmd : CopyCmd} {stuck : Option ParkReason}
    (hk : cmd.kind = .mapgetn) (hreg : t.performGetn x seq gpc issue cmd = .done v) :
    t.performEffect x ⟨seq, issue, gpc, .copy cmd, stuck⟩ = .done v := by
  simp only [State.performEffect, if_pos hk, hreg]

end

/-- Settles O26: key operations send their requests, MAPNEW and the operations on whole maps park, and MAPGETN hands its request to
the registration. -/
theorem mapFormsComplete : Obligations.MapFormsComplete := by
  refine ⟨fun s t c d a b pd qn hi hclear hd => ?_, fun s t c d a b qn hi => ?_⟩
  · intro q n k handle R hpol hspace halign hpage i op hmem cmd f hlater
    have hsends := keyOperation_sends (op := op) (p := pd) hi hd hclear hpol hspace halign hpage hlater
    simp only [List.mem_cons, List.not_mem_nil, or_false, Prod.mk.injEq] at hmem
    obtain ⟨rfl, rfl⟩ | ⟨rfl, rfl⟩ | ⟨rfl, rfl⟩ | ⟨rfl, rfl⟩ | ⟨rfl, rfl⟩ | ⟨rfl, rfl⟩ := hmem <;> exact hsends
  · dsimp only
    refine ⟨fun hd => ?_, fun hd => ?_, fun hd m hm => ?_, fun hfree hd hpol halign u n l leaf hread hres hparm => ?_,
      fun hfree hd u v m n hmap hread hkeys hout halign hwin hgetn hclear => ?_⟩
    · rw [Parks, exec_mapscan, execMapscan, issue_wait hi hd rfl]
    · constructor
      · rw [Parks, exec_mapstl, execMapstl, issue_wait hi hd rfl]
      · rw [Parks, exec_mapclr, execMapclr, issue_wait hi hd rfl]
    · rw [Parks, exec_mapinfo, execMapinfo, issue_wait hi hd]
      simp only [hm]
    · rw [Parks, exec_mapnew, execMapnew, issue_wait hi hd]
      simp only [hpol, halign, withRecord_free hfree, hread, hres, hparm]
      rfl
    · have hobj := objectBad_eq_none halign hwin
      refine ⟨fun hmpx hreg => ?_, fun hmpx htime hreg => ?_⟩ <;> rw [Passes, exec_mapgetn, execMapgetn, issue_go hi hd]
      · have hagain : decide (c.regs.csr.mpx ≠ 0) = true := decide_eq_true hmpx
        have hemit := emit_done (next := c.next) hclear rfl (State.performEffect_getn rfl hreg)
        simp only [hmap, withRecord_free hfree, hread, hkeys, hout, hobj, hgetn, hagain, ne_eq, not_true_eq_false, if_false, if_true,
          Bool.false_eq_true]
        exact hemit
      · have hfirst : decide (c.regs.csr.mpx ≠ 0) = false := decide_eq_false (not_not_intro hmpx)
        have hemit := emit_done (next := c.next) (State.clear_noteStart.trans hclear) rfl (State.performEffect_getn rfl hreg)
        simp only [hmap, withRecord_free hfree, hread, hkeys, hout, hobj, hgetn, hfirst, htime, ne_eq, not_true_eq_false, if_false,
          Bool.false_eq_true]
        exact hemit

end Sys2Proof.Machine
end

section
/-! O32: host queues, and the checks of a launch record. -/

namespace Sys2Proof.Machine

/-! ### Reserved bits (R45) -/

theorem bitOf_eq_getLsbD {n : Nat} (x : BitVec n) (i : Nat) : bitOf x i = x.getLsbD i := by
  rw [BitVec.getLsbD, Nat.testBit_eq_decide_div_mod_eq]
  exact beq_eq_decide _ _

/-- No bit of a range is 1 exactly where each is 0. -/
theorem lowestBit_eq_none {n : Nat} (r : BitVec n) (hi lo : Nat) :
    lowestBit r hi lo = none ↔ ∀ k, lo ≤ k → k ≤ hi → r.getLsbD k = false := by
  simp only [lowestBit, List.findSome?_eq_none_iff, List.mem_range, ite_eq_right_iff, reduceCtorEq, imp_false, Bool.not_eq_true,
    bitOf_eq_getLsbD]
  constructor
  · intro h k hlo hhi
    have := h (k - lo) (by omega)
    rwa [Nat.add_sub_cancel' hlo] at this
  · exact fun h i hi' => h (lo + i) (by omega) (by omega)

/-- The reserved bits of a launch record are 0 (R45). -/
def LaunchClean (r : Rec512) : Prop :=
  ∀ k, (57 ≤ k ∧ k ≤ 63 ∨ 153 ≤ k ∧ k ≤ 159 ∨ 185 ≤ k ∧ k ≤ 191 ∨ 217 ≤ k ∧ k ≤ 223 ∨ 249 ≤ k ∧ k ≤ 255 ∨
    k = 271 ∨ 304 ≤ k ∧ k ≤ 319 ∨ 336 ≤ k ∧ k ≤ 351) → r.getLsbD k = false

theorem mem_launchReserved (k : Nat) : (∃ e ∈ launchReserved, e.1 ≤ k ∧ k ≤ e.2) ↔
    (57 ≤ k ∧ k ≤ 63 ∨ 153 ≤ k ∧ k ≤ 159 ∨ 185 ≤ k ∧ k ≤ 191 ∨ 217 ≤ k ∧ k ≤ 223 ∨ 249 ≤ k ∧ k ≤ 255 ∨
      k = 271 ∨ 304 ≤ k ∧ k ≤ 319 ∨ 336 ≤ k ∧ k ≤ 351) := by
  simp only [launchReserved, List.exists_mem_cons_iff, List.not_mem_nil, false_and, exists_false, or_false]
  omega

theorem reservedBit_launch (r : Rec512) : reservedBit r launchReserved = none ↔ LaunchClean r := by
  simp only [reservedBit, List.findSome?_eq_none_iff, lowestBit_eq_none, LaunchClean, ← mem_launchReserved]
  exact ⟨fun h k ⟨e, he, hlo, hhi⟩ => h e he k hlo hhi, fun h e he k hlo hhi => h k ⟨e, he, hlo, hhi⟩⟩

/-! ### The checks of a launch record in their order (R49) -/

theorem firstFail_eq_none (cs : List (Bool × Bad)) : firstFail cs = none ↔ ∀ e ∈ cs, e.1 = false := by
  simp [firstFail, List.find?_eq_none]

theorem firstFail_cons_true (b : Bad) (cs : List (Bool × Bad)) : firstFail ((true, b) :: cs) = some b := rfl
theorem firstFail_cons_false (b : Bad) (cs : List (Bool × Bad)) : firstFail ((false, b) :: cs) = firstFail cs := rfl

/-- A gang's rectangle and its count, and no rectangle without a gang (R49). -/
def GangOk (r : Rec512) : Prop :=
  if recGang r then 0 < recGw r ∧ recGw r ≤ 24 ∧ 0 < recGh r ∧ recGh r ≤ 24 ∧ recCount r ≤ 7 * (recGw r * recGh r)
  else recGw r = 0 ∧ recGh r = 0

variable {r : Rec512}

/-- A record with a reserved bit that is 1 fails. -/
theorem launchBad_dirty (h : ¬ LaunchClean r) : launchBad r ≠ none := by
  unfold launchBad
  cases hb : reservedBit r launchReserved with
  | none => exact absurd ((reservedBit_launch r).mp hb) h
  | some b => simp

theorem launchBad_count (h : LaunchClean r) (hn : 2 ^ 24 < recCount r) : launchBad r = some (1, 128) := by
  simp only [launchBad, (reservedBit_launch r).mpr h, decide_eq_true hn]
  exact firstFail_cons_true _ _

theorem launchBad_product (h : LaunchClean r) (hn : recCount r ≤ 2 ^ 24) (hp : recSx r * recSy r * recSz r ≠ recCount r) :
    launchBad r = some (2, 128) := by
  simp only [launchBad, (reservedBit_launch r).mpr h, decide_eq_false (Nat.not_lt.mpr hn), decide_eq_true hp]
  rw [firstFail_cons_false, firstFail_cons_true]

theorem launchBad_eq_none_of_clean (h : LaunchClean r) : launchBad r = none ↔ recCount r ≤ 2 ^ 24 ∧
    recSx r * recSy r * recSz r = recCount r ∧ recEntry r % 4 = 0 ∧ recCnt r ≠ 0 ∧ recCnt r ≠ recGraphc r ∧
    (∀ c ∈ recSuccs r, c ≠ 0 → c ≠ recCnt r) ∧ GangOk r := by
  unfold launchBad
  rw [(reservedBit_launch r).mpr h]
  simp only [firstFail_eq_none, List.forall_mem_cons, GangOk]
  cases recGang r <;> simp [and_assoc, Nat.pos_iff_ne_zero]

/-- What a launch record must be to pass R49. -/
theorem launchBad_eq_none : launchBad r = none ↔ LaunchClean r ∧ recCount r ≤ 2 ^ 24 ∧
    recSx r * recSy r * recSz r = recCount r ∧ recEntry r % 4 = 0 ∧ recCnt r ≠ 0 ∧ recCnt r ≠ recGraphc r ∧
    (∀ c ∈ recSuccs r, c ≠ 0 → c ≠ recCnt r) ∧ GangOk r := by
  by_cases h : LaunchClean r
  · rw [launchBad_eq_none_of_clean h, and_iff_right h]
  · exact iff_of_false (launchBad_dirty h) fun hc => h hc.1

/-! ### What a queue answers (R62, R68) -/

section
variable {s : State} {q n : Nat} {aligned : Bool}

theorem State.queueBad_unaligned : s.queueBad q false = some 9 := rfl

theorem State.queueBad_off (h : (s.queue q).en = false) : s.queueBad q true = some 8 := by
  simp [State.queueBad, h]

theorem State.queueBad_noJob (h : (s.queue q).en = true) (hj : Tab.find? s.jobs (s.queue q).job.toNat = none) :
    s.queueBad q true = some 10 := by
  simp [State.queueBad, h, hj]

theorem State.queueBad_full (h : (s.queue q).en = true) (hj : Tab.find? s.jobs (s.queue q).job.toNat ≠ none)
    (hn : 64 ≤ (s.queue q).waiting.length) : s.queueBad q true = some 7 := by
  simp [State.queueBad, h, hj, hn]

theorem State.queueBad_eq_none (h : (s.queue q).en = true) (hj : Tab.find? s.jobs (s.queue q).job.toNat ≠ none)
    (hn : (s.queue q).waiting.length < 64) : s.queueBad q true = none := by
  simp [State.queueBad, h, hj, hn]

/-- A record that the queue does not read is refused with reason n and field 0. -/
theorem State.submit_unread (h : s.queueBad q aligned = some n) : s.submit q aligned r = s.refuseRecord q (n, 0) := by
  simp only [State.submit, h]

section
variable (h : s.queueBad q aligned = none)
include h

theorem State.submit_launch_refused {b : Bad} (hr : recCnt r ≠ 0) (hb : s.launchCheck (s.queue q).job.toNat r = some b) :
    s.submit q aligned r = s.refuseRecord q b := by
  simp only [State.submit, h, if_neg hr, hb]

theorem State.submit_launch (hr : recCnt r ≠ 0) (hb : s.launchCheck (s.queue q).job.toNat r = none) :
    s.submit q aligned r = (s.acceptLaunch (s.queue q).job.toNat r).enqueue q r
      (if ((s.acceptLaunch (s.queue q).job.toNat r).counter (s.queue q).job.toNat (recCnt r)).cancel.isSome then 8
       else Nat.max (s.queue q).prio (recPrio r)) := by
  simp only [State.submit, h, if_neg hr, hb]

theorem State.submit_counter_refused {b : Bad} (hr : recCnt r = 0) (hb : s.counterCheck (s.queue q).job.toNat r = some b) :
    s.submit q aligned r = s.refuseRecord q b := by
  simp only [State.submit, h, if_pos hr, hb]

theorem State.submit_counter (hr : recCnt r = 0) (hb : s.counterCheck (s.queue q).job.toNat r = none) :
    s.submit q aligned r = (s.acceptCounter (s.queue q).job.toNat r).enqueue q r 8 := by
  simp only [State.submit, h, if_pos hr, hb]

end

@[simp] theorem State.counter_setCounter (s : State) (j n : Nat) (c : Counter) : (s.setCounter j n c).counter j n = c := by
  simp [State.setCounter, State.modJob, State.counter, Job.counter]

/-- A queue that is on keeps its job and priority; its EN is firmware's, once it has booted (R60, R431). -/
theorem State.writeQcfg_on {w : Word} (h : (s.queue q).en = true) :
    s.writeQcfg q w = s.setQueue q { s.queue q with en := bitOf w 31 && s.booted } := by
  simp only [State.writeQcfg, if_pos h]

theorem State.writeQcfg_off {w : Word} (h : (s.queue q).en = false) (hw : (s.queue q).waiting = []) :
    s.writeQcfg q w = s.setQueue q { s.queue q with
      en := bitOf w 31 && s.booted, job := BitVec.ofNat 32 (bitsOf w 63 32), prio := bitsOf w 2 0 } := by
  simp only [State.writeQcfg, h, hw, List.foldl_nil, Bool.false_eq_true, if_false]

end

/-- Settles O32: a queue's answers, one for each case of R62 and R68, and the checks of R49 in their order. -/
theorem hostQueueSteps : Obligations.HostQueueSteps := by
  refine ⟨fun s q r w => ?_, fun r => ⟨launchBad_eq_none, launchBad_count, launchBad_product⟩⟩
  refine ⟨fun i hi => ?_, fun hen hj hroom => ?_, fun hen => ?_, fun hen hw => ?_⟩
  · have hexec (aligned : Bool) : exec (i aligned r) s = .next (s.submit q aligned r) := by
      simp only [List.mem_cons, List.not_mem_nil, or_false] at hi
      rcases hi with rfl | rfl
      · exact exec_launchRecord _ _ _ _
      · exact exec_counterRecord _ _ _ _
    rw [hexec, hexec]
    refine ⟨?_, fun hen => ?_, fun hen hj => ?_, fun hen hj hfull => ?_⟩
    · rw [State.submit_unread State.queueBad_unaligned]; rfl
    · rw [State.submit_unread (State.queueBad_off hen)]; rfl
    · rw [State.submit_unread (State.queueBad_noJob hen hj)]; rfl
    · rw [State.submit_unread (State.queueBad_full hen hj hfull)]; rfl
  · have hread := State.queueBad_eq_none hen hj hroom
    refine ⟨fun hr => ⟨fun b hb => ?_, fun hb => ?_⟩, fun hr => ⟨fun b hb => ?_, fun hb => ⟨?_, ?_⟩⟩⟩
    · rw [exec_launchRecord, execLaunchRecord, State.submit_launch_refused hread hr hb]; rfl
    · rw [exec_launchRecord, execLaunchRecord, State.submit_launch hread hr hb]; rfl
    · rw [exec_counterRecord, execCounterRecord, State.submit_counter_refused hread hr hb]; rfl
    · rw [exec_counterRecord, execCounterRecord, State.submit_counter hread hr hb]; rfl
    · exact State.counter_setCounter _ _ _ _
  · rw [exec_qcfgWrite, execQcfgWrite, State.writeQcfg_on hen]
  · rw [exec_qcfgWrite, execQcfgWrite, State.writeQcfg_off hen hw]

end Sys2Proof.Machine
end

section
/-! O35: idle strands pop and steal. -/

namespace Sys2Proof.Machine

/-! ### What a change of a strand, and a look of the dispatcher, leave of the cores -/

/-- What does not look at a core's strands is the same after a change of one. -/
theorem State.core_setStrand_congr {α : Type} (g : Core → α) (hg : ∀ k ts, g { k with strands := ts } = g k) (s : State) (x : SId)
    (st : Strand) (c : Nat) : g ((s.setStrand x st).core c) = g (s.core c) := by
  unfold State.setStrand
  by_cases h : c = x.core
  · subst h
    rw [State.core_modCore, hg]
  · rw [State.core_modCore_ne _ _ h]

@[simp] theorem Core.deque_strands (k : Core) (ts : Tab Strand) (hi : Bool) : ({ k with strands := ts } : Core).deque hi = k.deque hi := by
  cases hi <;> rfl

section
variable (s : State) (x : SId) (f : Strand → Strand) (c : Nat)

@[simp] theorem State.part_modStrand : ((s.modStrand x f).core c).part = (s.core c).part :=
  State.core_setStrand_congr Core.part (fun _ _ => rfl) s x _ c
@[simp] theorem State.coreJob_modStrand : ((s.modStrand x f).core c).job = (s.core c).job :=
  State.core_setStrand_congr Core.job (fun _ _ => rfl) s x _ c
@[simp] theorem State.forward_modStrand : ((s.modStrand x f).core c).forward = (s.core c).forward :=
  State.core_setStrand_congr Core.forward (fun _ _ => rfl) s x _ c
@[simp] theorem State.high_modStrand : ((s.modStrand x f).core c).high = (s.core c).high :=
  State.core_setStrand_congr Core.high (fun _ _ => rfl) s x _ c
@[simp] theorem State.normal_modStrand : ((s.modStrand x f).core c).normal = (s.core c).normal :=
  State.core_setStrand_congr Core.normal (fun _ _ => rfl) s x _ c
@[simp] theorem State.deque_modStrand (hi : Bool) : ((s.modStrand x f).core c).deque hi = (s.core c).deque hi :=
  State.core_setStrand_congr (Core.deque · hi) (fun k ts => Core.deque_strands k ts hi) s x _ c

end

/-- The dispatcher's looks are steps that become due, and nothing else. -/
theorem State.redeal_eq (s : State) : ∃ ag, s.redeal = { s with agenda := ag } := by
  have look (t : State) (e : Event) (ht : ∃ ag, t = { s with agenda := ag }) : ∃ ag, t.postOnce 0 e = { s with agenda := ag } := by
    obtain ⟨ag, rfl⟩ := ht
    rcases State.postOnce_cases { s with agenda := ag } 0 e with h | h <;> exact ⟨_, h⟩
  unfold State.redeal
  refine List.foldlRecOn _ _ (List.foldlRecOn _ _ ⟨s.agenda, rfl⟩ fun t ht l _ => ?_) fun t ht e _ => look t _ ht
  split
  · exact look t _ ht
  · exact ht

@[simp] theorem State.core_redeal (s : State) (c : Nat) : s.redeal.core c = s.core c := by
  obtain ⟨ag, h⟩ := s.redeal_eq
  rw [h]
  rfl

@[simp] theorem State.clock_redeal (s : State) : s.redeal.clock = s.clock := by
  obtain ⟨ag, h⟩ := s.redeal_eq
  rw [h]

/-! ### The start of a record (R44, R80) -/

/-- A strand runs a record from core cycle `first` on, its registers cleared and its control registers set from the record. -/
def State.Starts (u : State) (x : SId) (first : Nat) (r : Rec512) : Prop :=
  let st := u.strand x
  st.run = .running ∧ st.pc = BitVec.ofNat 64 (recEntry r) ∧ st.base = first ∧ st.regs.g = [] ∧ st.regs.v = [] ∧ st.regs.p = [] ∧
  st.regs.csr.taskArg = BitVec.ofNat 64 (recArg r) ∧ st.regs.csr.launchId = BitVec.ofNat 32 (taskLaunchId r) ∧
  st.regs.csr.unitX = BitVec.ofNat 24 (bitsOf r 151 128) ∧ st.regs.csr.unitY = BitVec.ofNat 24 (bitsOf r 183 160) ∧
  st.regs.csr.unitZ = BitVec.ofNat 24 (bitsOf r 215 192) ∧ st.regs.csr.status = ⟨false, false, false, false, false, false⟩

theorem State.starts_startTask (s : State) (x : SId) (r : Rec512) (first : Nat) : (s.startTask x r none first).Starts x first r := by
  unfold State.Starts State.startTask
  rw [State.strand_setStrand]
  exact ⟨rfl, rfl, rfl, rfl, rfl, rfl, rfl, rfl, rfl, rfl, rfl, rfl⟩

@[simp] theorem State.deque_startTask (s : State) (x : SId) (r : Rec512) (first c : Nat) (hi : Bool) :
    ((s.startTask x r none first).core c).deque hi = (s.core c).deque hi :=
  State.core_setStrand_congr (Core.deque · hi) (fun k ts => Core.deque_strands k ts hi) s x _ c

@[simp] theorem Core.deque_setDeque (k : Core) (hi : Bool) (d : List Rec512) : (k.setDeque hi d).deque hi = d := by
  cases hi <;> rfl

@[simp] theorem Core.deque_setDeque_not (k : Core) (hi : Bool) (d : List Rec512) : (k.setDeque hi d).deque (!hi) = k.deque (!hi) := by
  cases hi <;> rfl

@[simp] theorem Core.part_setDeque (k : Core) (hi : Bool) (d : List Rec512) : (k.setDeque hi d).part = k.part := by
  cases hi <;> rfl

theorem isCancelled_eq (r : Rec512) : isCancelled r = r.getLsbD 511 := bitOf_eq_getLsbD r 511

/-- The state in which strand x has taken record r of a deque of core c, where d is left, and starts it in its first slot. -/
def State.started (s : State) (x : SId) (c : Nat) (hi : Bool) (d : List Rec512) (r : Rec512) : State :=
  let t := (s.modCore c fun k => k.setDeque hi d).redeal
  t.startTask x r none (t.firstSlot x)

section
variable {s : State} {x : SId} {c : Nat} {hi : Bool} {d : List Rec512} {r : Rec512}

/-- Neither a deque's change nor the dispatcher's look moves a strand's first slot (R79). -/
theorem State.firstSlot_setDeque :
    ((s.modCore c fun k => k.setDeque hi d).redeal).firstSlot x = nextSlot (s.core x.core).part.strands x.strand (s.clock.cc + 1) := by
  unfold State.firstSlot State.rotation
  rw [State.core_redeal, State.clock_redeal]
  by_cases h : x.core = c
  · rw [h, State.core_modCore, Core.part_setDeque]
    rfl
  · rw [State.core_modCore_ne _ _ h]
    rfl

theorem State.started_starts : (s.started x c hi d r).Starts x (nextSlot (s.core x.core).part.strands x.strand (s.clock.cc + 1)) r := by
  unfold State.started
  dsimp only
  rw [State.firstSlot_setDeque]
  exact State.starts_startTask _ x r _

theorem State.deque_started : ((s.started x c hi d r).core c).deque hi = d := by
  simp [State.started]

theorem State.deque_started_not : ((s.started x c hi d r).core c).deque (!hi) = (s.core c).deque (!hi) := by
  simp [State.started]

end

/-! ### Popping (R81) -/

section
variable {s : State} {x : SId}

/-- A strand that seeks pops the bottom record of its core, the high deque first. -/
theorem State.pop_record {r : Rec512} {rs : List Rec512} {hi : Bool} (hseeks : s.seeks x = true)
    (hhi : (!(s.core x.core).high.isEmpty) = hi) (hd : (s.core x.core).deque hi = r :: rs) (hr : r.getLsbD 511 = false) :
    s.pop x = s.started x x.core hi rs r := by
  have hlive : isCancelled r = false := (isCancelled_eq r).trans hr
  simp only [State.pop, hseeks, hhi, hd, hlive, Bool.not_true, Bool.false_eq_true, if_false]
  rfl

theorem State.pop_empty (hseeks : s.seeks x = true) (hhigh : (s.core x.core).high = []) (hnormal : (s.core x.core).normal = [])
    (hround : (s.strand x).steal.round = 0) : s.pop x = s.beginRound x := by
  have hd : (s.core x.core).deque false = [] := hnormal
  simp [State.pop, hseeks, hhigh, hd, hround]

/-! ### Stealing (R84, R85) -/

/-- Whom a round probes does not hang on what a strand holds. -/
@[simp] theorem State.stealTargets_modStrand (f : Strand → Strand) : (s.modStrand x f).stealTargets x = s.stealTargets x := by
  simp [State.stealTargets]

@[simp] theorem State.stealFrom_modStrand (f : Strand → Strand) (g : Target) : (s.modStrand x f).stealFrom x g = s.stealFrom x g := by
  cases g <;> simp [State.stealFrom]

/-- The core cycles within which a probe is answered (R85). -/
def Target.answerCc : Target → Nat
  | .core _ => 40
  | .die _ => 200

/-- The next probe of a round is sent, to a core or to a die. -/
theorem State.stealSend_probe {g : Target} (hseeks : s.seeks x = true) (hround : (s.strand x).steal.round = 1)
    (hfree : (s.strand x).steal.awaiting = false) (hdue : (s.strand x).steal.due ≤ s.clock.cc)
    (hg : (s.stealTargets x)[(s.strand x).steal.probe]? = some g) :
    s.stealSend x = (s.modStrand x fun st =>
      { st with steal := { st.steal with awaiting := true, due := s.clock.cc + g.answerCc } }).post g.answerCc (.stealReply x) := by
  cases g <;> simp [State.stealSend, hseeks, hround, hfree, hg, Nat.not_lt.mpr hdue, Target.answerCc]

theorem State.stealSend_end (hseeks : s.seeks x = true) (hround : (s.strand x).steal.round = 1)
    (hfree : (s.strand x).steal.awaiting = false) (hdue : (s.strand x).steal.due ≤ s.clock.cc)
    (hg : (s.stealTargets x)[(s.strand x).steal.probe]? = none) :
    s.stealSend x = (s.modStrand x fun st => { st with steal := { st.steal with round := 2, due := s.clock.cc + 64 } }).post 64
      (.stealRoundRetry x) := by
  simp [State.stealSend, hseeks, hround, hfree, hg, Nat.not_lt.mpr hdue]

/-- A probe that finds a record takes the top one of a normal deque and starts it. -/
theorem State.stealAnswer_normal {g : Target} {c : Nat} {rs : List Rec512} {r : Rec512} (hseeks : s.seeks x = true)
    (hawaits : (s.strand x).steal.awaiting = true) (hdue : (s.strand x).steal.due ≤ s.clock.cc)
    (hg : (s.stealTargets x)[(s.strand x).steal.probe]? = some g) (hfrom : s.stealFrom x g = some (c, false))
    (hd : (s.core c).normal = rs ++ [r]) (hr : r.getLsbD 511 = false) :
    s.stealAnswer x = (s.modStrand x fun st => { st with steal := { st.steal with awaiting := false } }).started x c false rs r := by
  have hdeque : (s.core c).deque false = rs ++ [r] := hd
  have hlive : isCancelled r = false := (isCancelled_eq r).trans hr
  simp [State.stealAnswer, hseeks, hawaits, Nat.not_lt.mpr hdue, hg, hfrom, hdeque, hlive, State.started]

theorem State.stealRetry_over (hidle : (s.strand x).run = .idle) (hround : (s.strand x).steal.round = 2)
    (hdue : (s.strand x).steal.due ≤ s.clock.cc) : s.stealRetry x = (s.dropRound x).post 0 (.pop x) := by
  simp [State.stealRetry, hidle, hround, Nat.not_lt.mpr hdue]

theorem State.stealRetry_early (h : (s.strand x).steal.round ≠ 2 ∨ s.clock.cc < (s.strand x).steal.due) : s.stealRetry x = s := by
  rcases h with h | h <;> simp [State.stealRetry, h]

end

/-- Settles O35: pops and steals, one case of each after another. -/
theorem seekingSteps : Obligations.SeekingSteps := by
  intro s x
  dsimp only
  refine ⟨fun hseeks => ⟨fun r rs hhigh hr => ?_, fun r rs hhigh hnormal hr => ?_, fun hhigh hnormal hround => ?_,
    fun hround hfree hdue => ⟨fun c hg => ?_, fun d hg => ?_, fun hg => ?_⟩, fun hawaits hdue g c r rs hg hfrom hd hr => ?_⟩,
    fun hidle hround hdue => ?_, fun h => ?_⟩
  · have hpop := State.pop_record (hi := true) hseeks (by rw [hhigh]; rfl) hhigh hr
    exact ⟨_, by rw [exec_pop, execPop, hpop], State.started_starts, State.deque_started (hi := true),
      State.deque_started_not (hi := true)⟩
  · have hpop := State.pop_record (hi := false) hseeks (by rw [hhigh]; rfl) hnormal hr
    exact ⟨_, by rw [exec_pop, execPop, hpop], State.started_starts, (State.deque_started_not (hi := false)).trans hhigh,
      State.deque_started (hi := false)⟩
  · rw [exec_pop, execPop, State.pop_empty hseeks hhigh hnormal hround, State.beginRound]
  · rw [exec_stealRequest, execStealRequest, State.stealSend_probe hseeks hround hfree hdue hg]
    rfl
  · rw [exec_stealRequest, execStealRequest, State.stealSend_probe hseeks hround hfree hdue hg]
    rfl
  · rw [exec_stealRequest, execStealRequest, State.stealSend_end hseeks hround hfree hdue hg]
  · have hsteal := State.stealAnswer_normal hseeks hawaits hdue hg hfrom hd hr
    refine ⟨_, by rw [exec_stealReply, execStealReply, hsteal], ?_, State.deque_started (hi := false)⟩
    have hstarts := State.started_starts (s := s.modStrand x fun st => { st with steal := { st.steal with awaiting := false } })
      (x := x) (c := c) (hi := false) (d := rs) (r := r)
    rwa [State.part_modStrand] at hstarts
  · rw [exec_stealRoundRetry, execStealRoundRetry, State.stealRetry_over hidle hround hdue, State.dropRound]
  · rw [exec_stealRoundRetry, execStealRoundRetry, State.stealRetry_early h]

end Sys2Proof.Machine
end

section
/-! O27: TSPAWN into a counter that counts as many tasks as its field holds. -/

namespace Sys2Proof.Machine

/-! ### Counters lie in the jobs, which a record's push and a strand's advance leave -/

theorem State.counter_of_jobs {s t : State} (h : t.jobs = s.jobs) (j n : Nat) : t.counter j n = s.counter j n := by
  rw [State.counter, State.counter, State.job, State.job, h]

@[simp] theorem State.postOnce_jobs (s : State) (dt : Nat) (e : Event) : (s.postOnce dt e).jobs = s.jobs := by
  rcases s.postOnce_cases dt e with h | h <;> rw [h]
  rfl

@[simp] theorem State.pushRecord_jobs (s : State) (c : Nat) (r : Rec512) (hi top : Bool) : (s.pushRecord c r hi top).jobs = s.jobs := by
  unfold State.pushRecord
  split
  · split
    · rfl
    · exact State.postOnce_jobs _ _ _
  · refine List.foldlRecOn _ _ (motive := fun t : State => t.jobs = s.jobs) rfl fun t ht x _ => ?_
    split <;> exact ht

@[simp] theorem State.carryDrain_jobs (s : State) (x : SId) (v : Nat) : (s.carryDrain x v).jobs = s.jobs := by
  unfold State.carryDrain
  dsimp only
  split
  · split <;> rfl
  · rfl

@[simp] theorem State.finish_jobs (s : State) (c : Ctx) (next : Word) : (s.finish c next).jobs = s.jobs := by
  unfold State.finish State.ended State.lookDrain
  split <;> simp [State.advance]

/-- PEND of a counter once an instruction has run. -/
def pendAfter (j n : Nat) : Host.Outcome State Fault Refusal → Nat
  | .next t => (t.counter j n).pend
  | _ => 0

/-- As O27 has it, TSPAWN adds 1 to a number without bound, so that PEND cannot come to 0. -/
theorem pendAfter_ne_zero_of_workFormsComplete (h : Obligations.WorkFormsComplete) {s t u : State} {c : Ctx} {pd : PField} {a : RField} {n : Nat}
    (hi : Issuing s t c) (hd : decodeTrap {} [gA a] false t c = none) (hfree : (t.strand c.sid).nextWaits false = false)
    (hread : t.readRecord c.sid (c.g (gA a)) 64 64 = (u, .inl n)) (hclear : u.clear c.sid = true)
    (hcheck : u.spawnCheck c.sid (BitVec.ofNat 512 n) = none)
    (hroom : (((u.endRegion c.sid).core c.sid.core).deque (taskHi (BitVec.ofNat 512 n))).length < 256) :
    pendAfter ((u.endRegion c.sid).jobOf c.sid) (taskLaunchId (BitVec.ofNat 512 n)) (exec (.tspawn pd a) s) ≠ 0 := by
  obtain ⟨-, hrecord, -⟩ := h s t c pd a hi hd
  obtain ⟨hspawn, -⟩ := hrecord u n hfree hread hclear
  have hpasses := hspawn hcheck
  dsimp only at hpasses
  rw [if_neg (Nat.not_le.mpr hroom)] at hpasses
  rw [hpasses, pendAfter, State.counter_of_jobs (State.finish_jobs _ _ _), State.counter_of_jobs (State.pushRecord_jobs _ _ _ _ _),
    State.counter_of_jobs (State.modStrand_jobs _ _ _), State.counter_setCounter]
  exact Nat.succ_ne_zero _

/-! ### A full counter -/

/-- A counter that waits for 2^32 - 1 tasks, the most that PEND holds (R66); a counter record's EXPECT may ask for as many. -/
def fullCounter : Counter := { Counter.zero with state := .active, pend := 2 ^ 32 - 1 }

/-- Strand 0 of core 0 is about to issue; its counter 1 is full, and g1 names a task record of that counter, entry 0, at the base
of its scratch. -/
def fullSpawn : State :=
  ((State.reset.loaded.setCounter 1 1 fullCounter).modStrand ⟨0, 0⟩ fun st =>
    { st with regs := st.regs.writeG 1 (BitVec.ofNat 64 Config.scratchBase) }).setByte (Config.scratchLoc 0 28) 1

/-- The state in which its instruction issues, and what the instruction's entry is given. -/
def fullSpawnAt : State := fullSpawn.atIssue ⟨0, 0⟩ (fullSpawn.issueVc ⟨0, 0⟩)
def fullSpawnCtx : Ctx := (fullSpawnAt.strand ⟨0, 0⟩).ctx ⟨0, 0⟩ (fullSpawn.issueVc ⟨0, 0⟩)

theorem issuing_fullSpawn : Issuing fullSpawn fullSpawnAt fullSpawnCtx :=
  ⟨by decide +kernel, by decide +kernel, rfl, rfl⟩

/-- The state that the read of the record leaves. -/
def fullSpawnRead : State := (fullSpawnAt.readRecord ⟨0, 0⟩ (fullSpawnCtx.g (gA (1 : RField))) 64 64).1

theorem readRecord_fullSpawn :
    fullSpawnAt.readRecord fullSpawnCtx.sid (fullSpawnCtx.g (gA (1 : RField))) 64 64 = (fullSpawnRead, .inl (2 ^ 224)) :=
  Prod.ext rfl (by decide +kernel)

/-- PEND is a field of 32 bits: TSPAWN adds 1 to it modulo 2^32 (R66, R69). -/
theorem pend_tspawn_fullSpawn : pendAfter ((fullSpawnRead.endRegion fullSpawnCtx.sid).jobOf fullSpawnCtx.sid)
    (taskLaunchId (BitVec.ofNat 512 (2 ^ 224))) (exec (.tspawn 0 1) fullSpawn) = 0 := by decide +kernel

/-- Refutes O27: where PEND is 2^32 - 1, TSPAWN leaves 0 in the 32 bits of the field, and not the 2^32 that the statement has. -/
theorem not_workFormsComplete : ¬ Obligations.WorkFormsComplete := by
  intro h
  have hpend := pendAfter_ne_zero_of_workFormsComplete h (pd := 0) issuing_fullSpawn (by decide +kernel) (by decide +kernel) readRecord_fullSpawn
    (by decide +kernel) (by decide +kernel) (by decide +kernel)
  exact hpend pend_tspawn_fullSpawn

end Sys2Proof.Machine
end

section
/-! Steps that become due: what asking for them leaves of the state. -/

namespace Sys2Proof.Machine

/-- The second state is the first with further steps due. -/
def State.Asks (s t : State) : Prop := ∃ ds, t = { s with agenda := s.agenda ++ ds }

namespace State.Asks

variable {s t u : State}

theorem refl (s : State) : s.Asks s := ⟨[], by rw [List.append_nil]⟩

theorem trans (h : s.Asks t) (h' : t.Asks u) : s.Asks u := by
  obtain ⟨ds, rfl⟩ := h
  obtain ⟨es, rfl⟩ := h'
  exact ⟨ds ++ es, by rw [List.append_assoc]⟩

theorem ite {p : Prop} [Decidable p] (ht : s.Asks t) (hu : s.Asks u) : s.Asks (if p then t else u) := by
  split <;> assumption

/-- A fold only asks for steps where every element does. -/
theorem foldl {α : Type} {f : State → α → State} (h : ∀ (t : State) (a : α), t.Asks (f t a)) (as : List α) (s : State) :
    s.Asks (as.foldl f s) :=
  List.foldlRecOn as f (motive := s.Asks) (refl s) fun t ht a _ => ht.trans (h t a)

theorem post (s : State) (dt : Nat) (e : Event) : s.Asks (s.post dt e) := ⟨[⟨s.clock.cc + dt, e⟩], rfl⟩

theorem postOnce (s : State) (dt : Nat) (e : Event) : s.Asks (s.postOnce dt e) := by
  rcases s.postOnce_cases dt e with h | h <;> rw [h]
  · exact refl s
  · exact post s dt e

theorem postAll (s : State) (es : List Event) : s.Asks (s.postAll es) := foldl (fun t e => post t 0 e) es s

/-! ### What is left as it was -/

theorem core (h : s.Asks t) (c : Nat) : t.core c = s.core c := by obtain ⟨ds, rfl⟩ := h; rfl
theorem strand (h : s.Asks t) (x : SId) : t.strand x = s.strand x := by obtain ⟨ds, rfl⟩ := h; rfl
theorem mem (h : s.Asks t) : t.mem = s.mem := by obtain ⟨ds, rfl⟩ := h; rfl
theorem jobs (h : s.Asks t) : t.jobs = s.jobs := by obtain ⟨ds, rfl⟩ := h; rfl
theorem job (h : s.Asks t) (j : Nat) : t.job j = s.job j := by obtain ⟨ds, rfl⟩ := h; rfl
theorem clock (h : s.Asks t) : t.clock = s.clock := by obtain ⟨ds, rfl⟩ := h; rfl
theorem disp (h : s.Asks t) : t.disp = s.disp := by obtain ⟨ds, rfl⟩ := h; rfl
theorem nextId (h : s.Asks t) : t.nextId = s.nextId := by obtain ⟨ds, rfl⟩ := h; rfl
theorem due (h : s.Asks t) {d : Due} (hd : d ∈ s.agenda) : d ∈ t.agenda := by
  obtain ⟨ds, rfl⟩ := h
  exact List.mem_append_left _ hd

/-! ### The looks of the device's agents -/

theorem wake (s : State) (f : SId → Park → Bool) : s.Asks (s.wake f) := foldl (fun t _ => ite (post t _ _) (refl t)) _ s

theorem wakeCore (s : State) (c : Nat) : s.Asks (s.wakeCore c) := wake s _

theorem redeal (s : State) : s.Asks s.redeal :=
  (foldl (fun t _ => ite (postOnce t _ _) (refl t)) _ s).trans (foldl (fun t _ => postOnce t _ _) _ _)

theorem gangsLook (s : State) : s.Asks s.gangsLook := foldl (fun t _ => ite (post t _ _) (refl t)) _ s

theorem tlbLook (s : State) : s.Asks s.tlbLook := by
  refine foldl (fun t y => ?_) _ s
  split
  · split
    · exact postOnce t _ _
    · exact refl t
  · exact refl t

theorem markersLook (s : State) (c : Nat) : s.Asks (s.markersLook c) := by
  unfold State.markersLook
  split
  · exact ite (postAll s _) (refl s)
  · exact refl s

theorem enginesLook (s : State) (c : Nat) : s.Asks (s.enginesLook c) := (markersLook s c).trans (tlbLook _)

theorem waitersLook (s : State) : s.Asks s.waitersLook :=
  foldl (fun t _ => (ite (postOnce t _ _) (refl t)).trans (ite (postOnce _ _ _) (refl _))) _ s

theorem lookDrain (s : State) (x : SId) : s.Asks (s.lookDrain x) := ite (postOnce s _ _) (refl s)

theorem lookPark (s : State) (x : SId) : s.Asks (s.lookPark x) := by
  have hs : s.Asks s := refl s
  have once (e : Event) : s.Asks (s.postOnce 0 e) := postOnce s 0 e
  unfold State.lookPark
  repeat' split
  all_goals simp only [hs, once]

theorem look (s : State) (x : SId) : s.Asks (s.look x) := (lookPark s x).trans (lookDrain _ x)

theorem nextRequest (s : State) (x : SId) : s.Asks (s.nextRequest x) := by
  unfold State.nextRequest
  split
  · split
    · exact postOnce s _ _
    · exact postOnce s _ _
    · exact refl s
  · exact refl s

theorem storesLook (s : State) (x : SId) : s.Asks (s.storesLook x) := by
  unfold State.storesLook
  split
  · exact ite (postOnce s _ _) (refl s)
  · exact refl s

end State.Asks

end Sys2Proof.Machine
end

section
/-! O33: the dispatcher. -/

namespace Sys2Proof.Machine

/-! ### The order in which work is served (R65) -/

theorem State.serveBefore_iff (s : State) (a b : Serve) : s.serveBefore a b = true ↔
    (s.counter a.of.1 a.of.2).prio < (s.counter b.of.1 b.of.2).prio ∨
      ((s.counter a.of.1 a.of.2).prio = (s.counter b.of.1 b.of.2).prio ∧
        (s.counter a.of.1 a.of.2).stamp < (s.counter b.of.1 b.of.2).stamp) := by
  simp [State.serveBefore]

theorem State.serveBefore_asymm (s : State) {a b : Serve} (h : s.serveBefore a b = true) : s.serveBefore b a = false := by
  rw [← Bool.not_eq_true, State.serveBefore_iff]
  rw [State.serveBefore_iff] at h
  omega

theorem State.not_serveBefore_trans (s : State) {a b c : Serve} (hab : s.serveBefore a b = false) (hbc : s.serveBefore b c = false) :
    s.serveBefore a c = false := by
  rw [← Bool.not_eq_true, State.serveBefore_iff] at *
  omega

/-- Of what has been found so far and one more, what is served first. -/
def State.serveFirst (s : State) (m : Option Serve) (a : Serve) : Option Serve :=
  match m with
  | none => some a
  | some b => if s.serveBefore a b then some a else m

/-- What can be served now, returned records first. -/
def State.servable (s : State) : List Serve :=
  (s.disp.returned.filterMap fun e =>
    if s.flows e.1 then (s.dealTo e.1 (taskHi e.2)).map fun c => Serve.back e.1 e.2 c else none) ++
  s.disp.launches.filterMap s.canServe

theorem State.nextServe_eq (s : State) : s.nextServe = s.servable.foldl s.serveFirst none := rfl

/-- What a search ends with is one of those searched, and none of them comes before it. -/
theorem State.foldl_serveFirst (s : State) {as : List Serve} {m : Option Serve} {a : Serve} (h : as.foldl s.serveFirst m = some a) :
    (a ∈ as ∨ m = some a) ∧ ∀ b, b ∈ as ∨ m = some b → s.serveBefore b a = false := by
  induction as generalizing m with
  | nil =>
    obtain rfl : m = some a := h
    refine ⟨.inr rfl, fun b hb => ?_⟩
    obtain rfl : a = b := by simpa using hb
    exact Bool.eq_false_iff.mpr fun ha => Bool.noConfusion (ha.symm.trans (s.serveBefore_asymm ha))
  | cons x as ih =>
    obtain ⟨hmem, hfirst⟩ := ih (m := s.serveFirst m x) h
    have hxa : s.serveBefore x a = false ∧ (∀ y, m = some y → s.serveBefore y a = false) ∧
        (s.serveFirst m x = some x ∨ s.serveFirst m x = m) := by
      cases m with
      | none => exact ⟨hfirst x (.inr rfl), fun y hy => (nomatch hy), .inl rfl⟩
      | some y =>
        cases hxy : s.serveBefore x y with
        | true =>
          have hm : s.serveFirst (some y) x = some x := if_pos hxy
          have hx := hfirst x (.inr hm)
          refine ⟨hx, fun z hz => ?_, .inl hm⟩
          obtain rfl := Option.some.inj hz
          exact s.not_serveBefore_trans (s.serveBefore_asymm hxy) hx
        | false =>
          have hm : s.serveFirst (some y) x = some y := if_neg (by simp [hxy])
          have hy := hfirst y (.inr hm)
          refine ⟨s.not_serveBefore_trans hxy hy, fun z hz => ?_, .inr hm⟩
          obtain rfl := Option.some.inj hz
          exact hy
    obtain ⟨hx, hm, hstep⟩ := hxa
    refine ⟨?_, fun b hb => ?_⟩
    · rcases hmem with hmem | hmem
      · exact .inl (List.mem_cons_of_mem x hmem)
      · rcases hstep with hstep | hstep
        · exact .inl (List.mem_cons.mpr (.inl (Option.some.inj (hmem.symm.trans hstep))))
        · exact .inr (hstep.symm.trans hmem)
    · rcases hb with hb | hb
      · rcases List.mem_cons.mp hb with rfl | hb
        · exact hx
        · exact hfirst b (.inl hb)
      · exact hm b hb

section
variable {s : State}

/-- What is served next can be served, and nothing that can be comes before it. -/
theorem State.nextServe_first {a : Serve} (h : s.nextServe = some a) :
    a ∈ s.servable ∧ ∀ b ∈ s.servable, s.serveBefore b a = false := by
  rw [State.nextServe_eq] at h
  obtain ⟨hmem, hfirst⟩ := s.foldl_serveFirst h
  exact ⟨hmem.resolve_right (fun h => nomatch h), fun b hb => hfirst b (.inl hb)⟩

theorem State.servable_launch {l : Launch} {a : Serve} (hl : l ∈ s.disp.launches) (ha : s.canServe l = some a) : a ∈ s.servable :=
  List.mem_append_right _ (List.mem_filterMap.mpr ⟨l, hl, ha⟩)

theorem State.servable_returned {e : Nat × Rec512} {c : Nat} (he : e ∈ s.disp.returned) (hflows : s.flows e.1 = true)
    (hc : s.dealTo e.1 (taskHi e.2) = some c) : .back e.1 e.2 c ∈ s.servable :=
  List.mem_append_left _ (List.mem_filterMap.mpr ⟨e, he, by rw [if_pos hflows, hc]; rfl⟩)

/-! ### What can be served (R82, R86) -/

theorem mem_of_listMin {as : List Nat} {m : Nat} (h : listMin as = some m) : m ∈ as := by
  induction as generalizing m with
  | nil => cases h
  | cons a as ih =>
    simp only [listMin] at h
    split at h
    case h_1 k hk =>
      obtain rfl := Option.some.inj h
      rcases Nat.le_total a k with hak | hak
      · exact List.mem_cons.mpr (.inl (Nat.min_eq_left hak))
      · exact List.mem_cons.mpr (.inr ((congrArg (· ∈ as) (Nat.min_eq_right hak)).mpr (ih hk)))
    case h_2 =>
      obtain rfl := Option.some.inj h
      exact List.mem_cons_self

/-- A record is dealt to a core of its job that takes work and whose deque has room. -/
theorem State.dealTo_open {j c : Nat} {hi : Bool} (h : s.dealTo j hi = some c) :
    c ∈ (s.job j).cores ∧ s.takesWork c = true ∧ ((s.core c).deque hi).length < 16 := by
  have hmem : c ∈ (s.job j).cores.filter fun c => s.takesWork c && ((s.core c).deque hi).length < 16 := by
    unfold State.dealTo at h
    rcases Option.or_eq_some_iff.mp h with h | ⟨-, h⟩
    · exact List.mem_of_mem_filter (mem_of_listMin h)
    · exact mem_of_listMin h
  simpa using hmem

/-- A launch that can be served has been released and its job flows; a gang is placed, else a unit is dealt. -/
theorem State.canServe_cases {l : Launch} {a : Serve} (h : s.canServe l = some a) : l.released = true ∧ s.flows l.job = true ∧
    (recGang l.record = true ∧ a = .place l ∨
      recGang l.record = false ∧ ∃ c, s.dealTo l.job (recLaunchHi l.record) = some c ∧ a = .unit l c) := by
  unfold State.canServe at h
  split at h
  · cases h
  case isFalse hopen =>
    simp only [Bool.or_eq_true, Bool.not_eq_true', not_or, Bool.not_eq_false] at hopen
    obtain ⟨hrel, hflows⟩ := hopen
    split at h
    case isTrue hgang =>
      split at h
      · cases h
      · exact ⟨hrel, hflows, .inl ⟨hgang, (Option.some.inj h).symm⟩⟩
    case isFalse hgang =>
      obtain ⟨c, hc, ha⟩ := Option.map_eq_some_iff.mp h
      exact ⟨hrel, hflows, .inr ⟨Bool.eq_false_iff.mpr hgang, c, hc, ha.symm⟩⟩

/-- The core that a record or a unit goes to. -/
def Serve.core : Serve → Option Nat
  | .back _ _ c | .unit _ c => some c
  | .place _ => none

/-- What is served next goes to a core that takes work. -/
theorem State.takesWork_of_nextServe {a : Serve} {c : Nat} (h : s.nextServe = some a) (hc : a.core = some c) : s.takesWork c = true := by
  obtain ⟨hmem, -⟩ := State.nextServe_first h
  rcases List.mem_append.mp hmem with hmem | hmem
  · obtain ⟨e, -, he⟩ := List.mem_filterMap.mp hmem
    split at he
    · obtain ⟨d, hd, rfl⟩ := Option.map_eq_some_iff.mp he
      obtain rfl := Option.some.inj hc
      exact (State.dealTo_open hd).2.1
    · cases he
  · obtain ⟨l, -, hl⟩ := List.mem_filterMap.mp hmem
    obtain ⟨-, -, ⟨-, rfl⟩ | ⟨-, d, hd, rfl⟩⟩ := State.canServe_cases hl
    · cases hc
    · obtain rfl := Option.some.inj hc
      exact (State.dealTo_open hd).2.1

/-! ### Dealing (R76, R82) -/

/-- A record enters a deque of a core that no gang holds, and idle strands look. -/
theorem State.asks_pushRecord {c : Nat} (r : Rec512) (hi top : Bool) (h : s.gangHolds c = false) :
    (s.modCore c fun k => k.setDeque hi (if top then k.deque hi ++ [r] else r :: k.deque hi)).Asks (s.pushRecord c r hi top) := by
  unfold State.pushRecord
  rw [if_neg (by simp [h])]
  exact .foldl (fun t x => .ite (.post t _ _) (.refl t)) _ _

/-- A record is dealt to the bottom of a deque of a core that takes work. -/
theorem State.asks_dealRecord {j c : Nat} (r : Rec512) (h : s.takesWork c = true) :
    ((s.modJob j fun b => { b with lastDealt := some c }).modCore c fun k => k.setDeque (taskHi r) (r :: k.deque (taskHi r))).Asks
      (s.dealRecord j c r) := by
  have hfree : s.gangHolds c = false := by
    simp only [State.takesWork, Bool.and_eq_true, Bool.not_eq_true'] at h
    exact h.2
  exact State.asks_pushRecord (s := s.modJob j fun b => { b with lastDealt := some c }) r (taskHi r) false hfree

/-- The state in which the dispatcher, changed by f, has dealt a record of job j to core c. -/
def State.dealing (s : State) (f : Dispatcher → Dispatcher) (j c : Nat) (r : Rec512) : State := ((s.modDisp f).dealRecord j c r).redeal

section
variable {j c : Nat} {r : Rec512} {f : Dispatcher → Dispatcher} (h : s.takesWork c = true)
include h

theorem State.asks_dealing : (((s.modDisp f).modJob j fun b => { b with lastDealt := some c }).modCore c fun k =>
    k.setDeque (taskHi r) (r :: k.deque (taskHi r))).Asks (s.dealing f j c r) :=
  (State.asks_dealRecord (s := s.modDisp f) r h).trans (.redeal _)

theorem State.deque_dealing : ((s.dealing f j c r).core c).deque (taskHi r) = r :: (s.core c).deque (taskHi r) := by
  rw [(State.asks_dealing h).core, State.core_modCore, Core.deque_setDeque]
  rfl

theorem State.lastDealt_dealing : ((s.dealing f j c r).job j).lastDealt = some c := by
  rw [(State.asks_dealing h).job]
  exact congrArg Job.lastDealt (State.job_setJob _ _ _)

theorem State.disp_dealing : (s.dealing f j c r).disp = f s.disp := (State.asks_dealing h).disp

end

theorem State.dealOne_unit {l : Launch} {c : Nat} (h : s.nextServe = some (.unit l c)) :
    s.dealOne = s.dealing (·.dealt l) l.job c (unitRecord l.record l.next) := by
  simp only [State.dealOne, h, State.dealing]

theorem State.dealOne_back {j c : Nat} {r : Rec512} (h : s.nextServe = some (.back j r c)) :
    s.dealOne = s.dealing (fun d => { d with returned := d.returned.erase (j, r) }) j c r := by
  simp only [State.dealOne, h, State.dealing]

/-! ### Taking a launch (R63) -/

/-- The state in which the dispatcher has taken a launch, whose counter has its place in the order of acceptance. -/
def State.taken (s : State) (j : Nat) (r : Rec512) (p : Nat) : State :=
  let c := s.counter j (recCnt r)
  let l : Launch := ⟨j, r, p, 0, c.state = .active⟩
  ({ s with nextId := s.nextId + 1 }.setCounter j (recCnt r) { c with prio := p, stamp := s.nextId }).modDisp fun d =>
    { d with launches := d.launches ++ [l] }

@[simp] theorem State.counter_taken (s : State) (j : Nat) (r : Rec512) (p : Nat) :
    (s.taken j r p).counter j (recCnt r) = { s.counter j (recCnt r) with prio := p, stamp := s.nextId } :=
  (State.counter_of_jobs (State.modDisp_jobs _ _) j _).trans (State.counter_setCounter _ _ _ _)

theorem State.asks_takeLaunch {j p : Nat} {r : Rec512} (hp : p < 8) (hn : 0 < recCount r) (hj : Tab.find? s.jobs j ≠ none) :
    (s.taken j r p).Asks (s.takeLaunch j r p) := by
  have htaken : ¬((p = 8 || recCount r = 0 || (Tab.find? s.jobs j).isNone) = true) := by
    simp [Nat.ne_of_lt hp, Nat.ne_of_gt hn, hj]
  unfold State.takeLaunch
  rw [if_neg htaken]
  exact .ite (.redeal _) (.refl _)

/-! ### Starting a gang (R87) -/

/-- A strand runs a gang's task from a core cycle on. -/
def State.InGang (s : State) (g cc : Nat) (x : SId) : Prop :=
  (s.strand x).run = .running ∧ (s.strand x).base = cc ∧ (s.strand x).gang = some g

theorem State.inGang_startTask (s : State) (g cc : Nat) (x : SId) (r : Rec512) : (s.startTask x r (some g) cc).InGang g cc x := by
  unfold State.InGang State.startTask
  rw [State.strand_setStrand]
  exact ⟨rfl, rfl, rfl⟩

/-- The start of another member leaves a member that runs. -/
theorem State.InGang.startTask {g cc : Nat} {x : SId} (h : s.InGang g cc x) (y : SId) (r : Rec512) :
    (s.startTask y r (some g) cc).InGang g cc x := by
  by_cases hxy : x = y
  · rw [hxy]
    exact State.inGang_startTask s g cc y r
  · unfold State.InGang State.startTask
    rwa [State.strand_setStrand_ne _ _ hxy]

/-- Every unit of a gang's launch runs on its member strand from the present core cycle on. -/
theorem State.inGang_releaseGang (s : State) (g : Nat) (v : Gang) (l : Launch) (ch : Nat) {m : Nat} (hm : m < recCount l.record) :
    (s.releaseGang g v l ch).InGang g s.clock.cc ⟨v.cores.getD (m % (v.w * v.h)) 0, m / (v.w * v.h)⟩ := by
  unfold State.releaseGang State.InGang
  dsimp only
  rw [(State.Asks.gangsLook _).strand]
  exact foldl_establishes (P := fun _ => True) (Q := fun t : State => t.InGang g s.clock.cc ⟨v.cores.getD (m % (v.w * v.h)) 0, m / (v.w * v.h)⟩)
    (a := (m, ⟨v.cores.getD (m % (v.w * v.h)) 0, m / (v.w * v.h)⟩)) (fun _ _ _ => trivial) (fun t e _ ht => ht.startTask e.2 _)
    (fun t _ => t.inGang_startTask _ _ _ _) trivial (List.mem_map.mpr ⟨m, List.mem_range.mpr hm, rfl⟩)

section
variable {j n : Nat} {l : Launch} (hl : s.launchOf j n = some l) (hrel : l.released = true) (hgang : recGang l.record = true)
  (hflows : s.flows j = true)
include hl hrel hgang hflows

theorem State.tryGang_place (hplaced : s.placed j n = none) (hserve : s.nextServe = some (.place l)) : s.tryGang j n = s.placeGang l := by
  simp [State.tryGang, hl, hrel, hgang, hflows, hplaced, hserve]

theorem State.tryGang_release {g ch : Nat} {v : Gang} (hplaced : s.placed j n = some (g, v)) (hidle : v.cores.all s.coreIdle = true)
    (hbefore : s.gangBefore v l = false) (hch : s.freeChannel v.die = some ch)
    (hslot : s.clock.cc % (s.core (v.cores.headD 0)).part.strands = 0) :
    s.tryGang j n = s.releaseGang g v l (16 * v.die + ch) := by
  simp only [State.tryGang, hl, hrel, hgang, hflows, hplaced, hidle, hbefore, hch, hslot]
  rfl

end

end

/-- Settles O33: what each step of the dispatcher does, and the order of R65, which the search for the first keeps. -/
theorem dispatcherSteps : Obligations.DispatcherSteps := by
  refine ⟨fun s j n q c l r => ⟨fun p rest hq => ?_, fun rest hq => ?_, fun p hp hn hj => ?_, fun hnext => ?_, fun hnext => ?_,
    fun hnext => ?_, fun hnext => ?_, fun hl hrel hgang hflows => ⟨fun hplaced hserve => ?_, ?_⟩, fun e he => ?_, fun he => ?_⟩,
    fun s => ⟨s.serveBefore_iff, fun a ha => ?_, fun l m c hserve => ?_⟩⟩
  · simp only [exec_dispatcherTake, execDispatcherTake, State.dispatch, State.takeQueue, hq]
  · simp only [exec_dispatcherTake, execDispatcherTake, State.dispatch, hq]
  · have hasks := State.asks_takeLaunch hp hn hj
    refine ⟨congrArg Dispatcher.launches hasks.disp, hasks.nextId, ?_, ?_⟩
    all_goals rw [State.counter_of_jobs hasks.jobs, State.counter_taken]
  · simp only [exec_dealUnit, execDealUnit, State.dealOne, hnext]
  · have hwork := State.takesWork_of_nextServe hnext rfl
    exact ⟨_, by rw [exec_dealUnit, execDealUnit, State.dealOne_unit hnext], State.deque_dealing hwork,
      State.lastDealt_dealing hwork, congrArg Dispatcher.launches (State.disp_dealing hwork)⟩
  · have hwork := State.takesWork_of_nextServe hnext rfl
    exact ⟨_, by rw [exec_dealUnit, execDealUnit, State.dealOne_back hnext], State.deque_dealing hwork,
      congrArg Dispatcher.returned (State.disp_dealing hwork)⟩
  · simp only [exec_dealUnit, execDealUnit, State.dealOne, hnext]
  · rw [exec_gangStart, execGangStart, State.tryGang_place hl hrel hgang hflows hplaced hserve]
  · intro g v ch hplaced hidle hbefore hch hslot
    exact ⟨_, by rw [exec_gangStart, execGangStart, State.tryGang_release hl hrel hgang hflows hplaced hidle hbefore hch hslot], rfl,
      fun m hm => s.inGang_releaseGang g v l _ hm⟩
  · simp only [exec_unitRetire, execUnitRetire, State.retireUnit, he]
  · simp only [exec_unitRetire, execUnitRetire, State.retireUnit, he]
  · obtain ⟨-, hfirst⟩ := State.nextServe_first ha
    exact ⟨fun l hl b hb => hfirst b (State.servable_launch hl hb),
      fun e he hflows c hc => hfirst _ (State.servable_returned he hflows hc)⟩
  · obtain ⟨hrel, hflows, ⟨-, hplace⟩ | ⟨hgang, d, hdeal, hunit⟩⟩ := State.canServe_cases hserve
    · cases hplace
    · obtain ⟨rfl, rfl⟩ := Serve.unit.inj hunit
      obtain ⟨hcore, hwork, hroom⟩ := State.dealTo_open hdeal
      exact ⟨rfl, hrel, hgang, hflows, hcore, hwork, hroom⟩

end Sys2Proof.Machine
end

section
/-! What the end of a region, and of a task, leaves: the jobs, and the gang of every other strand. -/

namespace Sys2Proof.Machine

/-- A table whose values have been changed one by one. -/
theorem Tab.find?_map {α β : Type} (f : Nat → α → β) (t : Tab α) (i : Nat) :
    Tab.find? (t.map fun e => (e.1, f e.1 e.2)) i = (Tab.find? t i).map (f i) := by
  induction t with
  | nil => rfl
  | cons e t ih =>
    obtain ⟨k, w⟩ := e
    simp only [List.map_cons, Tab.find?]
    split
    case isTrue hik => rw [hik]; rfl
    case isFalse => exact ih

/-- The jobs, and the gang of every strand, are as they were. -/
structure State.KeepsGangs (s t : State) : Prop where
  jobs : t.jobs = s.jobs
  gang : ∀ y, (t.strand y).gang = (s.strand y).gang

namespace State.KeepsGangs

variable {s t u : State}

theorem refl (s : State) : s.KeepsGangs s := ⟨rfl, fun _ => rfl⟩

theorem trans (h : s.KeepsGangs t) (h' : t.KeepsGangs u) : s.KeepsGangs u :=
  ⟨h'.jobs.trans h.jobs, fun y => (h'.gang y).trans (h.gang y)⟩

theorem ite {p : Prop} [Decidable p] (ht : s.KeepsGangs t) (hu : s.KeepsGangs u) : s.KeepsGangs (if p then t else u) := by
  split <;> assumption

/-- A fold keeps the gangs where every element does. -/
theorem foldl {α : Type} {f : State → α → State} (h : ∀ (t : State) (a : α), t.KeepsGangs (f t a)) (as : List α) (s : State) :
    s.KeepsGangs (as.foldl f s) :=
  List.foldlRecOn as f (motive := s.KeepsGangs) (refl s) fun t ht a _ => ht.trans (h t a)

theorem asks (h : s.Asks t) : s.KeepsGangs t := ⟨h.jobs, fun y => congrArg Strand.gang (h.strand y)⟩

theorem modMem (s : State) (f : MemSys → MemSys) : s.KeepsGangs (s.modMem f) := ⟨rfl, fun _ => rfl⟩

theorem modCore (s : State) (n : Nat) {f : Core → Core} (hf : (f (s.core n)).strands = (s.core n).strands) :
    s.KeepsGangs (s.modCore n f) := by
  refine ⟨rfl, fun y => ?_⟩
  unfold State.strand Core.strand
  by_cases h : y.core = n
  · rw [h, State.core_modCore, hf]
  · rw [State.core_modCore_ne _ _ h]

theorem modStrand (s : State) (x : SId) {f : Strand → Strand} (hf : (f (s.strand x)).gang = (s.strand x).gang) :
    s.KeepsGangs (s.modStrand x f) := by
  refine ⟨rfl, fun y => ?_⟩
  by_cases h : y = x
  · rw [h, State.strand_modStrand, hf]
  · rw [State.strand_modStrand_ne _ _ h]

/-! ### Writes to memory and scratch -/

theorem setByte (s : State) (l : Nat) (b : Byte) : s.KeepsGangs (s.setByte l b) := ite (modCore s _ rfl) (modMem s _)

theorem setBytes (s : State) (l : Nat) (bs : List Byte) : s.KeepsGangs (s.setBytes l bs) := by
  induction bs generalizing s l with
  | nil => exact refl s
  | cons b bs ih => exact (setByte s l b).trans (ih _ _)

theorem setBad (s : State) (l : Nat) (b : Bool) : s.KeepsGangs (s.setBad l b) := ite (modCore s _ rfl) (modMem s _)

theorem write (s : State) (l : Nat) (bs : List Byte) : s.KeepsGangs (s.write l bs) :=
  State.recode_keeps (P := s.KeepsGangs) (fun t _ _ _ h => h.trans (setBad t _ _)) (setBytes s l bs)

theorem homeWrite (s : State) (line : Nat) : s.KeepsGangs (s.homeWrite line) := ⟨rfl, fun _ => rfl⟩

theorem homeWrites (s : State) (lines : List Nat) : s.KeepsGangs (lines.foldl State.homeWrite s) := foldl homeWrite lines s

theorem homeSet (s : State) (l n v : Nat) : s.KeepsGangs (s.homeSet l n v) := (homeWrites s _).trans (setBytes _ _ _)

theorem trace (s : State) (j r : Nat) : s.KeepsGangs (s.trace j r) := by
  unfold State.trace
  refine ite (refl s) ?_
  exact (ite (homeSet s _ _ _) (refl s)).trans ((homeWrites _ _).trans ((write _ _ _).trans (homeSet _ _ _ _)))

/-! ### The end of a region (R341, R342) -/

theorem ownHeld (s : State) (cluster line : Nat) : s.KeepsGangs (s.ownHeld cluster line) := by
  unfold State.ownHeld
  split
  · refine ite (homeWrite s line) ?_
    unfold State.own
    split
    · exact ite (refl s) (modMem s _)
    · exact refl s
  · exact homeWrite s line

theorem commitHeld (s : State) (x : SId) (hs : List Held) : s.KeepsGangs (s.commitHeld x hs) :=
  (foldl (fun t i => ownHeld t _ i) _ s).trans (foldl (fun t _ => setByte t _ _) hs _)

theorem endRegion (s : State) (x : SId) : s.KeepsGangs (s.endRegion x) := by
  have hcommit := (commitHeld s x (s.strand x).region.held).trans
    (modStrand _ x (f := fun st => { st with region := Region.empty }) rfl)
  exact ite hcommit (hcommit.trans (asks (.tlbLook _)))

/-! ### What a strand leaves at its task's end -/

theorem commitSvec (s : State) (x : SId) : s.KeepsGangs (s.commitSvec x) := by
  unfold State.commitSvec
  dsimp only
  split
  · exact (modCore s _ rfl).trans (modStrand _ _ rfl)
  · exact refl s

theorem closeCheck (s : State) (c : Nat) : s.KeepsGangs (s.closeCheck c) :=
  ite ⟨rfl, fun _ => rfl⟩ (refl s)

theorem setWmem (s : State) (x : SId) (w : BitVec 24) : s.KeepsGangs (s.setWmem x w) :=
  (modStrand s x rfl).trans (foldl closeCheck _ _)

theorem dropPlaces (s : State) (x : SId) : s.KeepsGangs (s.dropPlaces x) := by
  refine ⟨rfl, fun y => ?_⟩
  have hcore : ((s.dropPlaces x).core y.core).strands = (s.core y.core).strands := by
    have hfind := Tab.find?_map (fun _ (k : Core) => { k with
      routeWait := k.routeWait.filter fun y => y ≠ x, claims := k.claims.filter fun e => e.1 ≠ x }) s.cores y.core
    simp only [State.core, Tab.get]
    rw [show (s.dropPlaces x).cores = s.cores.map _ from rfl, hfind]
    cases Tab.find? s.cores y.core <;> rfl
  simp only [State.strand, Core.strand, hcore]

theorem leaveEngines (s : State) (x : SId) (base : Nat) : s.KeepsGangs (s.leaveEngines x base) := modCore s _ rfl

end State.KeepsGangs

/-! ### The end of a task (R73, R158) -/

/-- A strand that has left its region, its channels and its places, releases its banks and closes its route. -/
def State.freed (s : State) (x : SId) : State :=
  let t := (((s.endRegion x).commitSvec x).setWmem x 0).dropPlaces x
  let st := t.strand x
  let banks := [0, 1].filter fun b => (t.core x.core).ownsBank x.strand b
  let t := (t.modCore x.core fun k => { k with releasing := (k.releasing ++ banks).dedup }).leaveEngines x st.base
  let t := banks.foldl (fun t b => t.post 0 (.bankRelease x.core (BitVec.ofNat 1 b))) t
  if st.route.isSome then t.post 0 (.routeAutoClose x) else t

theorem State.KeepsGangs.places (s : State) (x : SId) :
    s.KeepsGangs ((((s.endRegion x).commitSvec x).setWmem x 0).dropPlaces x) :=
  (endRegion s x).trans ((commitSvec _ x).trans ((setWmem _ x 0).trans (dropPlaces _ x)))

theorem State.KeepsGangs.freed (s : State) (x : SId) : s.KeepsGangs (s.freed x) :=
  (places s x).trans <| (modCore _ _ rfl).trans <| (leaveEngines _ _ _).trans <|
    (asks (.foldl (fun t _ => .post t _ _) _ _)).trans (asks (.ite (.post _ _ _) (.refl _)))

/-- A strand after its task. -/
def Strand.over (st : Strand) : Strand :=
  { st with
    pending := [], inflight := [], deferred := [], storeBuf := [], park := none, blocked := none, resumed := false, group := [],
    starts := [], woadGot := [], drainT := none, drainCc := 0, held := 0, lates := [], late := [], tookLate := [],
    dying := false, run := if st.gang.isSome then .waiting else .idle }

/-- The state in which a strand's task has ended, before its gang or the dispatcher looks. -/
def State.taskOver (s : State) (x : SId) : State :=
  let t := (s.freed x).modStrand x Strand.over
  if (t.job (t.jobOf x)).run = JobRun.stopping then t.post 0 (.domainStop x) else t

theorem State.asks_taskOver (s : State) (x : SId) : ((s.freed x).modStrand x Strand.over).Asks (s.taskOver x) :=
  .ite (.post _ _ _) (.refl _)

@[simp] theorem State.strand_taskOver (s : State) (x : SId) : (s.taskOver x).strand x = ((s.freed x).strand x).over := by
  rw [(s.asks_taskOver x).strand, State.strand_modStrand]

@[simp] theorem State.taskOver_jobs (s : State) (x : SId) : (s.taskOver x).jobs = s.jobs :=
  (s.asks_taskOver x).jobs.trans (State.KeepsGangs.freed s x).jobs

/-- What follows the end of a task: the strand seeks a record, or is noted as retired in its gang, which may end (R81, R88). -/
def State.afterTask (t : State) (x : SId) (g : Option Nat) : State :=
  match g with
  | none => t.gangsLook.post 0 (.pop x)
  | some g =>
    let t := match Tab.find? t.gangs g with
      | some v => { t with gangs := Tab.put t.gangs g { v with retired := (x :: v.retired).dedup } }
      | none => t
    (t.gangMark x).gangEndCheck g

theorem State.endTask_eq (s : State) (x : SId) : s.endTask x =
    (s.taskOver x).afterTask x (((((s.endRegion x).commitSvec x).setWmem x 0).dropPlaces x).strand x).gang := rfl

/-! ### The end of a gang (R88) -/

/-- The jobs are as they were, and a strand has changed in no more than that it runs nothing and is in no gang. -/
structure State.LeavesGang (s t : State) : Prop where
  jobs : t.jobs = s.jobs
  strand : ∀ y, t.strand y = s.strand y ∨ t.strand y = { s.strand y with run := .idle, gang := none }

namespace State.LeavesGang

variable {s t u : State}

theorem asks (h : s.Asks t) : s.LeavesGang t := ⟨h.jobs, fun y => .inl (h.strand y)⟩

theorem trans (h : s.LeavesGang t) (h' : t.LeavesGang u) : s.LeavesGang u := by
  refine ⟨h'.jobs.trans h.jobs, fun y => ?_⟩
  rcases h.strand y with hy | hy <;> rcases h'.strand y with hy' | hy' <;> rw [hy', hy]
  · exact .inl rfl
  · exact .inr rfl
  · exact .inr rfl
  · exact .inr rfl

theorem leave (s : State) (x : SId) : s.LeavesGang (s.modStrand x fun st => { st with run := .idle, gang := none }) := by
  refine ⟨rfl, fun y => ?_⟩
  by_cases h : y = x
  · rw [h, State.strand_modStrand]
    exact .inr rfl
  · exact .inl (State.strand_modStrand_ne _ _ h)

theorem gangMark (s : State) (x : SId) : s.LeavesGang (s.gangMark x) := by
  unfold State.gangMark
  split
  · exact asks (.refl s)
  · split
    · exact ⟨rfl, fun _ => .inl rfl⟩
    · exact asks (.refl s)

theorem gangEndCheck (s : State) (g : Nat) : s.LeavesGang (s.gangEndCheck g) := by
  unfold State.gangEndCheck
  split
  · exact asks (.refl s)
  · split
    case h_2.isTrue v _ _ =>
      have hleave : s.LeavesGang (v.members.foldl (fun t x => t.modStrand x fun st => { st with run := .idle, gang := none })
          { s with gangs := Tab.drop s.gangs g }) :=
        List.foldlRecOn v.members _ (motive := s.LeavesGang) ⟨rfl, fun _ => .inl rfl⟩ fun t ht x _ => ht.trans (leave t x)
      exact hleave.trans ((asks (.foldl (fun t _ => .post t _ _) _ _)).trans (asks (.redeal _)))
    · exact asks (.refl s)

end State.LeavesGang

theorem State.LeavesGang.afterTask (t : State) (x : SId) (g : Option Nat) : t.LeavesGang (t.afterTask x g) := by
  unfold State.afterTask
  split
  · exact asks ((State.Asks.gangsLook _).trans (.post _ _ _))
  · split
    · exact .trans (t := { t with gangs := Tab.put t.gangs _ _ }) ⟨rfl, fun _ => .inl rfl⟩ ((gangMark _ _).trans (gangEndCheck _ _))
    · exact (gangMark _ _).trans (gangEndCheck _ _)

theorem State.leavesGang_endTask (s : State) (x : SId) : (s.taskOver x).LeavesGang (s.endTask x) := by
  rw [State.endTask_eq]
  exact .afterTask _ _ _

@[simp] theorem State.endTask_jobs (s : State) (x : SId) : (s.endTask x).jobs = s.jobs :=
  (s.leavesGang_endTask x).jobs.trans (s.taskOver_jobs x)

end Sys2Proof.Machine
end

section
/-! O34: counters, the phase barrier, the end of a cancellation, and jobs. -/

namespace Sys2Proof.Machine

@[simp] theorem State.job_modJob (s : State) (j : Nat) (f : Job → Job) : (s.modJob j f).job j = f (s.job j) := State.job_setJob _ _ _

/-! ### The phase barrier (R70) -/

section
variable {s : State} {j die : Nat}

/-- The arrival of an agent that is awaited: the release follows the last one (R70). -/
theorem State.phaseArrive_awaited (hphase : (s.job j).phaseOf ≠ []) (hdie : die ∈ (s.job j).dies) (hnew : die ∉ (s.job j).phaseDies) :
    s.phaseArrive j die =
      let u := s.modJob j fun b => { b with phaseDies := die :: b.phaseDies }
      if ∀ d ∈ (s.job j).dies, d = die ∨ d ∈ (s.job j).phaseDies then u.post 64 (.phaseBarrier j) else u := by
  simp [State.phaseArrive, hphase, hdie, hnew]

/-- The phase ends once the agents of all dies have arrived; the next one's are then asked (R70). -/
theorem State.phaseEnd_arrived {n : Nat} {ns : List Nat} (hphase : (s.job j).phaseOf = n :: ns)
    (hdies : ∀ d ∈ (s.job j).dies, d ∈ (s.job j).phaseDies) :
    s.phaseEnd j =
      let u := ((s.modJob j fun b => { b with phaseOf := ns, phaseDies := [] }).dropForwards j).counters j [.finish n]
      if ns = [] then u else u.phaseCall j := by
  have hall : (s.job j).dies.all (s.job j).phaseDies.contains = true := by simpa using hdies
  simp only [State.phaseEnd, hphase, hall, if_true]

end

/-! ### The end of a cancellation (R74) -/

section
variable {s : State} {j n : Nat}

theorem State.finishCancel_phase (h : n ∈ (s.job j).phaseOf) : s.finishCancel j n = s := by
  simp [State.finishCancel, h]

theorem State.finishCancel_ready (harmed : (s.counter j n).state.armed = true) (hcancel : (s.counter j n).cancel ≠ none)
    (hphase : n ∉ (s.job j).phaseOf) (hready : s.cancelReady j n = true) :
    s.finishCancel j n =
      let u := (s.setCounter j n { s.counter j n with state := .active }).counters j [.complete n]
      if (s.counter j n).parent = 0 then u else u.post 0 (.cancelComplete j (s.counter j n).parent) := by
  simp [State.finishCancel, harmed, Option.isSome_iff_ne_none.mpr hcancel, hphase, hready]

end

/-! ### Jobs (R58, R427, R428) -/

/-- A core that a job has just taken: its deques are empty and its delay accumulators 0. -/
def Core.Taken (j : Nat) (part : Part) (k : Core) : Prop :=
  k.job = some j ∧ k.part = part ∧ k.delays = [] ∧ k.high = [] ∧ k.normal = []

/-- A core that belongs to no job, with empty deques. -/
def Core.Free (k : Core) : Prop := k.job = none ∧ k.high = [] ∧ k.normal = []

/-- A look at a strand changes that strand and asks for steps, and does nothing else. -/
def LooksAtStrand (f : State → SId → State) : Prop := ∀ (t : State) (x : SId), ∃ g : Strand → Strand, (t.modStrand x g).Asks (f t x)

/-- What does not hang on a core's strands holds after a look at a strand where it held before. -/
theorem LooksAtStrand.keeps {f : State → SId → State} (hf : LooksAtStrand f) {P : Core → Prop}
    (hP : ∀ k ts, P { k with strands := ts } = P k) {c : Nat} {t : State} (h : P (t.core c)) (x : SId) : P ((f t x).core c) := by
  obtain ⟨g, hasks⟩ := hf t x
  rw [hasks.core]
  exact (State.core_setStrand_congr P hP t x _ c).mpr h

theorem LooksAtStrand.jobs {f : State → SId → State} (hf : LooksAtStrand f) (t : State) (x : SId) : (f t x).jobs = t.jobs := by
  obtain ⟨g, hasks⟩ := hf t x
  exact hasks.jobs

/-- Every core of a list is changed so that P holds of it, and then some of its strands change: P holds of each in the end. -/
theorem State.foldl_modCore_establishes {P : Core → Prop} (hP : ∀ k ts, P { k with strands := ts } = P k) {F : Core → Core} (hF : ∀ k, P (F k))
    {xs : State → Nat → List SId} {f : State → SId → State} (hf : LooksAtStrand f) {cs : List Nat} {c : Nat}
    (hc : c ∈ cs) (s : State) :
    P ((cs.foldl (fun t c => (xs (t.modCore c F) c).foldl f (t.modCore c F)) s).core c) := by
  refine foldl_establishes (P := fun _ => True) (Q := fun t : State => P (t.core c)) (a := c) (fun _ _ _ => trivial)
    (fun t d _ ht => ?_) (fun t _ => ?_) trivial hc
  · refine List.foldlRecOn _ f (motive := fun t : State => P (t.core c)) ?_ fun t ht x _ => hf.keeps hP ht x
    by_cases hcd : c = d
    · rw [← hcd, State.core_modCore]
      exact hF _
    · rwa [State.core_modCore_ne _ _ hcd]
  · refine List.foldlRecOn _ f (motive := fun t : State => P (t.core c)) ?_ fun t ht x _ => hf.keeps hP ht x
    rw [State.core_modCore]
    exact hF _

theorem State.foldl_modCore_jobs {F : Core → Core} {xs : State → Nat → List SId} {f : State → SId → State}
    (hf : LooksAtStrand f) (cs : List Nat) (s : State) :
    (cs.foldl (fun t c => (xs (t.modCore c F) c).foldl f (t.modCore c F)) s).jobs = s.jobs :=
  List.foldlRecOn cs _ (motive := fun t : State => t.jobs = s.jobs) rfl fun _ ht _ _ =>
    List.foldlRecOn _ f (motive := fun t : State => t.jobs = s.jobs) ht fun t ht x _ => (hf.jobs t x).trans ht

section
variable {s : State} {j n : Nat} {cores : List Nat} {part : Part} {channels : List (Nat × Nat)} {phase : Option Nat}

/-- The state in which a job has its number and its cores seek records (R58, R427). -/
def State.withJob (s : State) (j : Nat) (b : Job) (part : Part) : State :=
  b.cores.foldl (fun t c =>
    let t := t.modCore c fun k => { k with job := some j, part := part, delays := [], high := [], normal := [] }
    (t.userStrands c).foldl (fun t x => (t.dropRound x).post 0 (.pop x)) t) (s.setJob j b)

theorem looksAtStrand_pop : LooksAtStrand fun t x => (t.dropRound x).post 0 (.pop x) := fun _ _ => ⟨_, .post _ _ _⟩

theorem State.job_withJob (s : State) (j : Nat) (b : Job) (part : Part) : (s.withJob j b part).job j = b := by
  have hjobs : (s.withJob j b part).jobs = (s.setJob j b).jobs :=
    State.foldl_modCore_jobs (xs := State.userStrands) looksAtStrand_pop b.cores _
  rw [State.job, hjobs]
  exact State.job_setJob s j b

theorem State.taken_withJob (s : State) (j : Nat) (b : Job) (part : Part) {c : Nat} (hc : c ∈ b.cores) :
    ((s.withJob j b part).core c).Taken j part :=
  State.foldl_modCore_establishes (P := Core.Taken j part) (xs := State.userStrands) (fun _ _ => rfl) (fun _ => ⟨rfl, rfl, rfl, rfl, rfl⟩)
    looksAtStrand_pop hc _

theorem State.createJob_unbooted (h : s.booted = false) : s.createJob j cores n part channels phase = s := by
  simp [State.createJob, h]

theorem State.createJob_free (hboot : s.booted = true) (hj : j < 2 ^ 32) (hcores : cores ≠ [])
    (hfree : ∀ c ∈ cores, (s.core c).job = none ∧ (s.core c).forward = none) (hnew : ∀ e ∈ s.jobs, e.1 % 65536 ≠ j % 65536) :
    s.createJob j cores n part channels phase =
      s.withJob j { Job.empty with cores := cores, nctr := n, channels := channels, phase := phase } part := by
  have hall : (cores.all fun c => (s.core c).job.isNone && (s.core c).forward.isNone) = true := by simpa using hfree
  have hany : (s.jobs.any fun e => e.1 % 65536 = j % 65536) = false := by simpa using hnew
  unfold State.createJob
  refine if_neg ?_
  simp only [hall, hany, hboot, hcores, Nat.not_le.mpr hj, decide_false, Bool.not_true, Bool.or_self, Bool.false_eq_true, not_false_eq_true]

/-- The state in which a job's tasks have ended and its maps have been left, before its cores are free. -/
def State.jobOver (s : State) (j : Nat) : State :=
  let s := (s.tasksOf j).foldl (fun t x => t.endTask x) s
  (s.mem.maps.filter (·.job = j)).foldl State.leaveMap s

theorem State.jobOver_jobs (s : State) (j : Nat) : (s.jobOver j).jobs = s.jobs := by
  have htasks : ((s.tasksOf j).foldl (fun t x => t.endTask x) s).jobs = s.jobs :=
    List.foldlRecOn _ _ (motive := fun t : State => t.jobs = s.jobs) rfl fun t ht x _ => (t.endTask_jobs x).trans ht
  have hleave (t : State) (v : LiveMap) : t.KeepsGangs (t.leaveMap v) := .foldl (fun u _ => .setByte u _ _) _ t
  exact (State.KeepsGangs.foldl hleave _ _).jobs.trans htasks

/-- The job's cores are free, their strands idle (R58). -/
def State.freeCores (s : State) (cs : List Nat) : State :=
  cs.foldl (fun t c =>
    let t := t.modCore c fun k => { k with job := none, forward := none, high := [], normal := [] }
    (t.userStrands c).foldl (fun t x => t.modStrand x fun st => { st with run := .idle, gang := none }) t) s

theorem State.freeCores_jobs (s : State) (cs : List Nat) : (s.freeCores cs).jobs = s.jobs :=
  State.foldl_modCore_jobs (xs := State.userStrands) (fun _ _ => ⟨_, .refl _⟩) cs s

theorem State.free_freeCores (s : State) {cs : List Nat} {c : Nat} (hc : c ∈ cs) : ((s.freeCores cs).core c).Free :=
  State.foldl_modCore_establishes (P := Core.Free) (xs := State.userStrands) (fun _ _ => rfl) (fun _ => ⟨rfl, rfl, rfl⟩)
    (fun _ _ => ⟨_, .refl _⟩) hc s

/-- A job that is destroyed leaves its number and its cores. -/
theorem State.destroyJob_live {b : Job} (h : Tab.find? s.jobs j = some b) :
    (s.destroyJob j).jobs = Tab.drop s.jobs j ∧ ∀ c ∈ b.cores, ((s.destroyJob j).core c).Free := by
  have hjobs : ((s.jobOver j).freeCores b.cores).jobs = s.jobs := (State.freeCores_jobs _ _).trans (s.jobOver_jobs j)
  unfold State.destroyJob
  rw [h]
  exact ⟨congrArg (Tab.drop · j) hjobs, fun c hc => (s.jobOver j).free_freeCores hc⟩

end

/-! ### What happens to a counter (R66, R69, R70) -/

section
variable {s : State} {j n : Nat}

theorem State.counterStep_member (h : (s.counter j n).state = .active) : s.counterStep j (.member n) =
    (s.setCounter j n { s.counter j n with pend := ((s.counter j n).pend + (2 ^ 32 - 1)) % 2 ^ 32 },
      if (s.counter j n).pend = 1 then [.complete n] else []) := by
  simp only [State.counterStep, h]

theorem State.counterStep_member_inactive (h : (s.counter j n).state ≠ .active) : s.counterStep j (.member n) = (s, []) := by
  cases hstate : (s.counter j n).state with
  | active => exact absurd hstate h
  | idle | held | done => simp only [State.counterStep, hstate]

theorem State.counterStep_complete (h : (s.counter j n).level ≠ 2) : s.counterStep j (.complete n) = (s, [.finish n]) := by
  simp only [State.counterStep]
  split
  case h_1 hlevel _ => exact absurd hlevel h
  case h_2 => rfl

/-- A phase counter of a job with phases completes once, and waits for its agents (R70). -/
theorem State.counterStep_complete_phase (h : (s.counter j n).level = 2) (hphase : (s.job j).phase ≠ none) :
    s.counterStep j (.complete n) =
      let t := s.modJob j fun b => { b with phaseOf := b.phaseOf ++ [n] }
      if n ∈ (s.job j).phaseOf then (s, []) else (if (s.job j).phaseOf = [] then t.phaseCall j else t, []) := by
  obtain ⟨p, hp⟩ := Option.ne_none_iff_exists'.mp hphase
  simp only [State.counterStep, h, hp, List.contains_iff_mem]

/-- A counter as its completion leaves it (R69). -/
def Counter.finished (c : Counter) : Counter := { c with state := .done, cancel := none, canc := c.canc || c.cancel.isSome }

theorem State.KeepsGangs.wakeCounter (s : State) (j n : Nat) : s.KeepsGangs (s.wakeCounter j n) := by
  refine foldl (fun t x => ?_) _ s
  split
  · exact ite ((modStrand t x rfl).trans (asks (.post _ _ _))) (refl t)
  · exact refl t

/-- Forwarding entries are no counters (R379). -/
@[simp] theorem State.counter_dropForwards (s : State) (j n : Nat) : (s.dropForwards j).counter j n = s.counter j n := by
  have hjobs (cs : List Nat) : (cs.foldl (fun t c => t.modCore c fun k => { k with forward := none, job := none }) s).jobs = s.jobs :=
    List.foldlRecOn cs _ (motive := fun t : State => t.jobs = s.jobs) rfl fun _ ht _ _ => ht
  simp only [State.counter, State.dropForwards, State.job_modJob]
  exact congrArg (fun bs => (Tab.get Job.empty bs j).counter n) (hjobs _)

/-- A counter that finishes is DONE and signals its successors, then its parent. -/
theorem State.counterStep_finish (s : State) (j n : Nat) :
    (s.counterStep j (.finish n)).1.counter j n = (s.counter j n).finished ∧
    (s.counterStep j (.finish n)).2 = ((s.counter j n).succ.filter (· ≠ 0)).map .signal ++
      (if (s.counter j n).parent ≠ 0 then [.member (s.counter j n).parent] else []) := by
  refine ⟨?_, rfl⟩
  have hkeeps (t : State) (r : Nat) (p : Prop) [Decidable p] :
      t.KeepsGangs ((if p then t.trace j r else t).wakeCounter j n) :=
    (State.KeepsGangs.ite (.trace t j r) (.refl t)).trans (.wakeCounter _ j n)
  have hset := State.counter_setCounter s j n (s.counter j n).finished
  simp only [State.counterStep]
  split
  · rw [State.counter_dropForwards, State.counter_of_jobs (hkeeps _ _ _).jobs]
    exact hset
  · rw [State.counter_of_jobs (hkeeps _ _ _).jobs]
    exact hset

theorem State.counterStep_signal_held (h : (s.counter j n).state = .held) : s.counterStep j (.signal n) =
    if (s.counter j n).pred ≤ 1 then (s.setCounter j n { s.counter j n with pred := 0 }, [.release n])
    else (s.setCounter j n { s.counter j n with pred := (s.counter j n).pred - 1 }, []) := by
  simp only [State.counterStep, h, sub_nonpos]

theorem State.counterStep_signal_unarmed (h : (s.counter j n).state = .idle ∨ (s.counter j n).state = .done) :
    s.counterStep j (.signal n) =
      (s.setCounter j n { s.counter j n with canc := false, state := .idle, pred := (s.counter j n).pred - 1 }, []) := by
  rcases h with h | h <;> simp only [State.counterStep, h]

theorem State.counterStep_release_stopped (h : (s.job j).run = .stopped) : s.counterStep j (.release n) = (s, []) := by
  simp only [State.counterStep, h, if_true]

theorem State.counterStep_release (h : (s.job j).run ≠ .stopped) : s.counterStep j (.release n) =
    let t := s.setCounter j n { s.counter j n with state := .active }
    if (s.counter j n).pend = 0 then (t, [.complete n]) else (t.releaseLaunch j n, []) := by
  simp only [State.counterStep, if_neg h]

end

/-- Settles O34: a step of the phase barrier, of a cancellation, of a job or of a counter in each of its cases. -/
theorem jobAndCounterSteps : Obligations.JobAndCounterSteps := by
  refine ⟨fun s j n die cores part channels phase => ⟨fun hphase hdie hnew => ⟨fun hlast => ?_, fun hmore => ?_⟩, fun p ps hphase hdies => ?_,
    fun hphase => ?_, fun harmed hcancel hphase hready => ?_, fun hboot => ?_, fun hboot hj hcores hfree hnew => ?_, fun hjob => ?_⟩,
    fun s j n => ⟨State.counterStep_member, State.counterStep_member_inactive, State.counterStep_complete, fun h hphase hmem => ?_,
      fun h hphase hmem => ?_, ?_, State.counterStep_signal_held, State.counterStep_signal_unarmed, State.counterStep_release_stopped,
      fun h hpend => ?_, fun h hpend => ?_⟩⟩
  · rw [exec_phaseAgentArrival, execPhaseAgentArrival, State.phaseArrive_awaited hphase hdie hnew]
    exact congrArg _ (if_pos hlast)
  · obtain ⟨d, hd, hne, hnot⟩ := hmore
    rw [exec_phaseAgentArrival, execPhaseAgentArrival, State.phaseArrive_awaited hphase hdie hnew]
    exact congrArg _ (if_neg fun hall => (hall d hd).elim hne hnot)
  · rw [exec_phaseBarrier, execPhaseBarrier, State.phaseEnd_arrived hphase hdies]
  · rw [exec_cancelComplete, execCancelComplete, State.finishCancel_phase hphase]
  · rw [exec_cancelComplete, execCancelComplete, State.finishCancel_ready harmed hcancel hphase hready]
  · rw [exec_jobCreate, execJobCreate, State.createJob_unbooted hboot]
  · exact ⟨_, by rw [exec_jobCreate, execJobCreate, State.createJob_free hboot hj hcores hfree hnew], s.job_withJob j _ part,
      fun c hc => s.taken_withJob j { Job.empty with cores := cores, nctr := n, channels := channels, phase := phase } part hc⟩
  · obtain ⟨hjobs, hcores⟩ := State.destroyJob_live hjob
    exact ⟨_, by rw [exec_jobDestroy, execJobDestroy], hjobs, hcores⟩
  · rw [State.counterStep_complete_phase h hphase]
    exact if_pos hmem
  · rw [State.counterStep_complete_phase h hphase]
    exact if_neg hmem
  · obtain ⟨hcounter, hmore⟩ := s.counterStep_finish j n
    refine ⟨(s.counterStep j (.finish n)).1, Prod.ext rfl hmore, ?_⟩
    rw [hcounter]
    exact ⟨rfl, rfl, rfl, rfl⟩
  · rw [State.counterStep_release h]
    exact if_pos hpend
  · rw [State.counterStep_release h]
    exact if_neg hpend

end Sys2Proof.Machine
end

section
/-! O28: the counter forms, REPART and TEND. -/

namespace Sys2Proof.Machine

variable {s t u : State} {c : Ctx}

/-- An instruction that goes on in a later slot (R95). -/
theorem issue_skip {att : Attach} {us : List Use} {super : Bool} {entry : State → Ctx → Act} {next : Word} {v : Nat} (h : Issuing s t c)
    (hd : decodeTrap att us super t c = none) (he : entry t c = .skip u next v) : issue s att us super entry =
      .next (((u.advance c next).modStrand c.sid fun st => { st with slot := Nat.max st.slot v }).ended c) := by
  rw [issue_eq h hd, he]
  rfl

/-! ### The counter forms (R90, R94 to R96) -/

/-- A number from 1 to the job's last counter names a counter (R90). -/
theorem counterBad_eq_none {x : SId} {w : Word} (hpos : 0 < w.toNat) (hle : w.toNat ≤ (t.job (t.jobOf x)).nctr)
    (hnctr : (t.job (t.jobOf x)).nctr < 2 ^ 32) : counterBad t x w = none := by
  unfold counterBad
  rw [if_neg]
  simp only [Bool.or_eq_true, decide_eq_true_eq]
  omega

section
variable {d a : RField} (hi : Issuing s t c) (hok : counterBad t c.sid (c.g (gA a)) = none)
include hi hok

theorem exec_cntrd_counter (hd : decodeTrap {} [gD d, gA a] false t c = none) :
    Passes s ((t.addFlight c (c.flight (c.vc + 96) (some (.counter (c.g (gA a)).toNat (c.h.x (gD d)), .sent 0)) none)).post 0
      (.homeSliceRequest c.sid c.seq none)) c (.cntrd d a) := by
  rw [Passes, exec_cntrd, execCntrd]
  refine issue_go hi hd ?_
  simp only [hok]
  rfl

theorem exec_cntwait_done (hd : decodeTrap {} [gA a] false t c = none)
    (hdone : ((t.breakAt c.sid c.seq).counter ((t.breakAt c.sid c.seq).jobOf c.sid) (c.g (gA a)).toNat).state = .done) :
    exec (.cntwait a) s = .next ((((t.breakAt c.sid c.seq).advance c (c.pc + 4)).modStrand c.sid fun st =>
      { st with slot := Nat.max st.slot (c.vc + 96) }).ended c) := by
  rw [exec_cntwait, execCntwait]
  refine issue_skip hi hd ?_
  simp only [hok, hdone, if_true]
  rfl

theorem exec_cntwait_parks (hd : decodeTrap {} [gA a] false t c = none)
    (hdone : ((t.breakAt c.sid c.seq).counter ((t.breakAt c.sid c.seq).jobOf c.sid) (c.g (gA a)).toNat).state ≠ .done) :
    Parks s (t.breakAt c.sid c.seq) c (.cntwait a) .barrierPhase (.counter (c.g (gA a)).toNat) := by
  rw [Parks, exec_cntwait, execCntwait]
  refine issue_wait hi hd ?_
  simp only [hok, hdone, if_false]

/-- CANCEL ends the region and cancels, whichever its mode. -/
theorem cancelEntry_performs (kill : Bool) (hd : decodeTrap {} [gA a] false t c = none) (hclear : t.clear c.sid = true) :
    cancelEntry kill a s =
      .next (((t.endRegion c.sid).performCancel (t.jobOf c.sid) (c.g (gA a)).toNat kill).finish c (c.pc + 4)) := by
  refine issue_go hi hd ?_
  simp only [hok]
  exact emit_done hclear rfl rfl

end

/-! ### REPART (R97) -/

/-- An effect that is performed at issue ends the sequence as its instruction says. -/
theorem emitStop_done {eff : Effect} {act : State → Act} (hclear : t.clear c.sid = true)
    (hdone : t.performEffect c.sid ⟨c.seq, c.vc, c.gpc, eff, none⟩ = .done u) : emitStop t c eff act = act u := by
  simp [emitStop, hclear, hdone]

/-- A table of which only some keys are kept. -/
theorem Tab.find?_filter {α : Type} (f : Nat → Bool) (t : Tab α) (i : Nat) :
    Tab.find? (t.filter fun e => f e.1) i = if f i then Tab.find? t i else none := by
  induction t with
  | nil => simp [Tab.find?]
  | cons e t ih =>
    obtain ⟨k, w⟩ := e
    by_cases hik : i = k
    · subst hik
      cases hf : f i <;> simp [hf, Tab.find?, ih]
    · cases hf : f k <;> simp [hf, Tab.find?, hik, ih]

/-- Of strand 0's general registers REPART keeps the first 32 (R97). -/
theorem Regs.readG_filter (r : Regs) (v : Tab VWord) (n : Nat) :
    ({ r with g := r.g.filter fun e => e.1 < 32, v := v } : Regs).readG n = if n < 32 then r.readG n else 0 := by
  unfold Regs.readG Tab.get
  rw [Tab.find?_filter fun k => decide (k < 32)]
  by_cases hn : n < 32
  · simp [hn]
  · simp [hn, show n ≠ 0 by omega]

/-- The strands of a core whose partition changes: all but strand 0 lose their registers. -/
def Core.repartedStrands (k : Core) : Tab Strand := k.strands.map fun e => (e.1, if e.1 = 0 then e.2 else { e.2 with regs := Regs.reset })

theorem Core.find?_repartedStrands (k : Core) : Tab.find? k.repartedStrands 0 = Tab.find? k.strands 0 :=
  (Tab.find?_map (fun n (st : Strand) => if n = 0 then st else { st with regs := Regs.reset }) k.strands 0).trans Option.map_id'

/-- REPART changes the core, lets its idle strands look, and changes the strand that issued it. -/
theorem State.repart_eq (t : State) (x : SId) (p : Part) : ∃ u : State,
    (t.modCore x.core fun k => { k with part := p, strands := k.repartedStrands }).Asks u ∧
    t.repart x p = u.modStrand x fun st =>
      { st with regs := { st.regs with g := st.regs.g.filter fun e => e.1 < 32, v := st.regs.v.filter fun e => e.1 < 16 },
                phase := phaseOf p.strands x.strand st.base } :=
  ⟨_, .foldl (fun u _ => .ite (.post u _ _) (.refl u)) _ _, rfl⟩

/-- What REPART leaves of strand 0's core and registers. -/
theorem State.repart_effect (t : State) {x : SId} (hx : x.strand = 0) (p : Part) : ((t.repart x p).core x.core).part = p ∧
    ∀ n, ((t.repart x p).strand x).regs.readG n = if n < 32 then (t.strand x).regs.readG n else 0 := by
  obtain ⟨u, hasks, hu⟩ := t.repart_eq x p
  rw [hu]
  constructor
  · rw [State.part_modStrand, hasks.core, State.core_modCore]
  · intro n
    have hstrand : u.strand x = t.strand x := by
      rw [hasks.strand, State.strand, State.core_modCore, State.strand, hx]
      exact congrArg (·.getD Strand.reset) (t.core x.core).find?_repartedStrands
    rw [State.strand_modStrand, hstrand]
    exact Regs.readG_filter _ _ n

theorem exec_repart_quiet (hi : Issuing s t c) (hd : decodeTrap {} [] true t c = none) (hx : c.sid.strand = 0)
    (hquiet : t.coreQuiet c.sid = true) (hclear : t.clear c.sid = true) (p : Part) : Passes s (t.repart c.sid p) c (.repart p) := by
  rw [Passes, exec_repart, execRepart]
  refine issue_go hi hd ?_
  simp only [hx, hquiet]
  exact emitStop_done hclear (by simp only [State.performEffect, State.performRepart, hquiet, if_true])

/-! ### TEND (R73, R143, R158) -/

/-- No start vc lies ahead of TEND. -/
theorem tendBad_eq_none {starts : List (Nat × Word × Nat)} {v : Nat} (h : ∀ e ∈ starts, e.1 ≤ v) : tendBad starts v = none := by
  have hnone : (starts.filter fun e => v < e.1) = [] :=
    List.filter_eq_nil_iff.mpr fun e he => by simpa using h e he
  rw [tendBad, hnone]
  rfl

theorem tendBad_single {n v k : Nat} {g : Word} (h : v < n) : tendBad [(n, g, k)] v = some g := by
  simp [tendBad, h, listMin]

/-- A strand's task is over: nothing of it is pending, and the strand is not parked. -/
def Strand.Over (st : Strand) : Prop := st.pending = [] ∧ st.park = none ∧ st.drainT = none ∧ st.dying = false

theorem State.over_endTask (t : State) (x : SId) : ((t.endTask x).strand x).Over := by
  rcases (t.leavesGang_endTask x).strand x with h | h <;> rw [h, State.strand_taskOver]
  all_goals exact ⟨rfl, rfl, rfl, rfl⟩

theorem State.idle_endTask {x : SId} (h : (t.strand x).gang = none) : ((t.endTask x).strand x).run = .idle := by
  have hgang := ((State.KeepsGangs.freed t x).gang x).trans h
  rcases (t.leavesGang_endTask x).strand x with h | h <;> rw [h, State.strand_taskOver]
  exact if_neg (by rw [hgang]; decide)

/-- The end of a task, and a cancellation's look at it. -/
theorem State.asks_finishTask (t : State) (x : SId) : (t.endTask x).Asks (t.finishTask x) := .ite (.post _ _ _) (.refl _)

/-- A strand whose task is over neither carries a stop through nor drains. -/
theorem State.ended_of_over (h : (t.strand c.sid).Over) : t.ended c = t := by
  obtain ⟨-, -, hdrain, hdying⟩ := h
  simp [State.ended, State.carryDrain, State.lookDrain, hdrain, hdying]

theorem exec_tend_performs (hi : Issuing s t c) (hd : decodeTrap {} [] false t c = none)
    (hstarts : ∀ e ∈ (t.strand c.sid).starts, e.1 ≤ c.vc) (hclear : t.clear c.sid = true) :
    exec .tend s = .next ((t.performTend c.sid).ended c) := by
  rw [exec_tend, execTend]
  refine issue_over hi hd ?_
  simp only [tendBad_eq_none hstarts]
  exact emitStop_done hclear rfl

/-- Settles O28: each form performs its effect at issue, and the end of a task leaves nothing of it. -/
theorem counterFormsAndTaskEnd : Obligations.CounterFormsAndTaskEnd := by
  refine ⟨fun s t c d a hi => ⟨fun hpos hle hnctr => ?_, fun hd hx hquiet hclear p => ?_⟩,
    fun s t c hi hd => ⟨fun hstarts hclear => ?_, fun n g k hstarts hahead => ?_⟩⟩
  · have hok := counterBad_eq_none hpos hle hnctr
    refine ⟨exec_cntrd_counter hi hok, fun hd => ⟨exec_cntwait_done hi hok hd, exec_cntwait_parks hi hok hd, fun hclear => ?_⟩⟩
    exact ⟨(exec_cancelDrain a s).trans (cancelEntry_performs hi hok false hd hclear),
      (exec_cancelKill a s).trans (cancelEntry_performs hi hok true hd hclear)⟩
  · obtain ⟨hpart, hregs⟩ := t.repart_effect hx p
    refine ⟨_, exec_repart_quiet hi hd hx hquiet hclear p, hpart, fun r => ⟨fun hr => ?_, fun hr => ?_⟩⟩
    · rw [hregs, if_pos hr]
    · rw [hregs, if_neg (Nat.not_lt.mpr hr)]
  · have hover := (t.retire c.sid .unit (t.strand c.sid).lineage).over_endTask c.sid
    have hasks := (t.retire c.sid .unit (t.strand c.sid).lineage).asks_finishTask c.sid
    have hended : (t.performTend c.sid).ended c = t.performTend c.sid := State.ended_of_over (by rw [State.performTend, hasks.strand]; exact hover)
    refine ⟨_, exec_tend_performs hi hd hstarts hclear, rfl, ?_⟩
    rw [hended, State.performTend, hasks.strand]
    obtain ⟨hpending, hpark, -, -⟩ := hover
    exact ⟨hpending, hpark, State.idle_endTask (t := t.retire c.sid .unit (t.strand c.sid).lineage)⟩
  · rw [exec_tend, execTend]
    refine issue_fault hi hd ?_
    simp only [hstarts, tendBad_single hahead]
    rfl

end Sys2Proof.Machine
end

section
/-! O43: the copy engine. -/

namespace Sys2Proof.Machine

/-! ### Operations that are changed (R203) -/

@[simp] theorem State.ops_modOp (s : State) (c id : Nat) (f : CopyOp → CopyOp) :
    ((s.modOp c id f).core c).ops = (s.core c).ops.map fun p => if p.id = id then f p else p := by
  rw [State.modOp, State.core_modCore]
  rfl

/-- The operation of a number is found after a change that keeps its number. -/
theorem find?_map_op {id : Nat} (f : CopyOp → CopyOp) (hf : ∀ p, (f p).id = p.id) {ops : List CopyOp} {o : CopyOp}
    (h : ops.find? (fun p => p.id = id) = some o) : (ops.map fun p => if p.id = id then f p else p).find? (fun p => p.id = id) = some (f o) := by
  have hid (p : CopyOp) : (if p.id = id then f p else p).id = p.id := by
    split
    · exact hf p
    · rfl
  have ho : o.id = id := by simpa using List.find?_some h
  simp only [List.find?_map, Function.comp_def, hid, h, Option.map_some, ho, if_true]

theorem Tab.mem_of_find? {α : Type} {t : Tab α} {i : Nat} {v : α} (h : Tab.find? t i = some v) : (i, v) ∈ t := by
  induction t with
  | nil => cases h
  | cons e t ih =>
    obtain ⟨k, w⟩ := e
    simp only [Tab.find?] at h
    split at h
    case isTrue hik =>
      obtain rfl := Option.some.inj h
      rw [hik]
      exact List.mem_cons_self
    case isFalse => exact List.mem_cons_of_mem _ (ih h)

/-- A property that a table's values have or lack, where the value written has it just where the one it replaces does. -/
theorem Tab.any_put {α : Type} (g : α → Bool) {t : Tab α} {i : Nat} {v : α} (h : g v = (Tab.find? t i).any g) :
    (Tab.put t i v).any (fun e => g e.2) = t.any fun e => g e.2 := by
  induction t with
  | nil => simpa [Tab.put, Tab.find?] using h
  | cons e t ih =>
    obtain ⟨k, w⟩ := e
    simp only [Tab.find?] at h
    simp only [Tab.put]
    split
    case isTrue hik =>
      rw [if_neg (Nat.ne_of_lt hik)] at h
      rw [List.any_cons, h]
      cases hfind : Tab.find? t i with
      | none => exact Bool.false_or _
      | some x =>
        cases hx : g x with
        | false => simp [hx]
        | true =>
          have hany : t.any (fun e => g e.2) = true := List.any_eq_true.mpr ⟨(i, x), Tab.mem_of_find? hfind, hx⟩
          simp [hx, hany]
    case isFalse =>
      split
      case isTrue hik =>
        rw [if_pos hik] at h
        rw [List.any_cons, List.any_cons, h]
        rfl
      case isFalse hik =>
        rw [if_neg hik] at h
        rw [List.any_cons, List.any_cons, ih h]

/-- An operation of a number is on a core. -/
def Core.hasOp (id : Nat) (k : Core) : Bool := k.ops.any (·.id = id) || k.array.any (·.id = id)

theorem Core.hasOp_modOp {id n : Nat} {f : CopyOp → CopyOp} (hf : ∀ p, (f p).id = p.id) (k : Core) : (k.modOp n f).hasOp id = k.hasOp id := by
  have hid (p : CopyOp) : (if p.id = n then f p else p).id = p.id := by
    split
    · exact hf p
    · rfl
  simp only [Core.hasOp, Core.modOp, List.any_map, Function.comp_def, hid]

/-- A change that keeps an operation's number leaves the operations that have not completed. -/
theorem State.opLive_modOp (s : State) (c n : Nat) {f : CopyOp → CopyOp} (hf : ∀ p, (f p).id = p.id) : (s.modOp c n f).opLive = s.opLive := by
  funext id
  refine Tab.any_put (Core.hasOp id) ?_
  rw [Core.hasOp_modOp hf, State.core, Tab.get]
  cases Tab.find? s.cores c <;> rfl

/-! ### The start of a copy (R79, R203, R204) -/

/-- A copy that starts, with the landings of the rows that wait for no operation. -/
def CopyOp.begun (live : Nat → Bool) (p : CopyOp) : CopyOp :=
  { p with started := true, todo := p.todo ++ (freeRows live p.rows).1, rows := (freeRows live p.rows).2 }

/-- A started operation has no row left to register or to start. -/
def CopyOp.allBegun (o : CopyOp) : Bool := !o.open_ && o.rows = []

section
variable {s : State} {c : Nat} {o : CopyOp} {rest : List CopyOp}

theorem State.ops_begin (s : State) (c id : Nat) :
    (((s.modOp c id fun o => { o with started := true }).startRows c id).core c).ops =
      (s.core c).ops.map fun p => if p.id = id then p.begun s.opLive else p := by
  rw [State.startRows, State.opLive_modOp s c id (f := fun o => { o with started := true }) fun _ => rfl, State.ops_modOp, State.ops_modOp, List.map_map]
  refine List.map_congr_left fun p _ => ?_
  by_cases h : p.id = id
  · simp only [Function.comp_apply, if_pos h, if_true]
    rfl
  · simp only [Function.comp_apply, if_neg h]

/-- The mailbox entry of a started operation empties once its last row has started (R203). -/
theorem State.unbox_started {id : Nat} (hfind : (s.core c).ops.find? (fun p => p.id = id) = some o) (hbox : o.inBox = true)
    (hstarted : o.started = true) (hkind : o.cmd.kind ≠ .mapgetn) : s.unbox c id =
      if o.allBegun then ((s.modOp c id fun o => { o with inBox := false }).wakeCore c).post 0 (.copyStart c) else s := by
  simp [State.unbox, hfind, hbox, hstarted, hkind, CopyOp.allBegun]

/-- A copy as its start leaves it: begun, and out of the mailbox where nothing of it is still to begin. -/
def CopyOp.launched (live : Nat → Bool) (all : Bool) (p : CopyOp) : CopyOp :=
  { p.begun live with inBox := if all then false else p.inBox }

/-- The start of a copy that has bytes to land: its first landing is due (R203). -/
theorem State.startOp_copy (hfind : (s.core c).ops.find? (fun p => p.id = o.id) = some o) (hbox : o.inBox = true)
    (hkind : o.cmd.kind ≠ .mapgetn) (htodo : o.todo ≠ []) : ∃ v : State, s.startOp c o.id = v.post 1 (.byteLanding c o.id 0) ∧
      v.mem = s.mem ∧ (v.core c).ops =
        (s.core c).ops.map fun p => if p.id = o.id then p.launched s.opLive (o.begun s.opLive).allBegun else p := by
  have hops := s.ops_begin c o.id
  have hbegun : (((s.modOp c o.id fun o => { o with started := true }).startRows c o.id).core c).ops.find? (fun p => p.id = o.id) =
      some (o.begun s.opLive) := by
    rw [hops]
    exact find?_map_op (CopyOp.begun s.opLive) (fun _ => rfl) hfind
  have hunbox := State.unbox_started hbegun hbox rfl hkind
  generalize ht : (s.modOp c o.id fun o => { o with started := true }).startRows c o.id = t at hops hbegun hunbox
  have hmem : t.mem = s.mem := by rw [← ht]; rfl
  have hboxes : (t.unbox c o.id).mem = s.mem ∧ ((t.unbox c o.id).core c).ops =
      (s.core c).ops.map fun p => if p.id = o.id then p.launched s.opLive (o.begun s.opLive).allBegun else p := by
    rw [hunbox]
    cases (o.begun s.opLive).allBegun with
    | true =>
      have hasks := (State.Asks.wakeCore (t.modOp c o.id fun o => { o with inBox := false }) c).trans (.post _ 0 (.copyStart c))
      refine ⟨hasks.mem.trans hmem, ?_⟩
      rw [if_pos rfl, hasks.core, State.ops_modOp, hops, List.map_map]
      refine List.map_congr_left fun p _ => ?_
      by_cases h : p.id = o.id
      · simp only [Function.comp_apply, if_pos h, CopyOp.begun, CopyOp.launched, if_true]
      · simp only [Function.comp_apply, if_neg h]
    | false => exact ⟨hmem, hops⟩
  obtain ⟨hmem, hops⟩ := hboxes
  refine ⟨(t.unbox c o.id).post 0 (.copyStart c), ?_, hmem, hops⟩
  have hlaunched : (((t.unbox c o.id).post 0 (.copyStart c)).core c).ops.find? (fun p => p.id = o.id) =
      some (o.launched s.opLive (o.begun s.opLive).allBegun) := by
    rw [State.core_post, hops]
    exact find?_map_op (CopyOp.launched s.opLive (o.begun s.opLive).allBegun) (fun _ => rfl) hfind
  have htodo' : (o.launched s.opLive (o.begun s.opLive).allBegun).todo ≠ [] := by
    simp [CopyOp.launched, CopyOp.begun, htodo]
  unfold State.startOp
  simp only [ht, hlaunched, if_neg htodo']
  exact if_neg hkind

/-- A copy's start vc lies ahead. -/
def State.startAhead (s : State) (o : CopyOp) : Prop := ∃ n, o.cmd.hstart = some n ∧ s.opVc o < n

/-- Nothing keeps the first request of a mailbox from its start (R203, R204, R209). -/
def State.mayStart (s : State) (c : Nat) (o : CopyOp) : Prop :=
  ¬s.startAhead o ∧ s.opHeld o = false ∧ (s.core c).held.length < 4

theorem State.not_startAhead_iff (s : State) (o : CopyOp) : (o.cmd.hstart.any fun n => s.opVc o < n) = false ↔ ¬s.startAhead o := by
  cases h : o.cmd.hstart <;> simp [State.startAhead, h]

section
variable (hbox : (s.core c).ops.filter (fun p => p.inBox && !p.started) = o :: rest)
include hbox

/-- A request that conflicts at its start vc fails (R204). -/
theorem State.tryStart_conflict (hat : o.cmd.hstart = some (s.opVc o)) (hclash : s.opHeld o = true) (hseq : o.cmd.hseq = none) :
    s.tryStart c = s.failStart c o 2 := by
  simp only [State.tryStart, hbox, hat, hclash, hseq]
  rfl

/-- A request whose start vc comes while an earlier one cannot start fails (R203, R204). -/
theorem State.tryStart_behind {p : CopyOp} (hfirst : o.cmd.hstart = some (s.opVc o) → s.opHeld o = true → o.cmd.hseq ≠ none)
    (hstay : ¬s.mayStart c o) (hp : rest.find? (fun p => p.cmd.hstart = some (s.opVc p)) = some p) :
    s.tryStart c = s.failStart c p 1 := by
  have hconflict : ¬((o.cmd.hstart = some (s.opVc o) && s.opHeld o && o.cmd.hseq.isNone) = true) := by
    simpa using hfirst
  have hstart (b : Bool) : ¬((!(o.cmd.hstart.any fun n => s.opVc o < n) && !s.opHeld o && !decide (4 ≤ (s.core c).held.length) && b) = true) := by
    intro h
    simp only [Bool.and_eq_true, Bool.not_eq_true', decide_eq_false_iff_not, Nat.not_le, State.not_startAhead_iff] at h
    obtain ⟨⟨⟨hahead, hclash⟩, hroom⟩, -⟩ := h
    exact hstay ⟨hahead, hclash, hroom⟩
  simp only [State.tryStart, hbox, if_neg hconflict, if_neg (hstart _), hp]

/-- The first request starts once nothing conflicts with it, in a slot of the movement strand or at a start vc (R79, R203). -/
theorem State.tryStart_starts (hstart : s.mayStart c o) (hturn : s.moveSlot c = 0 ∨ o.cmd.hstart = some (s.opVc o) ∨
    ∃ p ∈ rest, p.cmd.hstart = some (s.opVc p)) : s.tryStart c = s.startOp c o.id := by
  obtain ⟨hahead, hclash, hroom⟩ := hstart
  rw [← State.not_startAhead_iff] at hahead
  have hnow : (decide (s.moveSlot c = 0) || decide (o.cmd.hstart = some (s.opVc o)) ||
      rest.any fun p => p.cmd.hstart = some (s.opVc p)) = true := by
    simpa [or_assoc] using hturn
  simp only [State.tryStart, hbox, hahead, hclash, Nat.not_le.mpr hroom, hnow]
  simp

end

end

theorem CopyOp.allBegun_begun (live : Nat → Bool) (o : CopyOp) :
    (o.begun live).allBegun = true ↔ o.open_ = false ∧ (freeRows live o.rows).2 = [] := by
  simp only [CopyOp.allBegun, CopyOp.begun, Bool.and_eq_true, Bool.not_eq_true']
  exact and_congr_right fun _ => decide_eq_true_iff

/-! ### Which landing is next (R211, R212, R222) -/

/-- The search goes from a landing to earlier ones, and ends at one that no earlier one meets. -/
theorem landFirst_unmet {ls : List Land} {l m : Land} {n i k : Nat} (hn : i < n) (hl : ls[landFirst ls n i]? = some l)
    (hk : k < landFirst ls n i) (hm : ls[k]? = some m) : m.meets l = false := by
  induction n generalizing i with
  | zero => cases hn
  | succ n ih =>
    rw [landFirst] at hl hk
    split at hl
    case h_1 hnone => rw [hnone] at hl; cases hl
    case h_2 a ha =>
      rw [ha] at hk
      dsimp only at hk
      split at hl
      case h_1 j hj =>
        rw [hj] at hk
        have hji : j < i := by
          obtain ⟨hlt, -⟩ := List.findIdx?_eq_some_iff_getElem.mp hj
          exact Nat.lt_of_lt_of_le hlt (List.length_take_le _ _)
        exact ih (by omega) hl hk
      case h_2 hj =>
        rw [hj] at hk
        obtain rfl := Option.some.inj (ha.symm.trans hl)
        have hmem : m ∈ ls.take i := List.mem_of_getElem? (i := k) (by rw [List.getElem?_take, if_pos hk, hm])
        simpa using List.findIdx?_eq_none_iff.mp hj m hmem

/-- Bytes that several landings name are written in their order (R212, R222). -/
theorem landIndex_unmet {ls : List Land} {l m : Land} {pick i k : Nat} (h : landIndex ls pick = some i) (hl : ls[i]? = some l)
    (hk : k < i) (hm : ls[k]? = some m) : m.meets l = false := by
  unfold landIndex at h
  split at h
  · cases h
  case isFalse hne =>
    obtain rfl := Option.some.inj h
    exact landFirst_unmet (Nat.mod_lt _ (List.length_pos_iff.mpr hne)) hl hk hm

/-! ### Landings, completion and follow-ons (R206, R211, R213, R221) -/

section
variable {s : State} {c : Nat} {o : CopyOp}

/-- An operation that has more to land than one landing lands one, and the next is due in the next core cycle. -/
theorem State.landStep_lands {core pick i : Nat} {l : Land} {u : State}
    (hu : u = if s.engineRuns (s.fwd core) (.copy (s.fwd core)) then (s.startRows (s.fwd core) o.id).unbox (s.fwd core) o.id else s)
    (hfind : (u.core (s.fwd core)).ops.find? (fun p => p.id = o.id) = some o) (hstarted : o.started = true)
    (hi : landIndex o.todo pick = some i) (hl : o.todo[i]? = some l) (hmore : 1 < o.todo.length ∨ o.rows ≠ []) :
    s.landStep core o.id pick =
      ((((((u.modOp (s.fwd core) o.id fun p => { p.withLanded l with todo := p.todo.eraseIdx i }).landOne o (s.fwd core) l).stampSlots
        (s.fwd core) o.id).completeOp (s.fwd core) o.id).post 1 (.byteLanding (s.fwd core) o.id pick)).enginesLook (s.fwd core)) := by
  have hnext : ¬((decide (o.todo.length = 1) && decide (o.rows = [])) = true) := by
    simp only [Bool.and_eq_true, decide_eq_true_eq, not_and]
    exact fun h1 => hmore.resolve_left (by omega)
  simp only [State.landStep, ← hu, hfind, hstarted, hi, hl, if_neg hnext, Bool.not_true, Bool.false_eq_true, if_false]

/-- An operation has completed: retirements and waiting commands look. -/
theorem State.asks_opDone (s : State) (id : Nat) : (s.modDisp fun d =>
    { d with retiring := d.retiring.map fun r => { r with ops := r.ops.filter (fun k => k ≠ id) } }).Asks (s.opDone id) :=
  (State.Asks.waitersLook _).trans (.foldl (fun t _ => .post t _ _) _ _)

/-- The state in which an operation has left its core, and the commands that wait for it know when they are handed over. -/
def State.withoutOp (s : State) (c id : Nat) : State :=
  s.modCore c fun k =>
    { k with ops := k.ops.filter (fun p => p.id ≠ id),
             array := k.array.map fun a => if a.waitCopy = some id then { a with handAt := s.clock.cc + 1 } else a }

theorem State.core_withoutOp (s : State) (c id : Nat) : (s.withoutOp c id).core c = { s.core c with
    ops := (s.core c).ops.filter (fun p => p.id ≠ id),
    array := (s.core c).array.map fun a => if a.waitCopy = some id then { a with handAt := s.clock.cc + 1 } else a } :=
  State.core_modCore s c _

/-- A copy that has landed whole leaves its core, and its follow-on is handed over in the next core cycle (R211, R221). -/
theorem State.completeOp_eq {id : Nat} (hfind : (s.core c).ops.find? (fun p => p.id = id) = some o) (hstarted : o.started = true)
    (hopen : o.open_ = false) (htodo : o.todo = []) (hrows : o.rows = []) (hkind : o.cmd.kind ≠ .mapgetn) (hfollow : o.cmd.follow ≠ none) :
    ∃ f, s.completeOp c id = (((((((s.withoutOp c id).opDone id).wakeCore c).wake f).post 0 (.copyStart c)).post 0
      (.arrayCommandStart c)).post 1 (.followOnStart c)) := by
  have hwhole : (o.started && !o.open_ && decide (o.todo = []) && decide (o.rows = []) && decide (o.cmd.kind ≠ .mapgetn)) = true := by
    simp [hstarted, hopen, htodo, hrows, hkind]
  apply Exists.intro
  simp only [State.completeOp, hfind, hwhole, Option.isSome_iff_ne_none.mpr hfollow, if_true]
  rfl

theorem State.completeOp_landed {id : Nat} (hfind : (s.core c).ops.find? (fun p => p.id = id) = some o) (hstarted : o.started = true)
    (hopen : o.open_ = false) (htodo : o.todo = []) (hrows : o.rows = []) (hkind : o.cmd.kind ≠ .mapgetn) (hfollow : o.cmd.follow ≠ none) :
    ((s.completeOp c id).core c).ops = ((s.core c).ops.filter fun p => p.id ≠ id) ∧
    ((s.completeOp c id).core c).array =
      ((s.core c).array.map fun a => if a.waitCopy = some id then { a with handAt := s.clock.cc + 1 } else a) ∧
    ⟨s.clock.cc + 1, .followOnStart c⟩ ∈ (s.completeOp c id).agenda := by
  obtain ⟨f, hf⟩ := State.completeOp_eq hfind hstarted hopen htodo hrows hkind hfollow
  rw [hf]
  have hasks := ((s.withoutOp c id).asks_opDone id).trans <| (State.Asks.wakeCore _ c).trans <| (State.Asks.wake _ f).trans <|
    (State.Asks.post _ 0 (.copyStart c)).trans (.post _ 0 (.arrayCommandStart c))
  have hcore := (hasks.core c).trans (s.core_withoutOp c id)
  have hclock := hasks.clock
  generalize ((((((s.withoutOp c id).opDone id).wakeCore c).wake f).post 0 (.copyStart c)).post 0 (.arrayCommandStart c)) = v at hcore hclock
  rw [State.core_post, hcore]
  exact ⟨rfl, rfl, List.mem_append_right _ (by rw [hclock]; exact List.mem_singleton_self _)⟩

/-- A command whose copy has completed is handed over (R221). -/
theorem State.followStep_hands (s : State) (core : Nat) : ∃ u, s.followStep core = u ∧ u.mem = s.mem ∧
    (u.core (s.fwd core)).array = ((s.core (s.fwd core)).array.map fun a =>
      if a.handAt ≠ 0 ∧ a.handAt ≤ s.clock.cc then { a with waitCopy := none, handAt := 0 } else a) ∧
    ∃ d ∈ u.agenda, d.what = .arrayCommandStart (s.fwd core) := by
  refine ⟨_, rfl, rfl, ?_, _, List.mem_append_right _ (List.mem_singleton_self _), rfl⟩
  rw [State.followStep, State.core_post, State.core_modCore]
  simp

/-! ### MAPGETN (R322) -/

theorem State.getnStep_dispatches {core : Nat} (hruns : s.engineRuns (s.fwd core) (.copy (s.fwd core)) = true)
    (hfind : (s.core (s.fwd core)).ops.find? (fun p => p.id = o.id) = some o) (hstarted : o.started = true)
    (hnext : o.next < getnCount o.cmd.record) (hkind : o.cmd.kind = .mapgetn) :
    s.getnStep core o.id = (s.getnDispatch (s.fwd core) o).enginesLook (s.fwd core) := by
  simp [State.getnStep, hruns, hfind, hstarted, hnext, hkind]

theorem State.getnAnswer_last {core pick : Nat} {p : Probe}
    (hfind : (s.core (s.fwd core)).ops.find? (fun p => p.id = o.id) = some o) (hprobes : o.probes = [p]) :
    s.getnAnswer core o.id pick = (s.getnResult (s.fwd core) o 0).enginesLook (s.fwd core) := by
  have hpick : pick % Nat.max 1 [p].length = 0 := Nat.mod_one pick
  simp only [State.getnAnswer, hfind, hprobes, hpick]
  rfl

/-! ### Messages (R209, R210) -/

/-- A held message that may leave has room at its target, and no earlier one waits for that. -/
theorem State.nextHeld_room {i t : Nat} (h : s.nextHeld c = some i) (ht : (s.core c).heldTo[i]? = some t) :
    s.inboxRoom (s.fwd t) = true ∧ t ∉ (s.core c).heldTo.take i := by
  obtain ⟨⟨t', i'⟩, hmem, hfound⟩ := List.exists_of_findSome?_eq_some h
  dsimp only at hfound
  split at hfound
  case isTrue hroom =>
    obtain rfl := Option.some.inj hfound
    obtain rfl : t = t' := Option.some.inj (ht.symm.trans (List.mem_zipIdx_iff_getElem?.mp hmem))
    simpa using hroom
  case isFalse => cases hfound

theorem State.flipStep_sends {core i t : Nat} {m : Msg} (h : s.nextHeld (s.fwd core) = some i) (hm : (s.core (s.fwd core)).held[i]? = some m)
    (ht : (s.core (s.fwd core)).heldTo[i]? = some t) : s.flipStep core =
      ((((s.modCore (s.fwd core) fun k =>
        { k with held := k.held.eraseIdx i, heldTo := k.heldTo.eraseIdx i }).sendMsg t m).freeSteps (s.fwd core)
          (s.core (s.fwd core)).flips.length).wake
            fun x p => x.core = (s.fwd core) && p.reason = .message && p.on = .effect).postAll
              [.heldFlipApply (s.fwd core), .copyStart (s.fwd core)] := by
  simp only [State.flipStep, h, hm, ht]

theorem State.flipStep_none {core : Nat} (h : s.nextHeld (s.fwd core) = none) : s.flipStep core = s := by
  simp only [State.flipStep, h]

/-- The step of an object that waits no longer is one of those that wait. -/
theorem State.freeStep_waits {f : Nat × Nat × Int} (h : s.freeStep c = some f) :
    f ∈ (s.core c).flips ∧ s.stepWaits f.1 f.2.1 f.2.2 = false := by
  have hfree := List.find?_some h
  simp only [Bool.and_eq_true, Bool.not_eq_true'] at hfree
  exact ⟨List.mem_of_find?_eq_some h, hfree.2⟩

theorem State.freeSteps_one {f : Nat × Nat × Int} (h : s.freeStep c = some f) :
    s.freeSteps c 1 = (s.modCore c fun k => { k with flips := k.flips.erase f }).countNow f.1 f.2.1 f.2.2 := by
  simp only [State.freeSteps, h]

/-- What waited for a strand's message goes on (R177, R225). -/
theorem looksAtStrand_messageHere : LooksAtStrand State.messageHere := fun _ x =>
  ⟨_, (State.Asks.nextRequest _ x).trans ((State.Asks.storesLook _ x).trans (.look _ x))⟩

/-- The state in which a message has entered the queue of its target. -/
def State.withMessage (s : State) (c : Nat) (e : Msg) : State :=
  s.modCore c fun k => { k with transit := k.transit.erase e, inbox := k.inbox ++ [e] }

theorem State.messageStep_eq {core pick : Nat} {m e : Msg}
    (hm : (s.core (s.fwd core)).transit[pick % Nat.max 1 (s.core (s.fwd core)).transit.length]? = some m)
    (hroom : (s.core (s.fwd core)).inbox.length < 16)
    (he : (s.core (s.fwd core)).transit.find? (fun n => n.sender = m.sender) = some e) :
    ∃ f x, s.messageStep core pick =
      (if e.kind = 0 then (s.withMessage (s.fwd core) e).messageHere x else s.withMessage (s.fwd core) e).wake f := by
  apply Exists.intro
  apply Exists.intro
  simp only [State.messageStep, hm, he, if_neg (Nat.not_le.mpr hroom)]
  rfl

/-- A message enters the queue of its target, behind those that are there (R210). -/
theorem State.messageStep_enters {core pick : Nat} {m e : Msg}
    (hm : (s.core (s.fwd core)).transit[pick % Nat.max 1 (s.core (s.fwd core)).transit.length]? = some m)
    (hroom : (s.core (s.fwd core)).inbox.length < 16)
    (he : (s.core (s.fwd core)).transit.find? (fun n => n.sender = m.sender) = some e) :
    (s.messageStep core pick).mem = s.mem ∧
    ((s.messageStep core pick).core (s.fwd core)).transit = (s.core (s.fwd core)).transit.erase e ∧
    ((s.messageStep core pick).core (s.fwd core)).inbox = (s.core (s.fwd core)).inbox ++ [e] := by
  obtain ⟨f, x, hf⟩ := State.messageStep_eq hm hroom he
  have hasks := State.Asks.wake (if e.kind = 0 then (s.withMessage (s.fwd core) e).messageHere x else s.withMessage (s.fwd core) e) f
  have hcore : ((s.withMessage (s.fwd core) e).core (s.fwd core)).transit = (s.core (s.fwd core)).transit.erase e ∧
      ((s.withMessage (s.fwd core) e).core (s.fwd core)).inbox = (s.core (s.fwd core)).inbox ++ [e] := by
    rw [State.withMessage, State.core_modCore]
    exact ⟨rfl, rfl⟩
  rw [hf, hasks.mem, hasks.core]
  split
  · obtain ⟨g, hsent⟩ := looksAtStrand_messageHere (s.withMessage (s.fwd core) e) x
    exact ⟨hsent.mem, looksAtStrand_messageHere.keeps (P := fun k => k.transit = (s.core (s.fwd core)).transit.erase e ∧
      k.inbox = (s.core (s.fwd core)).inbox ++ [e]) (fun _ _ => rfl) hcore x⟩
  · exact ⟨rfl, hcore⟩

end

/-! ### O43 -/

/-- A copy that starts lands its first bytes next (R203). -/
theorem State.copyStep_starts {s : State} {core : Nat} {o : CopyOp} {rest : List CopyOp}
    (hbox : (s.core (s.fwd core)).ops.filter (fun p => p.inBox && !p.started) = o :: rest)
    (hfind : (s.core (s.fwd core)).ops.find? (fun p => p.id = o.id) = some o)
    (hruns : s.engineRuns (s.fwd core) (.copy (s.fwd core)) = true) (hstart : s.mayStart (s.fwd core) o)
    (hturn : s.moveSlot (s.fwd core) = 0 ∨ o.cmd.hstart = some (s.opVc o) ∨ ∃ p ∈ rest, p.cmd.hstart = some (s.opVc p))
    (hkind : o.cmd.kind ≠ .mapgetn) (htodo : o.todo ≠ []) :
    (s.copyStep core).mem = s.mem ∧
    ((s.copyStep core).core (s.fwd core)).ops = ((s.core (s.fwd core)).ops.map fun p => if p.id = o.id then
      p.launched s.opLive (o.begun s.opLive).allBegun else p) ∧
    ∃ d ∈ (s.copyStep core).agenda, d.what = .byteLanding (s.fwd core) o.id 0 := by
  have hwaits : o ∈ (s.core (s.fwd core)).ops.filter fun p => p.inBox && !p.started := by
    rw [hbox]
    exact List.mem_cons_self
  obtain ⟨hin, -⟩ : o.inBox = true ∧ o.started = false := by simpa using (List.mem_filter.mp hwaits).2
  obtain ⟨v, hv, hmem, hops⟩ := State.startOp_copy hfind hin hkind htodo
  have hasks := (State.Asks.post v 1 (.byteLanding (s.fwd core) o.id 0)).trans (.enginesLook _ (s.fwd core))
  have hposted := (State.Asks.enginesLook (v.post 1 (.byteLanding (s.fwd core) o.id 0)) (s.fwd core)).due
    (List.mem_append_right _ (List.mem_singleton_self _))
  rw [State.copyStep, if_pos hruns, State.tryStart_starts hbox hstart hturn, hv, hasks.mem, hasks.core]
  exact ⟨hmem, hops, _, hposted, rfl⟩

theorem exec_copyStart_runs {s : State} {core : Nat} (h : s.engineRuns (s.fwd core) (.copy (s.fwd core)) = true) :
    exec (.copyStart core) s = .next ((s.tryStart (s.fwd core)).enginesLook (s.fwd core)) := by
  rw [exec_copyStart, execCopyStart, State.copyStep, if_pos h]

/-- Settles O43: a copy starts once nothing keeps it from that, its landings are written in their order, and messages, commands and
elements go on as R209, R221 and R322 say. -/
theorem copyEngineSteps : Obligations.CopyEngineSteps := by
  unfold Obligations.CopyEngineSteps
  intro s core pick o c k find
  refine ⟨fun rest hbox hruns hfind => ⟨fun hat hclash hseq => ?_, fun hfirst hstay p hp => ?_, fun hstart hturn hkind htodo => ?_⟩,
    ?_, fun ls i n l m hi hl hn hm => landIndex_unmet hi hl hn hm, fun hfind hstarted hnext hkind hruns => ?_, fun hfind p hp => ?_,
    fun i m t hi hm ht => ?_, fun hnone => ?_, fun f hf => ?_, fun m e hm hroom he => ⟨_, rfl, State.messageStep_enters hm hroom he⟩,
    State.followStep_hands s core |>.imp fun u h => ?_, State.completeOp_landed⟩
  · rw [exec_copyStart_runs hruns, State.tryStart_conflict hbox hat hclash hseq]
  · rw [exec_copyStart_runs hruns, State.tryStart_behind hbox hfirst hstay hp]
  · obtain ⟨hmem, hops, hdue⟩ := State.copyStep_starts hbox hfind hruns hstart hturn hkind htodo
    refine ⟨_, rfl, hmem, ?_, hdue⟩
    simp only [CopyOp.launched, CopyOp.allBegun_begun] at hops
    exact hops
  · intro s' hs' hfind hstarted i l hi hl hmore
    rw [exec_byteLanding, execByteLanding, State.landStep_lands hs' hfind hstarted hi hl hmore]
  · rw [exec_mapgetnDispatch, execMapgetnDispatch, State.getnStep_dispatches hruns hfind hstarted hnext hkind]
  · rw [exec_mapgetnResult, execMapgetnResult, State.getnAnswer_last hfind hp]
  · obtain ⟨hroom, hahead⟩ := State.nextHeld_room hi ht
    refine ⟨hroom, hahead, ?_⟩
    rw [exec_heldFlipApply, execHeldFlipApply, State.flipStep_sends hi hm ht]
  · rw [exec_heldFlipApply, execHeldFlipApply, State.flipStep_none hnone]
  · obtain ⟨hmem, hfree⟩ := State.freeStep_waits hf
    exact ⟨hmem, hfree, State.freeSteps_one hf⟩
  · obtain ⟨rfl, hrest⟩ := h
    exact ⟨rfl, hrest⟩

end Sys2Proof.Machine
end

section
/-! O53 and O50: the words of instructions (R98 to R117). -/

namespace Sys2Proof

/-! ### Codes of the small closed sets -/

@[simp] theorem Fmt.ofCode_code (t : Fmt) : Fmt.ofCode t.code = some t := by cases t <;> rfl
@[simp] theorem VCond.ofCode_code (k : VCond) : VCond.ofCode k.code = some k := by cases k <;> rfl
@[simp] theorem Order.ofCode_code (k : Order) : Order.ofCode k.code = some k := by cases k <;> rfl
@[simp] theorem Scope.ofCode_code (k : Scope) : Scope.ofCode k.code = some k := by cases k <;> rfl
@[simp] theorem Part.ofCode_code (p : Part) : Part.ofCode p.code = some p := by cases p <;> rfl

@[simp] theorem Fmt.code_lt (t : Fmt) : t.code < 16 := by cases t <;> decide
@[simp] theorem VCond.code_lt (k : VCond) : k.code < 8 := by cases k <;> decide
@[simp] theorem Order.code_lt (k : Order) : k.code < 8 := by cases k <;> decide
@[simp] theorem Scope.code_lt (k : Scope) : k.code < 8 := by cases k <;> decide
@[simp] theorem Part.code_lt (p : Part) : p.code < 4 := by cases p <;> decide

/-! ### Where several operands share a field of the word -/

section
variable {n l m w : Nat}

theorem toNat_lt_of_pow_le {x : BitVec w} (h : 2 ^ w ≤ m) : x.toNat < m := x.isLt.trans_le h
theorem bit_le_one (k : BitVec 1) : k.toNat ≤ 1 := Nat.le_of_lt_succ k.isLt
theorem toNat_mod_two_eq_one (n : Nat) : (n % 2 == 1).toNat = n % 2 := by
  rcases Nat.mod_two_eq_zero_or_one n with h | h <;> rw [h] <;> rfl

theorem div_high_low (hn : n % m = 0) (hl : l < m) : (n + l) / m = n / m := by
  rw [Nat.add_div_eq_of_add_mod_lt (by rwa [hn, Nat.mod_eq_of_lt hl, Nat.zero_add]), Nat.div_eq_of_lt hl, Nat.add_zero]

theorem mod_high_low (hn : n % m = 0) (hl : l < m) : (n + l) % m = l := by
  rw [Nat.add_mod, hn, Nat.zero_add, Nat.mod_mod, Nat.mod_eq_of_lt hl]

/-- The operation of an atomic stands below its flag and its policy (R112). -/
theorem atomic_op (q : Nat) : (n + q * 32) % 16 = n % 16 := by omega
theorem atomic_op_zero (q : Nat) : q * 32 % 16 = 0 := by omega
theorem atomic_flags (q : QField) (z : Bool) (hl : l < 16) : (l + q.toNat * 32 + z.toNat * 16) / 32 = q.toNat ∧
    (l + q.toNat * 32 + z.toNat * 16) / 16 % 2 = z.toNat := by
  have := z.toNat_lt
  omega
theorem atomic_flags_zero (q : QField) (z : Bool) : (q.toNat * 32 + z.toNat * 16) / 32 = q.toNat ∧
    (q.toNat * 32 + z.toNat * 16) / 16 % 2 = z.toNat := by
  simpa using atomic_flags q z (l := 0)

/-- MRDACC's flag stands between its operation and its bank (R115). -/
theorem mrdacc_op (r : Bool) (k : BitVec 1) : (96 + r.toNat * 2 + k.toNat) / 16 = 6 ∧
    (96 + r.toNat * 2 + k.toNat) / 4 % 4 = 0 := by
  have := r.toNat_lt
  omega
theorem mrdacc_flag (r : Bool) : (96 + r.toNat * 2) / 2 % 2 = r.toNat := by
  have := r.toNat_lt
  omega

/-- A map request's predicate and policy stand below its operation (R116). -/
theorem map_op (p q : BitVec 3) (hn : n % 64 = 0) : (n + p.toNat * 8 + q.toNat) / 64 = n / 64 := by omega
theorem map_op_zero (p q : BitVec 3) : (p.toNat * 8 + q.toNat) / 64 = 0 := by omega
theorem map_pred (p : BitVec 3) (hn : n % 64 = 0) : (n + p.toNat * 8) / 8 % 8 = p.toNat := by omega

/-- A branch's predicate stands above the top of its offset (R117). -/
theorem branch_d (p : PField) (o : BitVec 22) : (p.toNat * 4 + o.toNat / 1048576) / 32 = 0 ∧
    (32 + p.toNat * 4 + o.toNat / 1048576) / 32 = 1 := by omega
theorem branch_pred (p : PField) : (32 + p.toNat * 4) / 4 % 8 = p.toNat := by omega

/-- A long immediate is cut over the fields of the word. -/
theorem cut_join (n : Nat) : n / 1048576 * 1048576 + n / 16384 % 64 * 16384 + n / 256 % 64 * 256 + n % 256 = n := by omega
theorem cut_join_short (n : Nat) : n / 16384 * 16384 + n / 256 % 64 * 256 + n % 256 = n := by omega

end

/-! ### The fields of an instruction name it

One theorem for each quarter of the map of R108: an instruction of another quarter has another major opcode, and for one of this
quarter each operand is read back from its part of a field. -/

section
variable {i : Instr} {op d a b fn : Nat} (h : i.fields = some (op, d, a, b, fn))
include h

theorem decodeFields_scalar (hop : op ≤ 7) : decodeFields op d a b fn = some i := by
  cases i
  all_goals cases h
  all_goals try contradiction
  all_goals
    simp [decodeFields, decodeMajor00, decodeMajor01, decodeMajor02, decodeMajor03, decodeMajor04, decodeMajor05, decodeMajor06,
      decodeMajor07, toNat_lt_of_pow_le, div_high_low, mod_high_low, Nat.div_eq_of_lt, Nat.mod_eq_of_lt, Nat.div_lt_iff_lt_mul,
      Nat.div_add_mod']

theorem decodeFields_memory (hlo : 8 ≤ op) (hhi : op ≤ 26) : decodeFields op d a b fn = some i := by
  cases i
  all_goals cases h
  all_goals try contradiction
  all_goals
    simp [decodeFields, decodeMajor08, decodeMajor09, decodeMajor0A, decodeMajor0B, decodeMajor0C, decodeMajor0D, decodeMajor0E,
      decodeMajor0F, decodeMajor10, decodeMajor11, decodeMajor12, decodeMajor13, decodeMajor14, decodeMajor15, decodeMajor16,
      decodeMajor17, decodeMajor18, decodeMajor19, decodeMajor1A, toNat_lt_of_pow_le, div_high_low, mod_high_low, Nat.div_eq_of_lt,
      Nat.mod_eq_of_lt, Nat.div_lt_iff_lt_mul, Nat.div_add_mod', atomic_op, atomic_op_zero, atomic_flags, atomic_flags_zero]

theorem decodeFields_vector (hlo : 27 ≤ op) (hhi : op ≤ 34) : decodeFields op d a b fn = some i := by
  cases i
  all_goals cases h
  all_goals try contradiction
  all_goals
    simp [decodeFields, decodeMajor1B, decodeMajor1C, decodeMajor1D, decodeMajor1E, decodeMajor1F, decodeMajor20, decodeMajor21,
      decodeMajor22, toNat_lt_of_pow_le, div_high_low, mod_high_low, Nat.div_eq_of_lt, Nat.mod_eq_of_lt, Bool.toNat_le]

theorem decodeFields_system (hwf : i.wf = true) (hlo : 35 ≤ op) : decodeFields op d a b fn = some i := by
  cases i
  all_goals cases h
  all_goals try contradiction
  case brp p o =>
    have hp : p.toNat ≠ 0 := by simpa [Instr.wf, BitVec.toNat_eq] using hwf
    simp [decodeFields, decodeMajor30, branch_d, cut_join, hp, toNat_lt_of_pow_le, div_high_low, mod_high_low,
      Nat.div_lt_iff_lt_mul, Nat.mod_eq_of_lt]
  case hxreg d a b => cases d <;> cases a <;> cases b <;> rfl
  all_goals
    simp [decodeFields, decodeMajor23, decodeMajor24, decodeMajor25, decodeMajor26, decodeMajor2C, decodeMajor2D, decodeMajor2E,
      decodeMajor30, decodeMajor31, decodeMajor3F, toNat_lt_of_pow_le, div_high_low, mod_high_low, Nat.div_eq_of_lt,
      Nat.mod_eq_of_lt, Nat.div_lt_iff_lt_mul, Nat.div_add_mod', bit_le_one, map_op, map_op_zero, map_pred, mrdacc_op, mrdacc_flag,
      branch_d, branch_pred, cut_join, cut_join_short]

end

/-! ### What the fields of a word name has these fields

One theorem for each quarter of the map of R108, by the branches of its decoders: a branch's guard says that the bits it does not
pass on are those that the encoder writes. -/

section
variable {α : Type} {n : Nat} {x : α}

/-- A code that names a format is the format's. -/
theorem Fmt.ofCode_bind {f : Fmt → Option α} : (Fmt.ofCode n).bind f = some x ↔ ∃ t : Fmt, t.code = n ∧ f t = some x := by
  rw [Option.bind_eq_some_iff]
  refine exists_congr fun t => and_congr_left fun _ => ⟨fun h => ?_, fun h => h ▸ Fmt.ofCode_code t⟩
  unfold Fmt.ofCode at h
  split at h <;> cases h <;> rfl

theorem VCond.ofCode_bind {f : VCond → Option α} : (VCond.ofCode n).bind f = some x ↔ ∃ k : VCond, k.code = n ∧ f k = some x := by
  rw [Option.bind_eq_some_iff]
  refine exists_congr fun k => and_congr_left fun _ => ⟨fun h => ?_, fun h => h ▸ VCond.ofCode_code k⟩
  unfold VCond.ofCode at h
  split at h <;> cases h <;> rfl

theorem Order.ofCode_bind {f : Order → Option α} : (Order.ofCode n).bind f = some x ↔ ∃ k : Order, k.code = n ∧ f k = some x := by
  rw [Option.bind_eq_some_iff]
  refine exists_congr fun k => and_congr_left fun _ => ⟨fun h => ?_, fun h => h ▸ Order.ofCode_code k⟩
  unfold Order.ofCode at h
  split at h <;> cases h <;> rfl

theorem Scope.ofCode_bind {f : Scope → Option α} : (Scope.ofCode n).bind f = some x ↔ ∃ k : Scope, k.code = n ∧ f k = some x := by
  rw [Option.bind_eq_some_iff]
  refine exists_congr fun k => and_congr_left fun _ => ⟨fun h => ?_, fun h => h ▸ Scope.ofCode_code k⟩
  unfold Scope.ofCode at h
  split at h <;> cases h <;> rfl

theorem Part.ofCode_bind {f : Part → Option α} : (Part.ofCode n).bind f = some x ↔ ∃ p : Part, p.code = n ∧ f p = some x := by
  rw [Option.bind_eq_some_iff]
  refine exists_congr fun p => and_congr_left fun _ => ⟨fun h => ?_, fun h => h ▸ Part.ofCode_code p⟩
  unfold Part.ofCode at h
  split at h <;> cases h <;> rfl

end

theorem fields_congr {op d a b fn d' a' b' fn' : Nat} (h : d' = d ∧ a' = a ∧ b' = b ∧ fn' = fn) :
    some (op, d', a', b', fn') = some (op, d, a, b, fn) := by
  obtain ⟨rfl, rfl, rfl, rfl⟩ := h
  rfl

section
variable {i : Instr} {op d a b fn : Nat} (hd : d < 64) (ha : a < 64) (hb : b < 64) (hfn : fn < 256)
  (h : decodeFields op d a b fn = some i)
include hd ha hb hfn h

theorem fields_of_decodeFields_scalar (hop : op ≤ 7) : i.fields = some (op, d, a, b, fn) := by
  unfold decodeFields at h
  split at h
  all_goals try contradiction
  all_goals
    simp only [decodeMajor00, decodeMajor01, decodeMajor02, decodeMajor03, decodeMajor04, decodeMajor05, decodeMajor06, decodeMajor07] at h
  all_goals repeat' split at h
  all_goals cases h
  all_goals refine fields_congr ?_
  all_goals simp only [BitVec.toNat_ofNat, and_true]
  all_goals omega

theorem fields_of_decodeFields_memory (hlo : 8 ≤ op) (hhi : op ≤ 26) : i.fields = some (op, d, a, b, fn) := by
  unfold decodeFields at h
  split at h
  all_goals try contradiction
  all_goals
    simp only [decodeMajor08, decodeMajor09, decodeMajor0A, decodeMajor0B, decodeMajor0C, decodeMajor0D, decodeMajor0E,
      decodeMajor0F, decodeMajor10, decodeMajor11, decodeMajor12, decodeMajor13, decodeMajor14, decodeMajor15, decodeMajor16,
      decodeMajor17, decodeMajor18, decodeMajor19, decodeMajor1A] at h
  all_goals repeat' split at h
  all_goals simp only [Order.ofCode_bind, Scope.ofCode_bind, Option.some.injEq, reduceCtorEq] at h
  all_goals try casesm* ∃ _, _, _ ∧ _
  all_goals subst_vars
  all_goals refine fields_congr ?_
  all_goals simp only [BitVec.toNat_ofNat, toNat_mod_two_eq_one, true_and, and_true]
  all_goals omega

theorem fields_of_decodeFields_vector (hlo : 27 ≤ op) (hhi : op ≤ 34) : i.fields = some (op, d, a, b, fn) := by
  unfold decodeFields at h
  split at h
  all_goals try contradiction
  all_goals
    simp only [decodeMajor1B, decodeMajor1C, decodeMajor1D, decodeMajor1E, decodeMajor1F, decodeMajor20, decodeMajor21,
      decodeMajor22] at h
  all_goals repeat' split at h
  all_goals simp only [Fmt.ofCode_bind, VCond.ofCode_bind, Option.some.injEq, reduceCtorEq] at h
  all_goals try casesm* ∃ _, _, _ ∧ _
  all_goals subst_vars
  all_goals refine fields_congr ?_
  all_goals simp only [BitVec.toNat_ofNat, toNat_mod_two_eq_one, true_and, and_true]
  all_goals omega

theorem fields_of_decodeFields_system (hlo : 35 ≤ op) : i.fields = some (op, d, a, b, fn) := by
  unfold decodeFields at h
  split at h
  all_goals try contradiction
  all_goals
    simp only [decodeMajor23, decodeMajor24, decodeMajor25, decodeMajor26, decodeMajor2C, decodeMajor2D, decodeMajor2E,
      decodeMajor30, decodeMajor31, decodeMajor3F] at h
  all_goals repeat' split at h
  all_goals simp only [Part.ofCode_bind, Scope.ofCode_bind, Option.some.injEq, reduceCtorEq] at h
  all_goals try casesm* ∃ _, _, _ ∧ _
  all_goals subst_vars
  all_goals refine fields_congr ?_
  all_goals simp only [BitVec.toNat_ofNat, toNat_mod_two_eq_one, true_and, and_true]
  case h_2 hne =>
    have hne : d / 32 ≠ 0 := hne
    omega
  all_goals omega

end

/-! ### Words and their fields -/

theorem three_bits_lt (p : BitVec 3) : p.toNat < 8 := p.isLt

theorem fields_lt {i : Instr} {op d a b fn : Nat} (h : i.fields = some (op, d, a, b, fn)) :
    op < 64 ∧ d < 64 ∧ a < 64 ∧ b < 64 ∧ fn < 256 := by
  cases i
  all_goals cases h
  all_goals refine ⟨by decide, ?_, ?_, ?_, ?_⟩
  all_goals try omega
  all_goals grind [three_bits_lt, bit_le_one, Fmt.code_lt, VCond.code_lt, Order.code_lt, Scope.code_lt, Part.code_lt, Bool.toNat_lt]

/-- The fields of a well-formed instruction's word name it. -/
theorem decodeFields_of_fields {i : Instr} {op d a b fn : Nat} (hwf : i.wf = true) (h : i.fields = some (op, d, a, b, fn)) :
    decodeFields op d a b fn = some i := by
  obtain hop | ⟨hlo, hhi⟩ | ⟨hlo, hhi⟩ | hlo : op ≤ 7 ∨ (8 ≤ op ∧ op ≤ 26) ∨ (27 ≤ op ∧ op ≤ 34) ∨ 35 ≤ op := by omega
  · exact decodeFields_scalar h hop
  · exact decodeFields_memory h hlo hhi
  · exact decodeFields_vector h hlo hhi
  · exact decodeFields_system h hwf hlo

/-- What the fields of a word name has those fields. -/
theorem fields_of_decodeFields {i : Instr} {op d a b fn : Nat} (hd : d < 64) (ha : a < 64) (hb : b < 64) (hfn : fn < 256)
    (h : decodeFields op d a b fn = some i) : i.fields = some (op, d, a, b, fn) := by
  obtain hop | ⟨hlo, hhi⟩ | ⟨hlo, hhi⟩ | hlo : op ≤ 7 ∨ (8 ≤ op ∧ op ≤ 26) ∨ (27 ≤ op ∧ op ≤ 34) ∨ 35 ≤ op := by omega
  · exact fields_of_decodeFields_scalar hd ha hb hfn h hop
  · exact fields_of_decodeFields_memory hd ha hb hfn h hlo hhi
  · exact fields_of_decodeFields_vector hd ha hb hfn h hlo hhi
  · exact fields_of_decodeFields_system hd ha hb hfn h hlo

/-- A word is its five fields joined (R98). -/
theorem joinWord_parts (w : IWord) : joinWord (w.toNat / 2 ^ 26) (w.toNat / 2 ^ 20 % 64) (w.toNat / 2 ^ 14 % 64)
    (w.toNat / 2 ^ 8 % 64) (w.toNat % 256) = w := by
  apply BitVec.eq_of_toNat_eq
  rw [joinWord, BitVec.toNat_ofNat]
  omega

/-- The fields joined into a word are read back from it (R98). -/
theorem toNat_joinWord {op d a b fn : Nat} (hop : op < 64) (hd : d < 64) (ha : a < 64) (hb : b < 64) (hfn : fn < 256) :
    (joinWord op d a b fn).toNat / 2 ^ 26 = op ∧ (joinWord op d a b fn).toNat / 2 ^ 20 % 64 = d ∧
    (joinWord op d a b fn).toNat / 2 ^ 14 % 64 = a ∧ (joinWord op d a b fn).toNat / 2 ^ 8 % 64 = b ∧
    (joinWord op d a b fn).toNat % 256 = fn := by
  rw [joinWord, BitVec.toNat_ofNat]
  omega

theorem decode_eq_some_iff {w : IWord} {i : Instr} : decode w = some i ↔
    decodeFields (w.toNat / 2 ^ 26) (w.toNat / 2 ^ 20 % 64) (w.toNat / 2 ^ 14 % 64) (w.toNat / 2 ^ 8 % 64) (w.toNat % 256) = some i ∧
    i.wf = true := by
  simp only [decode, Option.bind_eq_some_iff, Option.ite_none_right_eq_some, Option.some.injEq]
  exact ⟨fun ⟨_, hi, hwf, he⟩ => he ▸ ⟨hi, hwf⟩, fun ⟨hi, hwf⟩ => ⟨i, hi, hwf, rfl⟩⟩

theorem encode_of_fields {i : Instr} {op d a b fn : Nat} (h : i.fields = some (op, d, a, b, fn)) :
    encode i = joinWord op d a b fn := by
  rw [encode, h]

theorem decode_encode {i : Instr} (hwf : i.wf = true) (h : i.fields ≠ none) : decode (encode i) = some i := by
  obtain ⟨⟨op, d, a, b, fn⟩, hf⟩ := Option.ne_none_iff_exists'.mp h
  obtain ⟨hop, hd, ha, hb, hfn⟩ := fields_lt hf
  obtain ⟨eop, ed, ea, eb, efn⟩ := toNat_joinWord hop hd ha hb hfn
  rw [encode_of_fields hf, decode_eq_some_iff, eop, ed, ea, eb, efn]
  exact ⟨decodeFields_of_fields hwf hf, hwf⟩

theorem encode_of_decode {w : IWord} {i : Instr} (h : decode w = some i) : encode i = w ∧ i.wf = true := by
  obtain ⟨hi, hwf⟩ := decode_eq_some_iff.mp h
  have hf := fields_of_decodeFields (by omega) (by omega) (by omega) (by omega) hi
  exact ⟨by rw [encode_of_fields hf, joinWord_parts], hwf⟩

/-- Settles O53: each instruction's fields name it, what a word's fields name has them, and a word is its fields joined. -/
theorem decodingInvertsEncoding : Obligations.DecodingInvertsEncoding :=
  ⟨fun _ hwf h => decode_encode hwf h, fun _ _ h => encode_of_decode h⟩

/-- Settles O50: each listed word's fields are read off and looked up in the tables. -/
theorem wordsDecode : Obligations.WordsDecode := by
  unfold Obligations.WordsDecode
  decide

end Sys2Proof
end

section
/-! O4: immediates and bit fields. -/

namespace Sys2Proof.Machine

/-- An instruction whose entry makes its results pending and goes on at the next word. -/
theorem Lands.of_issue {s t : State} {c : Ctx} {i : Instr} {att : Attach} {us : List Use} {super : Bool} {entry : State → Ctx → Act}
    {lat : Nat} {ds : List Dest} (hi : Issuing s t c) (hd : decodeTrap att us super t c = none)
    (hx : exec i s = issue s att us super entry) (he : entry t c = .go (t.results c lat ds) c.next) : Lands s t c i lat ds := by
  rw [Lands, hx, issue_go hi hd he]
  rfl

theorem Lands.of_scalar1 {s t : State} {c : Ctx} {i : Instr} {d a : RField} {f : Word → Word} (hi : Issuing s t c)
    (hd : decodeTrap {} [gD d, gA a] false t c = none) (hx : exec i s = scalar1 f d a s) :
    Lands s t c i 1 [.g (c.h.x (gD d)) (f (c.g (gA a)))] :=
  .of_issue hi hd hx rfl

/-! ### Signed fields (R99, R118) -/

theorem ofInt_signedField {n : Nat} (hn : 0 < n) (x : BitVec n) : BitVec.ofInt 64 (signedField n x.toNat) = x.signExtend 64 := by
  have hsign : x.toNat < 2 ^ (n - 1) ↔ 2 * x.toNat < 2 ^ n := by
    have := Nat.two_pow_pred_add_two_pow_pred hn
    omega
  rw [BitVec.signExtend, BitVec.toInt_eq_toNat_cond, signedField, if_congr hsign rfl rfl]

theorem toNat_append_add {m n : Nat} (x : BitVec m) (y : BitVec n) : (x ++ y).toNat = x.toNat * 2 ^ n + y.toNat := by
  rw [BitVec.toNat_append, ← Nat.shiftLeft_add_eq_or_of_lt y.isLt, Nat.shiftLeft_eq]

/-- An immediate is its HIMM and its field in one, sign-extended (R105). -/
theorem Hints.extend_eq {h : Hints} {w f n : Nat} (x : BitVec n) (hn : w + 22 * h.imms.length = n) (hpos : 0 < n)
    (hx : h.imms.foldl (fun a p => a * 2 ^ 22 + p) 0 * 2 ^ w + f = x.toNat) : h.extend w f = x.signExtend 64 := by
  rw [Hints.extend, hn, hx]
  exact ofInt_signedField hpos x

/-! ### Bit fields (R152) -/

section
variable {x r a : Word} {p w : Nat}

theorem field_eq : field x p w = (x.extractLsb' p w).setWidth 64 := by
  apply BitVec.eq_of_toNat_eq
  rw [field, BitVec.toNat_ofNat, BitVec.toNat_setWidth, BitVec.extractLsb'_toNat, Nat.shiftRight_eq_div_pow]

theorem sext_field_eq (hpos : 0 < w) (hw : w ≤ 64) : sext (field x p w) w = (x.extractLsb' p w).signExtend 64 := by
  rw [← ofInt_signedField hpos, sext, field, BitVec.toNat_ofNat, BitVec.extractLsb'_toNat, Nat.shiftRight_eq_div_pow,
    Nat.mod_mod_of_dvd _ (Nat.pow_dvd_pow 2 hw), Nat.mod_mod]

/-- BFI leaves what lies below and above the field. -/
theorem insertField_parts : r.toNat - r.toNat / 2 ^ p % 2 ^ w * 2 ^ p + a.toNat % 2 ^ w * 2 ^ p =
    2 ^ p * (2 ^ w * (r.toNat / 2 ^ (w + p)) + a.toNat % 2 ^ w) + r.toNat % 2 ^ p := by
  have hlow := Nat.div_add_mod r.toNat (2 ^ p)
  have hmid := Nat.div_add_mod (r.toNat / 2 ^ p) (2 ^ w)
  rw [Nat.div_div_eq_div_mul, ← Nat.pow_add, Nat.add_comm p w] at hmid
  conv_lhs => lhs; lhs; rw [← hlow, ← hmid]
  rw [Nat.mul_add, Nat.mul_add, Nat.mul_comm _ (2 ^ p), Nat.mul_comm _ (2 ^ p)]
  omega

theorem getLsbD_insertField {k : Nat} (hk : k < 64) : (insertField r a p w).getLsbD k =
    if p ≤ k ∧ k < p + w then a.getLsbD (k - p) else r.getLsbD k := by
  rw [insertField, insertField_parts, BitVec.getLsbD_ofNat, Nat.testBit_two_pow_mul_add _ (Nat.mod_lt _ (Nat.two_pow_pos p)),
    Nat.testBit_two_pow_mul_add _ (Nat.mod_lt _ (Nat.two_pow_pos w)), Nat.testBit_mod_two_pow, Nat.testBit_mod_two_pow,
    Nat.testBit_div_two_pow, decide_eq_true hk, Bool.true_and]
  by_cases hlow : k < p
  · rw [if_pos hlow, if_neg (by omega), decide_eq_true hlow, Bool.true_and]
    rfl
  · rw [if_neg hlow]
    by_cases hmid : k - p < w
    · rw [if_pos hmid, if_pos (by omega), decide_eq_true hmid, Bool.true_and]
      rfl
    · rw [if_neg hmid, if_neg (by omega), show k - p - w + (w + p) = k by omega]
      rfl

end

/-! ### Immediates with their HIMM (R105) -/

section
variable {h : Hints} (p q r : BitVec 22)

theorem Hints.extend_none {n : Nat} (i : BitVec n) (hn : 0 < n) (hh : h.imms = []) : h.extend n i.toNat = i.signExtend 64 :=
  extend_eq i (by rw [hh]; rfl) hn (by simp [hh])

theorem Hints.extend_one {n : Nat} (i : BitVec n) (hh : h.imms = [p.toNat]) : h.extend n i.toNat = (p ++ i).signExtend 64 :=
  extend_eq (p ++ i) (by rw [hh]; exact Nat.add_comm _ _) (by omega)
    (by simp only [hh, toNat_append_add, List.foldl_cons, List.foldl_nil, Nat.zero_mul, Nat.zero_add])

theorem Hints.extend_two {n : Nat} (i : BitVec n) (hh : h.imms = [p.toNat, q.toNat]) :
    h.extend n i.toNat = (p ++ q ++ i).signExtend 64 :=
  extend_eq (p ++ q ++ i) (by rw [hh]; exact Nat.add_comm _ _) (by omega)
    (by simp only [hh, toNat_append_add, List.foldl_cons, List.foldl_nil, Nat.zero_mul, Nat.zero_add])

theorem Hints.extend_three {n : Nat} (i : BitVec n) (hh : h.imms = [p.toNat, q.toNat, r.toNat]) :
    h.extend n i.toNat = (p ++ q ++ r ++ i).signExtend 64 :=
  extend_eq (p ++ q ++ r ++ i) (by rw [hh]; exact Nat.add_comm _ _) (by omega)
    (by simp only [hh, toNat_append_add, List.foldl_cons, List.foldl_nil, Nat.zero_mul, Nat.zero_add])

end

/-- Settles O4: each form lands its value at ISSUE + LAT_ALU, and an extended immediate is the HIMM and the field as one number. -/
theorem immediateAndFieldResults : Obligations.ImmediateAndFieldResults := by
  unfold Obligations.ImmediateAndFieldResults
  refine ⟨?_, fun h i hh => ?_, fun h o hh => ?_, fun h p i hh => ?_, fun h p q i hh => ?_, fun h p q r i hh => ?_,
    fun h p o hh => ?_, fun h p q o hh => ?_⟩
  · intro s t c d a i l p hi x n
    refine ⟨fun hd => .of_issue hi hd (exec_addi ..) rfl, fun hd => ⟨.of_issue hi hd (exec_movi ..) rfl, .of_issue hi hd (exec_lea ..) rfl⟩,
      fun hd hl => ?_⟩
    intro w
    refine ⟨?_, ?_, .of_issue hi hd (exec_bfi ..) rfl, fun k hk => getLsbD_insertField hk⟩
    · rw [← field_eq]
      exact .of_scalar1 (f := fun y => field y p.toNat w) hi hd (exec_bfx ..)
    · rw [← sext_field_eq (Nat.succ_pos _) (by omega)]
      exact .of_scalar1 (f := fun y => sext (field y p.toNat w) w) hi hd (exec_bfxS ..)
  · exact Hints.extend_none i (by decide) hh
  · exact Hints.extend_none o (by decide) hh
  · exact Hints.extend_one p i hh
  · exact Hints.extend_two p q i hh
  · rw [Hints.extend_three p q r i hh, BitVec.signExtend_eq_setWidth_of_le _ (by decide)]
  · exact Hints.extend_one p o hh
  · rw [Hints.extend_two p q o hh, BitVec.signExtend_eq_setWidth_of_le _ (by decide)]

end Sys2Proof.Machine
end

section
/-! O51: the checks of R107. -/

namespace Sys2Proof.Machine

section
variable {s t : State} {c : Ctx} {att : Attach} {us : List Use} {super : Bool}

theorem decodeTrap_badHint {w : IWord} (h : badHint att us (t.strand c.sid).group = some w) :
    decodeTrap att us super t c = some ⟨.illegal, w.setWidth 64, 0⟩ := by
  simp only [decodeTrap, h, trapOf]

theorem decodeTrap_beyond {r : Word} (h : badHint att us (t.strand c.sid).group = none)
    (hr : beyondPartition (t.core c.sid.core).part c.h us = some r) : decodeTrap att us super t c = some ⟨.illreg, r, 0⟩ := by
  simp only [decodeTrap, h, hr, trapOf]

theorem decodeTrap_priv (h : badHint att us (t.strand c.sid).group = none)
    (hr : beyondPartition (t.core c.sid.core).part c.h us = none) (hpriv : c.regs.csr.status.priv = false) :
    decodeTrap att us true t c = some ⟨.priv, 0, 0⟩ := by
  simp only [decodeTrap, h, hr, hpriv, trapOf, Bool.not_false, Bool.and_self, if_true]

theorem beyondPartition_first {u : Use} {part : Part} {h : Hints} (rest : List Use) (hvec : u.vec = false) (hn : part.gregs ≤ h.x u) :
    beyondPartition part h (u :: rest) = some (BitVec.ofNat 64 (h.x u)) := by
  simp only [beyondPartition, List.findSome?_cons, hvec, Bool.false_eq_true, if_false, if_pos hn]

end

/-- Settles O51: the trap of the checks is that of the first that fails, and an instruction that they stop does nothing else. -/
theorem checksInOrder : Obligations.ChecksInOrder := by
  unfold Obligations.ChecksInOrder
  intro s t c att us super hi hints
  refine ⟨fun w h => decodeTrap_badHint h, fun r h hr => decodeTrap_beyond h hr, fun h hr hs hp => hs ▸ decodeTrap_priv h hr hp,
    fun u rest part hvec hn => beyondPartition_first rest hvec hn, fun d a b n q o f => ?_⟩
  refine ⟨fun hd => ?_, fun hd => ?_, fun hd => ?_, fun hd => ?_, fun hd => ?_, fun hd => ?_, fun hd => ?_, fun hd => ?_⟩
  · rw [exec_add, execAdd, scalar2, issue_trap hi hd]
  · rw [exec_ldB64, execLdB64, load, issue_trap hi hd]
  · rw [exec_stB64, execStB64, store, issue_trap hi hd]
  · rw [exec_quiesce, execQuiesce, issue_trap hi hd]
  · rw [exec_migrate, execMigrate, issue_trap hi hd]
  · rw [exec_tlbinv, execTlbinv, issue_trap hi hd]
  · rw [exec_trap, execTrap, issue_trap hi hd]
  · rw [exec_tend, execTend, issue_trap hi hd]

end Sys2Proof.Machine
end

section
/-! O52: the step that is due, and the words of strands' issues. -/

namespace Sys2Proof.Machine

section
variable {s t : State} {at_ : Nat} {x : SId}

theorem step_of_pick_issue (h : s.pick = some (at_, .issue x)) : step s = s.issueNext x := by rw [step, h]
theorem step_of_pick_duty {e : Event} (h : s.pick = some (at_, .duty e)) : step s = e.run (s.atEvent (at_, .duty e)) := by
  rw [step, h]
theorem step_of_pick_agenda {n : Nat} {e : Event} (h : s.pick = some (at_, .agenda n e)) :
    step s = e.run (s.atEvent (at_, .agenda n e)) := by rw [step, h]

theorem State.issueNext_fetched (h : (s.atFetch x).fetchLate x = 0) : s.issueNext x = (s.atFetch x).issueWord x := if_pos h
theorem State.issueNext_late {n : Nat} (h : (s.atFetch x).fetchLate x = n + 1) :
    s.issueNext x = .next ((s.atFetch x).holdFetch x (n + 1)) := by
  rw [issueNext, if_neg (h ▸ Nat.succ_ne_zero n), h]

/-! ### What a fetched word does (R107) -/

section
variable {w : IWord}

theorem State.issueWord_decoded {i : Instr} (hf : s.fetch x = (t, .inl w)) (hw : decode w = some i) : s.issueWord x = exec i t := by
  simp only [issueWord, hf, hw]
theorem State.issueWord_illegal (hf : s.fetch x = (t, .inl w)) (hw : decode w = none) (hh : isHintWord w = false) :
    s.issueWord x = issueIllegal t w := by
  simp only [issueWord, hf, hw, hh, Bool.false_eq_true, if_false]
theorem State.issueWord_hint (hf : s.fetch x = (t, .inl w)) (hw : decode w = none) (hh : isHintWord w = true) :
    s.issueWord x = issueHint t w := by
  simp only [issueWord, hf, hw, hh, if_true]
theorem State.issueWord_fault {f : TrapInfo} (hf : s.fetch x = (t, .inr f)) : s.issueWord x = issueFetchFault t f := by
  simp only [issueWord, hf]

end
end

/-- Settles O52: the step that is due decides, and for an issue what the fetch gives and what its word decodes to. Each agent's step
is the row of its name, as `exec` and `Event.run` call the same meaning. -/
theorem stepRunsTheDecodedInstruction : Obligations.StepRunsTheDecodedInstruction := by
  unfold Obligations.StepRunsTheDecodedInstruction
  refine ⟨fun s t at_ x => ⟨fun hpick hlate => ?_, fun n hpick hlate => ?_, fun e hpick => step_of_pick_duty hpick,
    fun n e hpick => step_of_pick_agenda hpick, step_of_pick_none⟩, fun _ => ?_⟩
  · rw [step_of_pick_issue hpick, State.issueNext_fetched hlate]
    exact ⟨fun w i hf hw => State.issueWord_decoded hf hw, fun w hf hw hh => State.issueWord_illegal hf hw hh,
      fun w hf hw hh => State.issueWord_hint hf hw hh, fun f hf => State.issueWord_fault hf⟩
  · rw [step_of_pick_issue hpick, State.issueNext_late hlate]
  · intros
    and_intros <;> rfl

end Sys2Proof.Machine
end

section
/-! What a change of a strand leaves of everything outside it. -/

namespace Sys2Proof.Machine

namespace SameOutside
variable {s t u : State} {x : SId}

theorem refl (x : SId) (s : State) : SameOutside x s s := by constructor <;> intros <;> rfl

theorem trans (h : SameOutside x s t) (h' : SameOutside x t u) : SameOutside x s u where
  strands y hy := (h'.strands y hy).trans (h.strands y hy)
  cores n := (h'.cores n).trans (h.cores n)
  mem := h'.mem.trans h.mem
  jobs := h'.jobs.trans h.jobs
  queues := h'.queues.trans h.queues
  disp := h'.disp.trans h.disp
  gangs := h'.gangs.trans h.gangs
  woad := h'.woad.trans h.woad
  sfu := h'.sfu.trans h.sfu
  coll := h'.coll.trans h.coll
  fw := h'.fw.trans h.fw
  out := h'.out.trans h.out

theorem symm (h : SameOutside x s t) : SameOutside x t s where
  strands y hy := (h.strands y hy).symm
  cores n := (h.cores n).symm
  mem := h.mem.symm
  jobs := h.jobs.symm
  queues := h.queues.symm
  disp := h.disp.symm
  gangs := h.gangs.symm
  woad := h.woad.symm
  sfu := h.sfu.symm
  coll := h.coll.symm
  fw := h.fw.symm
  out := h.out.symm

theorem tick (x : SId) (s : State) (cc : Nat) : SameOutside x s (s.tick cc) := by constructor <;> intros <;> rfl

theorem asks (x : SId) (h : s.Asks t) : SameOutside x s t := by
  obtain ⟨ds, rfl⟩ := h
  constructor <;> intros <;> rfl

theorem modStrand (s : State) (x : SId) (f : Strand → Strand) : SameOutside x s (s.modStrand x f) where
  strands _ hy := State.strand_modStrand_ne s f hy
  cores n := State.core_modStrand s x f n
  mem := rfl
  jobs := rfl
  queues := rfl
  disp := rfl
  gangs := rfl
  woad := rfl
  sfu := rfl
  coll := rfl
  fw := rfl
  out := rfl

end SameOutside

end Sys2Proof.Machine
end

section
/-! O6: hints and NOP. -/

namespace Sys2Proof.Machine

/-- The word that a hint joins its group with is the one that its fields make (R98, R104). -/
theorem hintWord_eq_encode {h : Instr} {kind payload d a b fn : Nat} (hk : kind < 16) (hp : payload < 2 ^ 22)
    (hf : h.fields = some (63, d, a, b, fn)) (hd : kind * 4 + payload / 1048576 = d) (ha : payload / 16384 % 64 = a)
    (hb : payload / 256 % 64 = b) (hfn : payload % 256 = fn) : hintWord kind payload = encode h := by
  subst hd ha hb hfn
  rw [encode_of_fields hf, hintWord, joinWord]
  congr 1
  omega

/-- The hint instructions (R104). -/
def hintInstrs (n q : BitVec 16) (i v : BitVec 22) (p : BitVec 13) (k : Scope) (m : BitVec 3) (x y z : Bool) : List Instr :=
  [.himm i, .hdly n, .hxreg x y z, .hstart v, .hseq q, .hpol p, .hscope k, .hrnd m]

theorem exec_hint {n q : BitVec 16} {i v : BitVec 22} {p : BitVec 13} {k : Scope} {m : BitVec 3} {x y z : Bool} {h : Instr}
    (hh : h ∈ hintInstrs n q i v p k m x y z) (s : State) : exec h s = issueHint s (encode h) := by
  have := k.code_lt
  have := x.toNat_lt
  have := y.toNat_lt
  have := z.toNat_lt
  simp only [hintInstrs, List.mem_cons, List.not_mem_nil, or_false] at hh
  obtain rfl | rfl | rfl | rfl | rfl | rfl | rfl | rfl := hh
  · exact congrArg (issueHint s) (hintWord_eq_encode (by decide) i.isLt rfl (by omega) rfl rfl rfl)
  · exact congrArg (issueHint s) (hintWord_eq_encode (by decide) (by omega) rfl (by omega) (by omega) rfl rfl)
  · exact congrArg (issueHint s) (hintWord_eq_encode (by decide) (by omega) rfl (by omega) (by omega) (by omega) (by omega))
  · exact congrArg (issueHint s) (hintWord_eq_encode (by decide) v.isLt rfl (by omega) rfl rfl rfl)
  · exact congrArg (issueHint s) (hintWord_eq_encode (by decide) (by omega) rfl (by omega) (by omega) rfl rfl)
  · exact congrArg (issueHint s) (hintWord_eq_encode (by decide) (by omega) rfl (by omega) (by omega) (by omega) rfl)
  · exact congrArg (issueHint s) (hintWord_eq_encode (by decide) (by omega) rfl (by omega) (by omega) (by omega) (by omega))
  · exact congrArg (issueHint s) (hintWord_eq_encode (by decide) (by omega) rfl (by omega) (by omega) (by omega) (by omega))

/-- The state after a hint word at vc v. -/
def State.hinted (s : State) (x : SId) (v : Nat) (w : IWord) : State :=
  (s.tick ((s.strand x).ccOf v)).modStrand x fun st =>
    { st.settle v with gpc := st.groupPc, group := st.group ++ [w], pc := st.pc + 4, slot := v + s.rotation x, hints := st.hints + 1 }

theorem issueHint_joins {s : State} {w : IWord} (hrun : (s.strand s.cur).run = .running) (hready : s.ready s.cur (s.hintVc s.cur) = true) :
    issueHint s w = .next (s.hinted s.cur (s.hintVc s.cur) w) := by
  simp only [issueHint, hrun, hready]
  rfl

theorem State.rotation_pos (s : State) (x : SId) : 0 < s.rotation x := by
  unfold rotation
  cases (s.core x.core).part <;> decide

/-- Settles O6: a hint's word joins its strand's group at its next slot, and NOP's entry changes nothing. -/
theorem hintsAndNop : Obligations.HintsAndNop := by
  unfold Obligations.HintsAndNop
  refine ⟨fun s n q i v p k m x y z => ?_, fun s t c hi hd => ?_⟩
  · intro st slot hrun hready h hh
    refine ⟨s.hinted s.cur slot (encode h), ?_, (SameOutside.tick _ _ _).trans (.modStrand _ _ _), ?_⟩
    · rw [exec_hint hh, issueHint_joins hrun hready]
      rfl
    · rw [State.hinted, State.strand_modStrand]
      exact ⟨rfl, rfl, rfl, rfl, Nat.lt_add_of_pos_right (s.rotation_pos s.cur)⟩
  · rw [Passes, exec_nop, execNop, issue_go hi hd rfl]
    rfl

end Sys2Proof.Machine
end

section
/-! O36: a strand's step of landing. -/

namespace Sys2Proof.Machine

/-! ### Registers after a write has landed (R100, R129, R135) -/

theorem Regs.readP_writeP (r : Regs) {n : Nat} (x : PWord) (hn : n ≠ 0) (h : Tab.wf (0 : PWord) r.p = true) :
    (r.writeP n x).readP n = x := by
  rw [readP, writeP, if_neg hn, if_neg hn]
  exact Tab.get_set_self n x h

theorem Regs.readP_writeP_ne (r : Regs) {m n : Nat} (x : PWord) (h : m ≠ n) : (r.writeP n x).readP m = r.readP m := by
  by_cases hm : m = 0
  · rw [hm, readP_zero, readP_zero]
  · by_cases hn : n = 0
    · rw [hn, writeP_zero]
    · rw [readP, readP, if_neg hm, if_neg hm, writeP, if_neg hn]
      exact Tab.get_set_ne _ _ h

section
variable (r : Regs) (n k : Nat)

theorem Dest.land_g_frame (x : Word) : (Dest.g n x).land r = { r with g := ((Dest.g n x).land r).g } := by
  rw [land, Regs.writeG]
  split <;> rfl

theorem Dest.land_p_frame (x : PWord) : (Dest.p n x).land r = { r with p := ((Dest.p n x).land r).p } := by
  rw [land, Regs.writeP]
  split <;> rfl

theorem Dest.readG_land (x : Word) (h : Tab.wf (0 : Word) r.g = true) :
    ((Dest.g n x).land r).readG k = if k = 0 then 0 else if k = n then x else r.readG k := by
  split
  next hk => rw [hk, Regs.readG_zero]
  next hk =>
    split
    next hn => exact hn ▸ Regs.readG_writeG r x hk h
    next hn => exact Regs.readG_writeG_ne r x hn

theorem Dest.readV_land (x : VWord) (h : Tab.wf (0 : VWord) r.v = true) :
    ((Dest.v n x).land r).readV k = if k = n then x else r.readV k := by
  split
  next hn => exact hn ▸ Regs.readV_writeV r k x h
  next hn => exact Regs.readV_writeV_ne r x hn

theorem Dest.readP_land (x : PWord) (h : Tab.wf (0 : PWord) r.p = true) :
    ((Dest.p n x).land r).readP k = if k = 0 then 0xFFFF else if k = n then x else r.readP k := by
  split
  next hk => rw [hk, Regs.readP_zero]
  next hk =>
    split
    next hn => exact hn ▸ Regs.readP_writeP r x hk h
    next hn => exact Regs.readP_writeP_ne r x hn

end

/-! ### The step of landing (R128, R131, R141, R376) -/

section
variable {s : State} {x : SId}

/-- The state once the writes have landed that are due at vc v. -/
def State.settled (s : State) (x : SId) (v : Nat) : State := (s.modStrand x fun st => st.settle v).commitSvec x

variable (hrun : (s.strand x).run = .running)
include hrun

theorem State.landing_fault {e : Inflight} {t : TrapInfo} (h : (s.strand x).dueTrap ((s.strand x).vcAt s.clock.cc) = some (e, t)) :
    s.landing x = (s.raise x e t ((s.strand x).vcAt s.clock.cc)).look x := by
  simp only [landing, hrun, h, ne_eq, not_true_eq_false, if_false]

section
variable (h : (s.strand x).dueTrap ((s.strand x).vcAt s.clock.cc) = none)
include h

theorem State.landing_plain (hl : (s.settled x ((s.strand x).vcAt s.clock.cc)).dueLate x = none) :
    s.landing x = ((s.settled x ((s.strand x).vcAt s.clock.cc)).parkWaiting x ((s.strand x).vcAt s.clock.cc)).look x := by
  simp only [settled] at hl ⊢
  simp only [landing, hrun, h, hl, ne_eq, not_true_eq_false, if_false]

theorem State.landing_late {l : LateTrap} (hl : (s.settled x ((s.strand x).vcAt s.clock.cc)).dueLate x = some l) :
    s.landing x = if l.info.cause = .preempt ∧ ((s.settled x ((s.strand x).vcAt s.clock.cc)).strand x).pending ≠ [] then
      (s.settled x ((s.strand x).vcAt s.clock.cc)).look x else ((s.settled x ((s.strand x).vcAt s.clock.cc)).takeLate x l).look x := by
  simp only [settled] at hl ⊢
  simp only [landing, hrun, h, hl, ne_eq, not_true_eq_false, if_false, Bool.and_eq_true, decide_eq_true_eq]
  exact if_congr Iff.rfl rfl rfl

end
end

/-- Settles O36: the step of landing by its three cases, and each landing write's register alone. -/
theorem landingSteps : Obligations.LandingSteps := by
  unfold Obligations.LandingSteps
  refine ⟨fun s x => ?_, fun r n k x y z hg hv hp => ⟨Dest.land_g_frame r n x, Dest.readG_land r n k x hg, rfl, Dest.readV_land r n k y hv,
    Dest.land_p_frame r n z, Dest.readP_land r n k z hp, rfl⟩⟩
  intro me v u hrun
  refine ⟨fun e t h => ?_, fun h hl => ?_, fun l h hl => ⟨fun hc => ?_, fun hc hp => ?_⟩⟩
  · rw [exec_landing, execLanding, State.landing_fault hrun h]
  · rw [exec_landing, execLanding, State.landing_plain hrun h hl]
    rfl
  · rw [exec_landing, execLanding, State.landing_late hrun h hl, if_neg fun hn => hc.elim (· hn.1) hn.2]
    rfl
  · rw [exec_landing, execLanding, State.landing_late hrun h hl, if_pos ⟨hc, hp⟩]
    rfl

end Sys2Proof.Machine
end

section
/-! ### How a strand runs on, and how many traps it has taken (R357, R360) -/

namespace Sys2Proof.Machine

@[simp] theorem State.strand_ownHeld (s : State) (cluster line : Nat) (y : SId) : (s.ownHeld cluster line).strand y = s.strand y := by
  unfold ownHeld own
  split
  · split
    · rfl
    · split
      · split <;> rfl
      · rfl
  · rfl

@[simp] theorem State.strand_commitHeld (s : State) (x : SId) (hs : List Held) (y : SId) : (s.commitHeld x hs).strand y = s.strand y :=
  List.foldlRecOn hs State.applyHeld (motive := fun t : State => t.strand y = s.strand y)
    (List.foldlRecOn _ _ (motive := fun t : State => t.strand y = s.strand y) rfl fun t ht i _ => (t.strand_ownHeld _ i y).trans ht)
    fun t ht _ _ => (t.strand_setByte _ _ y).trans ht

/-- A core whose records of a launch are marked as cancelled (R74, R76). -/
def Core.discard (j n : Nat) (k : Core) : Core :=
  let mark (r : Rec512) : Rec512 := if taskLaunchId r = n then cancelMark r else r
  if k.job = some j then { k with high := k.high.map mark, normal := k.normal.map mark } else k

theorem Core.strands_discard (j n : Nat) (k : Core) : (k.discard j n).strands = k.strands := by
  unfold discard
  split <;> rfl

/-- Every strand runs as it did and has taken as many traps. -/
structure State.KeepsRun (s t : State) : Prop where
  run : ∀ y, (t.strand y).run = (s.strand y).run
  traps : ∀ y, (t.strand y).traps = (s.strand y).traps

namespace State.KeepsRun

variable {s t u : State}

theorem of_strand (h : ∀ y, t.strand y = s.strand y) : s.KeepsRun t :=
  ⟨fun y => congrArg Strand.run (h y), fun y => congrArg Strand.traps (h y)⟩

theorem refl (s : State) : s.KeepsRun s := of_strand fun _ => rfl

theorem trans (h : s.KeepsRun t) (h' : t.KeepsRun u) : s.KeepsRun u :=
  ⟨fun y => (h'.run y).trans (h.run y), fun y => (h'.traps y).trans (h.traps y)⟩

theorem ite {p : Prop} [Decidable p] (ht : s.KeepsRun t) (hu : s.KeepsRun u) : s.KeepsRun (if p then t else u) := by
  split <;> assumption

theorem foldl {α : Type} {f : State → α → State} (h : ∀ (t : State) (a : α), t.KeepsRun (f t a)) (as : List α) (s : State) :
    s.KeepsRun (as.foldl f s) :=
  List.foldlRecOn as f (motive := s.KeepsRun) (refl s) fun t ht a _ => ht.trans (h t a)

theorem asks (h : s.Asks t) : s.KeepsRun t := of_strand h.strand

theorem modStrand (s : State) (x : SId) {f : Strand → Strand} (hrun : (f (s.strand x)).run = (s.strand x).run)
    (htraps : (f (s.strand x)).traps = (s.strand x).traps) : s.KeepsRun (s.modStrand x f) := by
  constructor <;> intro y <;> by_cases h : y = x
  · rw [h, State.strand_modStrand, hrun]
  · rw [State.strand_modStrand_ne _ _ h]
  · rw [h, State.strand_modStrand, htraps]
  · rw [State.strand_modStrand_ne _ _ h]

/-! #### The end of a region (R341) -/

theorem endRegion (s : State) (x : SId) : s.KeepsRun (s.endRegion x) := by
  have hcommit := (of_strand (s.strand_commitHeld x (s.strand x).region.held)).trans
    (modStrand _ x (f := fun st => { st with region := Region.empty }) rfl rfl)
  exact ite hcommit (hcommit.trans (asks (.tlbLook _)))

theorem breakAt (s : State) (x : SId) (seq : Nat) : s.KeepsRun (s.breakAt x seq) := ite (endRegion s x) (modStrand s x rfl rfl)

theorem breakRegion (s : State) (x : SId) : s.KeepsRun (s.breakRegion x) :=
  ite (endRegion s x) ((breakAt s x _).trans (modStrand _ x rfl rfl))

/-! #### The kill of a job (R74, R76, R360) -/

theorem doom (s : State) (xs : List SId) : s.KeepsRun (s.doom xs) :=
  foldl (fun t y => (modStrand t y rfl rfl).trans (asks (.post _ _ _))) xs s

/-- Cores changed in other things than their strands. -/
theorem mapCores (s : State) {t : State} {f : Core → Core} (hf : ∀ k, (f k).strands = k.strands)
    (ht : t.cores = s.cores.map fun (c, k) => (c, f k)) : s.KeepsRun t := by
  refine of_strand fun y => ?_
  have hcore : (t.core y.core).strands = (s.core y.core).strands := by
    have hfind := Tab.find?_map (fun _ k => f k) s.cores y.core
    simp only [State.core, Tab.get, ht, hfind]
    cases Tab.find? s.cores y.core
    · rfl
    · exact hf _
  rw [State.strand, State.strand, Core.strand, Core.strand, hcore]

theorem discardLaunch (s : State) (j n : Nat) : s.KeepsRun (s.discardLaunch j n) :=
  (mapCores s (Core.strands_discard j n) rfl).trans (foldl (fun t _ => ite (asks (.post t _ _)) (refl t)) _ _)

theorem cancelOne (s : State) (j n : Nat) (kill : Bool) : s.KeepsRun (s.cancelOne j n kill) := by
  have hcancel (c : Counter) : s.KeepsRun (let t := ((s.setCounter j n c).discardLaunch j n).redeal
      (if kill then t.doom (t.counted j n) else t).post 0 (.cancelComplete j n)) :=
    ((((of_strand fun _ => rfl : s.KeepsRun (s.setCounter j n c)).trans (discardLaunch _ j n)).trans (asks (.redeal _))).trans
      (ite (doom _ _) (refl _))).trans (asks (.post _ _ _))
  unfold State.cancelOne
  dsimp only
  split
  · exact hcancel _
  · exact hcancel _
  · exact refl s

theorem killJob (s : State) (j : Nat) : s.KeepsRun (s.killJob j) :=
  ((of_strand fun _ => rfl : s.KeepsRun (s.modJob j fun b => { b with killed := true })).trans
    (foldl (fun t n => cancelOne t j n true) _ _)).trans (doom _ _)

/-! #### What follows a trap -/

theorem handlerFirst (s : State) (x : SId) : s.KeepsRun (s.handlerFirst x) := by
  unfold State.handlerFirst
  dsimp only
  split
  · refine ite (foldl (fun t y => modStrand t y ?_ ?_) _ s) (refl s) <;> split <;> rfl
  · exact refl s

theorem carryDrain (s : State) (x : SId) (v : Nat) : s.KeepsRun (s.carryDrain x v) := by
  unfold State.carryDrain
  dsimp only
  split
  · exact ite (refl s) (modStrand s x rfl rfl)
  · exact refl s

theorem ended (s : State) (c : Ctx) : s.KeepsRun (s.ended c) := (carryDrain s _ _).trans (asks (.lookDrain _ _))

end State.KeepsRun

/-- A strand that halts no longer runs. -/
theorem State.run_halt (s : State) (x : SId) (cause : Cause) : ((s.halt x cause).strand x).run = .halted := by
  unfold halt
  dsimp only
  rw [State.strand_post, (KeepsRun.killJob _ _).run, State.strand_modStrand]

/-- A trap halts its strand, or is one more that it has taken. -/
theorem State.enter_counts (s : State) (x : SId) (t : TrapInfo) (resume : Word) (element : Option Word) :
    ((s.enter x t resume element).strand x).run = .halted ∨
      ((s.enter x t resume element).strand x).traps = (s.strand x).traps + 1 := by
  have hbreak := (KeepsRun.breakRegion s x).traps x
  unfold enter
  dsimp only
  split
  · exact .inl (State.run_halt _ _ _)
  · right
    split
    · rw [State.strand_modStrand, hbreak]
    · rw [(KeepsRun.handlerFirst _ _).traps, State.strand_modStrand, hbreak]

end Sys2Proof.Machine
end

section
/-! O58: the frame of the instructions that only write registers of their strand. -/

namespace Sys2Proof.Machine

variable {s t u : State} {c : Ctx}

/-! ### Bytes of memory and scratch -/

theorem State.byteAt_congr (hmem : t.mem = s.mem) (hscratch : ∀ n, (t.core n).scratch = (s.core n).scratch) (k : Nat) :
    t.byteAt k = s.byteAt k := by
  rw [byteAt, byteAt, hmem, hscratch]

theorem SameOutside.byteAt {x : SId} (h : SameOutside x s t) (k : Nat) : t.byteAt k = s.byteAt k :=
  have hscratch (n : Nat) : (t.core n).scratch = (s.core n).scratch := by
    have := congrArg Core.scratch (h.cores n)
    exact this
  State.byteAt_congr h.mem hscratch k

theorem State.byteAt_modCore (s : State) (n : Nat) {f : Core → Core} (hf : (f (s.core n)).scratch = (s.core n).scratch) (k : Nat) :
    (s.modCore n f).byteAt k = s.byteAt k := by
  refine byteAt_congr (s := s) (t := s.modCore n f) rfl (fun m => ?_) k
  by_cases h : m = n
  · rw [h, State.core_modCore, hf]
  · rw [State.core_modCore_ne _ _ h]

theorem State.strand_modCore (s : State) (n : Nat) {f : Core → Core} (hf : (f (s.core n)).strands = (s.core n).strands) (y : SId) :
    (s.modCore n f).strand y = s.strand y := by
  rw [strand, strand, Core.strand, Core.strand]
  by_cases h : y.core = n
  · rw [h, State.core_modCore, hf]
  · rw [State.core_modCore_ne _ _ h]

theorem State.byteAt_commitSvec (s : State) (x : SId) (k : Nat) : (s.commitSvec x).byteAt k = s.byteAt k := by
  unfold commitSvec
  dsimp only
  split
  · exact ((SameOutside.modStrand _ x _).byteAt k).trans (byteAt_modCore s _ rfl k)
  · rfl

/-! ### Pending writes -/

theorem mem_of_mem_landAll {y : Pending} (v : Nat) : ∀ (ps : List Pending) (r : Regs), y ∈ (landAll ps v r).2 → y ∈ ps
  | [], _, h => h
  | p :: ps, r, h => by
    rw [landAll] at h
    split at h
    · exact List.mem_cons_of_mem p (mem_of_mem_landAll v ps _ h)
    · exact h

theorem mem_addPending {y n : Pending} : ∀ {ps : List Pending}, y ∈ addPending ps n → y ∈ ps ∨ y = n
  | [], h => .inr (List.mem_singleton.mp h)
  | p :: ps, h => by
    rw [addPending] at h
    split at h
    · rcases List.mem_cons.mp h with rfl | h
      · exact .inl List.mem_cons_self
      · exact (mem_addPending h).imp_left (List.mem_cons_of_mem p)
    · exact (List.mem_cons.mp h).symm

/-- A pending write is an earlier one, or one of those that the instruction has made. -/
theorem Strand.mem_addWrites {st : Strand} {v seq : Nat} {ds : List Dest} {y : Pending} (h : y ∈ (st.addWrites v seq ds).pending) :
    y ∈ st.pending ∨ y.seq = seq ∧ y.dest ∈ ds := by
  unfold addWrites at h
  revert h
  refine List.foldlRecOn ds _ (motive := fun ps => y ∈ ps → y ∈ st.pending ∨ y.seq = seq ∧ y.dest ∈ ds) .inl ?_
  intro ps hps d hd h
  rcases mem_addPending h with h | rfl
  · exact hps h
  · exact .inr ⟨rfl, hd⟩

/-! ### The state in which an instruction issues (R128, R141) -/

/-- What a change of a strand leaves of it: all that the frame speaks of, but for its registers and for new writes of instruction
`q` to destinations that `D` names. -/
structure Strand.Frame (D : Dest → Prop) (q : Nat) (st st' : Strand) : Prop where
  pending : ∀ y ∈ st'.pending, y ∈ st.pending ∨ y.seq = q ∧ D y.dest
  run : st'.run = st.run
  traps : st'.traps = st.traps
  drainT : st'.drainT = st.drainT
  dying : st'.dying = st.dying
  region : st'.region = st.region
  storeBuf : st'.storeBuf = st.storeBuf
  deferred : st'.deferred = st.deferred

namespace Strand.Frame

variable {D : Dest → Prop} {q : Nat} {st st' st'' : Strand}

theorem refl (st : Strand) : Frame D q st st := ⟨fun _ => .inl, rfl, rfl, rfl, rfl, rfl, rfl, rfl⟩

theorem trans (h : Frame D q st st') (h' : Frame D q st' st'') : Frame D q st st'' where
  pending y hy := (h'.pending y hy).elim (h.pending y) .inr
  run := h'.run.trans h.run
  traps := h'.traps.trans h.traps
  drainT := h'.drainT.trans h.drainT
  dying := h'.dying.trans h.dying
  region := h'.region.trans h.region
  storeBuf := h'.storeBuf.trans h.storeBuf
  deferred := h'.deferred.trans h.deferred

theorem settle (st : Strand) (v : Nat) : Frame D q st (st.settle v) :=
  ⟨fun _ h => .inl (mem_of_mem_landAll v _ _ h), rfl, rfl, rfl, rfl, rfl, rfl, rfl⟩

theorem addWrites (st : Strand) (v : Nat) {ds : List Dest} (hds : ∀ d ∈ ds, D d) : Frame D q st (st.addWrites v q ds) :=
  ⟨fun _ h => (mem_addWrites h).imp_right (And.imp_right (hds _)), rfl, rfl, rfl, rfl, rfl, rfl, rfl⟩

theorem commitSvec {x : SId} (h : Frame D q st (s.strand x)) : Frame D q st ((s.commitSvec x).strand x) := by
  unfold State.commitSvec
  dsimp only
  split
  · rw [State.strand_modStrand, State.strand_modCore _ _ rfl]
    exact ⟨h.pending, h.run, h.traps, h.drainT, h.dying, h.region, h.storeBuf, h.deferred⟩
  · exact h

end Strand.Frame

/-- The strand as its instruction issues. -/
theorem Issuing.frame (hi : Issuing s t c) (D : Dest → Prop) (q : Nat) : (s.strand c.sid).Frame D q (t.strand c.sid) := by
  have hsid := hi.sid
  obtain ⟨-, -, ht, -⟩ := hi
  rw [ht, hsid, State.atIssue]
  refine .commitSvec ?_
  rw [State.strand_modStrand]
  exact .settle _ _

theorem Issuing.vc (hi : Issuing s t c) : c.vc = s.issueVc s.cur := by rw [hi.context]; rfl

theorem State.seq_atIssue (s : State) (x : SId) (v : Nat) : ((s.atIssue x v).strand x).seq = (s.strand x).seq := by
  unfold atIssue commitSvec
  dsimp only
  split
  · rw [State.strand_modStrand, State.strand_modCore _ _ rfl, State.strand_modStrand]
    rfl
  · rw [State.strand_modStrand]
    rfl

theorem Issuing.seq (hi : Issuing s t c) : c.seq = (s.strand c.sid).seq := by
  rw [hi.sid, ← s.seq_atIssue s.cur (s.issueVc s.cur), ← hi.at_issue, hi.context]
  rfl

theorem Issuing.byteAt (hi : Issuing s t c) (k : Nat) : t.byteAt k = s.byteAt k := by
  rw [hi.at_issue, State.atIssue, State.byteAt_commitSvec]
  exact ((SameOutside.tick s.cur s _).trans (.modStrand _ _ _)).byteAt k

theorem State.commitSvec_of_none {x : SId} (h : (s.strand x).regs.csr.svecIn = none) : s.commitSvec x = s := by
  rw [commitSvec, h]

/-- Where no write to SVEC has landed, issuing lands the strand's writes alone (R388, R389). -/
theorem Issuing.plain (hi : Issuing s t c) (h : ((s.strand c.sid).landTo c.vc).regs.csr.svecIn = none) :
    SameOutside c.sid s t ∧ (t.strand c.sid).regs = ((s.strand c.sid).landTo c.vc).regs := by
  rw [hi.vc] at h ⊢
  have hsid := hi.sid
  obtain ⟨-, -, ht, -⟩ := hi
  rw [hsid] at h ⊢
  rw [State.atIssue, State.commitSvec_of_none] at ht
  · subst ht
    refine ⟨(SameOutside.tick _ s _).trans (.modStrand _ _ _), ?_⟩
    rw [State.strand_modStrand]
    rfl
  · rw [State.strand_modStrand]
    exact h


/-! ### The frame -/

/-- The control registers are as they were but for SRCTR (R236). -/
def Regs.SameButSrctr (x y : Regs) : Prop := x = { y with csr := { y.csr with srctr := x.csr.srctr } }

/-- A change of the strand's registers by `same` and of its pending writes by those that `D` names, with nothing else changed that the
frame speaks of. -/
structure Writes (same : Regs → Regs → Prop) (D : Dest → Prop) (c : Ctx) (t u : State) : Prop where
  outside : SameOutside c.sid t u
  regs : same (u.strand c.sid).regs (t.strand c.sid).regs
  strand : (t.strand c.sid).Frame D c.seq (u.strand c.sid)

/-- An entry that only writes registers, or faults. -/
def Act.Writes (same : Regs → Regs → Prop) (D : Dest → Prop) (c : Ctx) (t : State) : Act → Prop
  | .go u _ => Machine.Writes same D c t u
  | .fault _ => True
  | _ => False

/-- The frame of an instruction: what it leaves where it has run from s to u and no trap was taken. -/
def ChangesOnly (same : Regs → Regs → Prop) (D : Dest → Prop) (c : Ctx) (s t u : State) (i : Instr) : Prop :=
  let me := s.strand c.sid
  exec i s = .next u → (u.strand c.sid).run = .running → (u.strand c.sid).traps = me.traps →
    SameOutside c.sid t u ∧ (∀ k, u.byteAt k = s.byteAt k) ∧ same (u.strand c.sid).regs (t.strand c.sid).regs ∧
    ((me.landTo c.vc).regs.csr.svecIn = none → SameOutside c.sid s u ∧ same (u.strand c.sid).regs (me.landTo c.vc).regs) ∧
    (∀ y ∈ (u.strand c.sid).pending, y ∈ me.pending ∨ y.seq = me.seq ∧ D y.dest) ∧
    (u.strand c.sid).region = me.region ∧ (u.strand c.sid).storeBuf = me.storeBuf ∧ (u.strand c.sid).deferred = me.deferred

variable {same : Regs → Regs → Prop} {D : Dest → Prop}

namespace Writes

theorem refl (hsame : ∀ r, same r r) (t : State) : Writes same D c t t := ⟨.refl _ t, hsame _, .refl _⟩

theorem modStrand (h : Writes same D c t u) {f : Strand → Strand} (hregs : (f (u.strand c.sid)).regs = (u.strand c.sid).regs)
    (hf : (u.strand c.sid).Frame D c.seq (f (u.strand c.sid))) : Writes same D c t (u.modStrand c.sid f) where
  outside := h.outside.trans (.modStrand _ _ _)
  regs := by rw [State.strand_modStrand, hregs]; exact h.regs
  strand := by rw [State.strand_modStrand]; exact h.strand.trans hf

theorem results (h : Writes same D c t u) (lat : Nat) {ds : List Dest} (hds : ∀ d ∈ ds, D d) :
    Writes same D c t (u.results c lat ds) :=
  h.modStrand rfl (.addWrites _ _ hds)

theorem advance (h : Writes same D c t u) (next : Word) : Writes same D c t (u.advance c next) :=
  h.modStrand rfl ⟨fun _ => .inl, rfl, rfl, rfl, rfl, rfl, rfl, rfl⟩

/-- Where neither a kill nor a stop is under way, nothing follows the instruction (R74, R368). -/
theorem ended (h : Writes same D c t u) (hcalm : Calm t c.sid) : Writes same D c t (u.ended c) := by
  have hdrain := h.strand.drainT.trans hcalm.flowing
  have hdying := h.strand.dying.trans hcalm.alive
  have hended : u.ended c = u := by simp [State.ended, State.carryDrain, State.lookDrain, hdrain, hdying]
  rwa [hended]

end Writes

/-- A fault that takes no trap yet waits for the fault points of earlier instructions (R131). -/
theorem State.faulted_writes (hsame : ∀ r, same r r) (hcalm : Calm t c.sid) {f : TrapInfo}
    (hrun : ((t.faulted c f).strand c.sid).run = .running)
    (htraps : ((t.faulted c f).strand c.sid).traps = (t.strand c.sid).traps) : Writes same D c t (t.faulted c f) := by
  have hkeeps := KeepsRun.ended (t.faultAt c f) c
  rw [faulted, hkeeps.run] at hrun
  rw [faulted, hkeeps.traps] at htraps
  refine Writes.ended ?_ hcalm
  unfold faultAt at hrun htraps ⊢
  dsimp only at hrun htraps ⊢
  split
  case isFalse =>
    exact ((Writes.refl hsame t).modStrand rfl ⟨fun _ => .inl, rfl, rfl, rfl, rfl, rfl, rfl, rfl⟩).modStrand rfl
      ⟨fun _ => .inl, rfl, rfl, rfl, rfl, rfl, rfl, rfl⟩
  case isTrue hnone =>
    rw [if_pos hnone] at hrun htraps
    rcases State.enter_counts _ c.sid f c.gpc none with h | h
    · exact absurd (h.symm.trans hrun) (by decide)
    · rw [h] at htraps
      simp at htraps

theorem Writes.changesOnly (h : Writes same D c t u) (hi : Issuing s t c) (i : Instr) : ChangesOnly same D c s t u i := by
  intro _ _ _
  have hframe := (hi.frame D c.seq).trans h.strand
  refine ⟨h.outside, fun k => (h.outside.byteAt k).trans (hi.byteAt k), h.regs, fun hsvec => ?_, hi.seq ▸ hframe.pending, hframe.region,
    hframe.storeBuf, hframe.deferred⟩
  obtain ⟨houtside, hregs⟩ := hi.plain hsvec
  exact ⟨houtside.trans h.outside, hregs ▸ h.regs⟩

/-- An instruction whose entry only writes registers, or faults, changes nothing else. -/
theorem ChangesOnly.of_issue (hsame : ∀ r, same r r) (hi : Issuing s t c) (hcalm : Calm s c.sid) {i : Instr} {att : Attach}
    {us : List Use} {super : Bool} {entry : State → Ctx → Act} (hx : exec i s = issue s att us super entry)
    (ha : (entry t c).Writes same D c t) : ChangesOnly same D c s t u i := by
  intro hexec hrun htraps
  have hstrand := hi.frame D c.seq
  have hcalm' : Calm t c.sid := ⟨hstrand.dying.trans hcalm.alive, hstrand.drainT.trans hcalm.flowing⟩
  suffices hw : Writes same D c t u from hw.changesOnly hi i hexec hrun htraps
  have hfault {f : TrapInfo} (hu : u = t.faulted c f) : Writes same D c t u := by
    subst hu
    exact State.faulted_writes hsame hcalm' hrun (htraps.trans hstrand.traps.symm)
  rw [hx] at hexec
  cases hd : decodeTrap att us super t c with
  | some f =>
    rw [issue_trap hi hd] at hexec
    exact hfault (Host.Outcome.next.inj hexec).symm
  | none =>
    rw [issue_eq hi hd] at hexec
    have hu := (Host.Outcome.next.inj hexec).symm
    cases hact : entry t c with
    | go w next =>
      rw [hact] at hu ha
      subst hu
      exact (Writes.advance ha next).ended hcalm'
    | fault f =>
      rw [hact] at hu
      exact hfault hu
    | _ => rw [hact] at ha; exact ha.elim


/-- The draws of a conversion (R236). -/
theorem State.draw_writes (t : State) (n : Nat) (c : Ctx) : Writes Regs.SameButSrctr D c t (t.draw c n) where
  outside := .modStrand _ _ _
  regs := by
    rw [draw, State.strand_modStrand]
    rfl
  strand := by
    rw [draw, State.strand_modStrand]
    exact ⟨fun _ => .inl, rfl, rfl, rfl, rfl, rfl, rfl, rfl⟩

/-! ### The instructions by the shape of their entries -/

/-- A write to a general register. -/
def toG (n : Nat) (y : Dest) : Prop := ∃ v, y = .g n v
/-- A write to a vector register. -/
def toV (n : Nat) (y : Dest) : Prop := ∃ v, y = .v n v
/-- A write to a predicate register. -/
def toP (n : Nat) (y : Dest) : Prop := ∃ v, y = .p n v

namespace Act.Writes

theorem result (lat : Nat) {d : Dest} (next : Word) (hd : D d) : Act.Writes Eq D c t (.go (t.results c lat [d]) next) :=
  (Machine.Writes.refl (fun _ => rfl) t).results lat (List.forall_mem_singleton.mpr hd)

theorem branchTo {w : Word} (h : Machine.Writes same D c t u) : Act.Writes same D c t (branchTo w u) := by
  unfold Machine.branchTo
  split
  · trivial
  · exact h

theorem ite {p : Prop} [Decidable p] {x y : Act} (hx : x.Writes same D c t) (hy : y.Writes same D c t) :
    (if p then x else y).Writes same D c t := by
  split <;> assumption

end Act.Writes

/-! #### Sources and results that are registers (R250, R254) -/

theorem withSources_of_registers {srcs : List RField} (h : ∀ f ∈ srcs, linkPort f = none) (k : State → List VWord → Act) :
    withSources t c srcs none k = k t (srcs.map c.v) := by
  have hpops : srcs.filterMap linkPort = [] := List.filterMap_eq_nil_iff.mpr h
  simp [withSources, hpops, onward]

theorem State.vectorResult_of_register {d : RField} (h : linkPort d = none) (lat : Nat) (v : VWord) :
    t.vectorResult c lat d v = t.results c lat [.v d.toNat v] := by
  rw [vectorResult, h]

section
variable {d : RField} {srcs : List RField} (hd : linkPort d = none) (hs : ∀ f ∈ srcs, linkPort f = none)
include hd hs

theorem Act.Writes.vectorEntry (lat : Nat) (f : List VWord → VWord) :
    (vectorEntry lat d srcs f t c).Writes Eq (toV d.toNat) c t := by
  rw [Machine.vectorEntry, hd, withSources_of_registers hs, State.vectorResult_of_register hd]
  exact .result _ _ ⟨_, rfl⟩

theorem Act.Writes.roundedEntry (lat : Nat) (f : Nat → Bool → List VWord → VWord) :
    (roundedEntry lat d srcs f t c).Writes Eq (toV d.toNat) c t := by
  rw [Machine.roundedEntry, hd, withSources_of_registers hs]
  cases c.mode false with
  | none => trivial
  | some m =>
    dsimp only
    rw [State.vectorResult_of_register hd]
    exact .result _ _ ⟨_, rfl⟩

end

section
variable (hi : Issuing s t c) (hcalm : Calm s c.sid)
include hi hcalm

theorem ChangesOnly.of_entry {i : Instr} {att : Attach} {us : List Use} {super : Bool} {entry : State → Ctx → Act}
    (hx : exec i s = issue s att us super entry) (ha : (entry t c).Writes Eq D c t) : ChangesOnly Eq D c s t u i :=
  .of_issue (fun _ => rfl) hi hcalm hx ha

theorem ChangesOnly.of_scalar2 {d a b : RField} {i : Instr} {lat : Nat} {f : Word → Word → Word} (hx : exec i s = scalar2 lat f d a b s) :
    ChangesOnly Eq (toG (c.h.x (gD d))) c s t u i :=
  .of_entry hi hcalm hx (.result _ _ ⟨_, rfl⟩)

theorem ChangesOnly.of_scalar1 {d a : RField} {i : Instr} {f : Word → Word} (hx : exec i s = scalar1 f d a s) :
    ChangesOnly Eq (toG (c.h.x (gD d))) c s t u i :=
  .of_entry hi hcalm hx (.result _ _ ⟨_, rfl⟩)

theorem ChangesOnly.of_pred2 {p q r : PField} {i : Instr} {f : PWord → PWord → PWord} (hx : exec i s = pred2 f p q r s) :
    ChangesOnly Eq (toP p.toNat) c s t u i :=
  .of_entry hi hcalm hx (.result _ _ ⟨_, rfl⟩)

theorem ChangesOnly.of_pcmp {p : PField} {a b : RField} {i : Instr} {f : Word → Word → Bool} (hx : exec i s = pcmp f p a b s) :
    ChangesOnly Eq (toP p.toNat) c s t u i :=
  .of_entry hi hcalm hx (.result _ _ ⟨_, rfl⟩)

theorem ChangesOnly.of_branchOn {o : BitVec 22} {i : Instr} {taken : Ctx → Bool} (hx : exec i s = branchOn taken o s) :
    ChangesOnly Eq (fun _ => False) c s t u i :=
  .of_entry hi hcalm hx (Machine.Writes.refl (fun _ => rfl) t)

end

/-! ### The instructions by their destinations -/

/-- The instructions whose result is a general register. -/
def registerInstrs (d a b : RField) (q : PField) (i : BitVec 14) (l m : BitVec 6) (n : BitVec 12) : List Instr :=
  [.add d a b, .sub d a b, .mul d a b, .mulhs d a b, .mulhz d a b, .div d a b, .divz d a b, .rem d a b, .remz d a b, .and d a b,
    .or d a b, .xor d a b, .andn d a b, .orn d a b, .shl d a b, .shr d a b, .sar d a b, .rol d a b, .ror d a b, .min d a b, .max d a b,
    .minz d a b, .maxz d a b, .slt d a b, .sltz d a b, .seq d a b, .clz d a, .ctz d a, .popc d a, .bswp d a, .sxtS8 d a, .sxtS16 d a,
    .sxtS32 d a, .zxtB8 d a, .zxtB16 d a, .zxtB32 d a, .csel d a b q, .movpGP d q, .addi d a i, .movi d i, .lea d i, .bfx d a l m,
    .bfxS d a l m, .bfi d a l m, .loop d i, .csrr d n, .rdtime d, .rdperf d a]

/-- The instructions whose result is a predicate register. -/
def predicateInstrs (a b : RField) (p q r : PField) : List Instr :=
  [.pand p q r, .por p q r, .pxor p q r, .pnot p q, .movpPG p a, .pcmpEq p a b, .pcmpNe p a b, .pcmpLt p a b, .pcmpGe p a b,
    .pcmpLtu p a b, .pcmpGeu p a b, .pcmpTst p a b, .spoll p]

/-- The instructions without a result. -/
def branchInstrs (a : RField) (p : PField) (o : BitVec 22) : List Instr := [.nop, .br o, .brp p o, .brpN p o, .brr a]

/-- The vector instructions lane by lane and over lanes, whose result is a vector register where it is no link port. -/
def vectorInstrs (d a b : RField) (q : PField) (T U : Fmt) : List Instr :=
  [.vadd d a b T, .vsub d a b T, .vmul d a b T, .vmulh d a b T, .vfma d a b T, .vfms d a b T, .vfnma d a b T, .vdiv d a b T,
    .vmin d a b T, .vmax d a b T, .vabs d a T, .vneg d a T, .vsat d a U T, .vclz d a T, .vpopc d a T, .vand d a b T, .vor d a b T,
    .vxor d a b T, .vandn d a b T, .vshl d a b T, .vshr d a b T, .vsar d a b T, .vsel d a b q, .vdot4 d a b T, .vdot2 d a b T,
    .vshuf d a b T, .vperm d a b T, .vredadd d a T, .vredmin d a T, .vredmax d a T, .vrng d a b, .vmov d a T]

section
variable (hi : Issuing s t c) (hcalm : Calm s c.sid)
include hi hcalm

/-- A number that names no counter is a fault (R395). -/
theorem rdperf_changesOnly (d a : RField) : ChangesOnly Eq (toG (c.h.x (gD d))) c s t u (.rdperf d a) := by
  refine .of_entry hi hcalm (exec_rdperf ..) ?_
  split
  · exact .result _ _ ⟨_, rfl⟩
  · trivial

theorem registerInstrs_changeOnly (d a b : RField) (q : PField) (i : BitVec 14) (l m : BitVec 6) (n : BitVec 12) :
    ∀ j ∈ registerInstrs d a b q i l m n, ChangesOnly Eq (toG (c.h.x (gD d))) c s t u j := by
  simp only [registerInstrs, List.forall_mem_cons]
  refine ⟨.of_scalar2 hi hcalm (exec_add ..),
    .of_scalar2 hi hcalm (exec_sub ..),
    .of_scalar2 hi hcalm (exec_mul ..),
    .of_scalar2 hi hcalm (exec_mulhs ..),
    .of_scalar2 hi hcalm (exec_mulhz ..),
    .of_scalar2 hi hcalm (exec_div ..),
    .of_scalar2 hi hcalm (exec_divz ..),
    .of_scalar2 hi hcalm (exec_rem ..),
    .of_scalar2 hi hcalm (exec_remz ..),
    .of_scalar2 hi hcalm (exec_and ..),
    .of_scalar2 hi hcalm (exec_or ..),
    .of_scalar2 hi hcalm (exec_xor ..),
    .of_scalar2 hi hcalm (exec_andn ..),
    .of_scalar2 hi hcalm (exec_orn ..),
    .of_scalar2 hi hcalm (exec_shl ..),
    .of_scalar2 hi hcalm (exec_shr ..),
    .of_scalar2 hi hcalm (exec_sar ..),
    .of_scalar2 hi hcalm (exec_rol ..),
    .of_scalar2 hi hcalm (exec_ror ..),
    .of_scalar2 hi hcalm (exec_min ..),
    .of_scalar2 hi hcalm (exec_max ..),
    .of_scalar2 hi hcalm (exec_minz ..),
    .of_scalar2 hi hcalm (exec_maxz ..),
    .of_scalar2 hi hcalm (exec_slt ..),
    .of_scalar2 hi hcalm (exec_sltz ..),
    .of_scalar2 hi hcalm (exec_seq ..),
    .of_scalar1 hi hcalm (exec_clz ..),
    .of_scalar1 hi hcalm (exec_ctz ..),
    .of_scalar1 hi hcalm (exec_popc ..),
    .of_scalar1 hi hcalm (exec_bswp ..),
    .of_scalar1 hi hcalm (exec_sxtS8 ..),
    .of_scalar1 hi hcalm (exec_sxtS16 ..),
    .of_scalar1 hi hcalm (exec_sxtS32 ..),
    .of_scalar1 hi hcalm (exec_zxtB8 ..),
    .of_scalar1 hi hcalm (exec_zxtB16 ..),
    .of_scalar1 hi hcalm (exec_zxtB32 ..),
    .of_entry hi hcalm (exec_csel ..) (.result _ _ ⟨_, rfl⟩),
    .of_entry hi hcalm (exec_movpGP ..) (.result _ _ ⟨_, rfl⟩),
    .of_entry hi hcalm (exec_addi ..) (.result _ _ ⟨_, rfl⟩),
    .of_entry hi hcalm (exec_movi ..) (.result _ _ ⟨_, rfl⟩),
    .of_entry hi hcalm (exec_lea ..) (.result _ _ ⟨_, rfl⟩),
    .of_scalar1 hi hcalm (exec_bfx ..),
    .of_scalar1 hi hcalm (exec_bfxS ..),
    .of_entry hi hcalm (exec_bfi ..) (.result _ _ ⟨_, rfl⟩),
    .of_entry hi hcalm (exec_loop ..) (.result _ _ ⟨_, rfl⟩),
    .of_entry hi hcalm (exec_csrr ..) (.result _ _ ⟨_, rfl⟩),
    .of_entry hi hcalm (exec_rdtime ..) (.result _ _ ⟨_, rfl⟩),
    rdperf_changesOnly hi hcalm d a,
    List.forall_mem_nil _⟩

theorem predicateInstrs_changeOnly (a b : RField) (p q r : PField) :
    ∀ j ∈ predicateInstrs a b p q r, ChangesOnly Eq (toP p.toNat) c s t u j := by
  simp only [predicateInstrs, List.forall_mem_cons]
  refine ⟨.of_pred2 hi hcalm (exec_pand ..),
    .of_pred2 hi hcalm (exec_por ..),
    .of_pred2 hi hcalm (exec_pxor ..),
    .of_entry hi hcalm (exec_pnot ..) (.result _ _ ⟨_, rfl⟩),
    .of_entry hi hcalm (exec_movpPG ..) (.result _ _ ⟨_, rfl⟩),
    .of_pcmp hi hcalm (exec_pcmpEq ..),
    .of_pcmp hi hcalm (exec_pcmpNe ..),
    .of_pcmp hi hcalm (exec_pcmpLt ..),
    .of_pcmp hi hcalm (exec_pcmpGe ..),
    .of_pcmp hi hcalm (exec_pcmpLtu ..),
    .of_pcmp hi hcalm (exec_pcmpGeu ..),
    .of_pcmp hi hcalm (exec_pcmpTst ..),
    .of_entry hi hcalm (exec_spoll ..) (.result _ _ ⟨_, rfl⟩),
    List.forall_mem_nil _⟩

theorem branchInstrs_changeOnly (a : RField) (p : PField) (o : BitVec 22) :
    ∀ j ∈ branchInstrs a p o, ChangesOnly Eq (fun _ => False) c s t u j := by
  simp only [branchInstrs, List.forall_mem_cons]
  refine ⟨.of_entry hi hcalm (exec_nop ..) (Writes.refl (fun _ => rfl) t),
    .of_branchOn hi hcalm (exec_br ..),
    .of_branchOn hi hcalm (exec_brp ..),
    .of_branchOn hi hcalm (exec_brpN ..),
    .of_entry hi hcalm (exec_brr ..) (.branchTo (.refl (fun _ => rfl) t)),
    List.forall_mem_nil _⟩

theorem callInstrs_changeOnly (a : RField) (o : BitVec 22) :
    ∀ j ∈ [Instr.call o, .callr a], ChangesOnly Eq (toG 31) c s t u j := by
  simp only [List.forall_mem_cons]
  refine ⟨.of_entry hi hcalm (exec_call ..) (.result _ _ ⟨_, rfl⟩),
    .of_entry hi hcalm (exec_callr ..) (.branchTo ?_), List.forall_mem_nil _⟩
  exact (Writes.refl (fun _ => rfl) t).results 1 (List.forall_mem_singleton.mpr ⟨_, rfl⟩)

variable {d a b : RField} (T U : Fmt)

theorem vins_changesOnly (l : BitVec 6) : ChangesOnly Eq (toV d.toNat) c s t u (.vins d a l T) :=
  .of_entry hi hcalm (exec_vins ..) (.result _ _ ⟨_, rfl⟩)

section
variable (hd : linkPort d = none)
include hd

theorem vsplat_changesOnly : ChangesOnly Eq (toV d.toNat) c s t u (.vsplat d a T) :=
  .of_entry hi hcalm (exec_vsplat ..) (.vectorEntry hd (List.forall_mem_nil _) _ _)

section
variable (ha : linkPort a = none)
include ha

theorem vectorInstrs_changeOnly (hb : linkPort b = none) (q : PField) :
    ∀ j ∈ vectorInstrs d a b q T U, ChangesOnly Eq (toV d.toNat) c s t u j := by
  have hab : ∀ f ∈ [a, b], linkPort f = none := by simp [ha, hb]
  replace ha : ∀ f ∈ [a], linkPort f = none := by simp [ha]
  simp only [vectorInstrs, List.forall_mem_cons]
  refine ⟨.of_entry hi hcalm (exec_vadd ..) (.ite (.vectorEntry hd hab _ _) (.roundedEntry hd hab _ _)),
    .of_entry hi hcalm (exec_vsub ..) (.ite (.vectorEntry hd hab _ _) (.roundedEntry hd hab _ _)),
    .of_entry hi hcalm (exec_vmul ..) (.ite (.vectorEntry hd hab _ _) (.roundedEntry hd hab _ _)),
    .of_entry hi hcalm (exec_vmulh ..) (.vectorEntry hd hab _ _),
    .of_entry hi hcalm (exec_vfma ..) (.ite (.vectorEntry hd hab _ _) (.roundedEntry hd hab _ _)),
    .of_entry hi hcalm (exec_vfms ..) (.ite (.vectorEntry hd hab _ _) (.roundedEntry hd hab _ _)),
    .of_entry hi hcalm (exec_vfnma ..) (.ite (.vectorEntry hd hab _ _) (.roundedEntry hd hab _ _)),
    .of_entry hi hcalm (exec_vdiv ..) (.ite (.vectorEntry hd hab _ _) (.roundedEntry hd hab _ _)),
    .of_entry hi hcalm (exec_vmin ..) (.vectorEntry hd hab _ _),
    .of_entry hi hcalm (exec_vmax ..) (.vectorEntry hd hab _ _),
    .of_entry hi hcalm (exec_vabs ..) (.vectorEntry hd ha _ _),
    .of_entry hi hcalm (exec_vneg ..) (.vectorEntry hd ha _ _),
    .of_entry hi hcalm (exec_vsat ..) (.vectorEntry hd ha _ _),
    .of_entry hi hcalm (exec_vclz ..) (.vectorEntry hd ha _ _),
    .of_entry hi hcalm (exec_vpopc ..) (.vectorEntry hd ha _ _),
    .of_entry hi hcalm (exec_vand ..) (.vectorEntry hd hab _ _),
    .of_entry hi hcalm (exec_vor ..) (.vectorEntry hd hab _ _),
    .of_entry hi hcalm (exec_vxor ..) (.vectorEntry hd hab _ _),
    .of_entry hi hcalm (exec_vandn ..) (.vectorEntry hd hab _ _),
    .of_entry hi hcalm (exec_vshl ..) (.vectorEntry hd hab _ _),
    .of_entry hi hcalm (exec_vshr ..) (.vectorEntry hd hab _ _),
    .of_entry hi hcalm (exec_vsar ..) (.vectorEntry hd hab _ _),
    .of_entry hi hcalm (exec_vsel ..) (.vectorEntry hd hab _ _),
    .of_entry hi hcalm (exec_vdot4 ..) (.vectorEntry hd hab _ _),
    .of_entry hi hcalm (exec_vdot2 ..) (.ite (.vectorEntry hd hab _ _) (.roundedEntry hd hab _ _)),
    .of_entry hi hcalm (exec_vshuf ..) (.vectorEntry hd hab _ _),
    .of_entry hi hcalm (exec_vperm ..) (.vectorEntry hd hab _ _),
    .of_entry hi hcalm (exec_vredadd ..) (.ite (.vectorEntry hd ha _ _) (.roundedEntry hd ha _ _)),
    .of_entry hi hcalm (exec_vredmin ..) (.vectorEntry hd ha _ _),
    .of_entry hi hcalm (exec_vredmax ..) (.vectorEntry hd ha _ _),
    .of_entry hi hcalm (exec_vrng ..) (.vectorEntry hd hab _ _),
    .of_entry hi hcalm (exec_vmov ..) (.vectorEntry hd ha _ _),
    List.forall_mem_nil _⟩

/-- VCVT's draws advance SRCTR (R236). -/
theorem vcvt_changesOnly : ChangesOnly Regs.SameButSrctr (toV d.toNat) c s t u (.vcvt d a U T) := by
  have hsame (r : Regs) : r.SameButSrctr r := rfl
  refine .of_issue hsame hi hcalm (exec_vcvt ..) ?_
  rw [hd, withSources_of_registers (List.forall_mem_singleton.mpr ha)]
  have hresult {w : State} (hw : Writes Regs.SameButSrctr (toV d.toNat) c t w) (v : VWord) :
      (Act.go (w.vectorResult c 3 d v) c.next).Writes Regs.SameButSrctr (toV d.toNat) c t := by
    rw [State.vectorResult_of_register hd]
    exact hw.results 3 (List.forall_mem_singleton.mpr ⟨_, rfl⟩)
  split
  · trivial
  · split
    · exact hresult (t.draw_writes _ c) _
    · exact hresult (.refl hsame t) _

end
end

theorem vext_changesOnly (ha : linkPort a = none) (l : BitVec 6) :
    ChangesOnly Eq (toG (c.h.x (gD d))) c s t u (.vext d a l T) := by
  refine .of_entry hi hcalm (exec_vext ..) ?_
  rw [withSources_of_registers (List.forall_mem_singleton.mpr ha)]
  exact .result _ _ ⟨_, rfl⟩

theorem vcmp_changesOnly (ha : linkPort a = none) (hb : linkPort b = none) (k : VCond) (p : PField) :
    ChangesOnly Eq (toP p.toNat) c s t u (.vcmp k p a b T) := by
  refine .of_entry hi hcalm (exec_vcmp ..) ?_
  rw [withSources_of_registers (by simp [ha, hb])]
  exact .result _ _ ⟨_, rfl⟩

end

/-- Settles O58: the entry of each instruction writes its destination alone, or faults. -/
theorem registerInstructionsChangeNothingElse : Obligations.RegisterInstructionsChangeNothingElse := by
  unfold Obligations.RegisterInstructionsChangeNothingElse
  intro s t u c d a b p q r i o l m n k T U hi hcalm
  exact ⟨registerInstrs_changeOnly hi hcalm d a b q i l m n, predicateInstrs_changeOnly hi hcalm a b p q r,
    branchInstrs_changeOnly hi hcalm a p o, callInstrs_changeOnly hi hcalm a o, vins_changesOnly hi hcalm T l,
    fun hd ha hb => ⟨vectorInstrs_changeOnly hi hcalm T U hd ha hb q, vcvt_changesOnly hi hcalm T U hd ha⟩,
    vsplat_changesOnly hi hcalm T, fun ha => vext_changesOnly hi hcalm T ha l, fun ha hb => vcmp_changesOnly hi hcalm T ha hb k p⟩

end Sys2Proof.Machine
end

section
/-! O1: the two-operand scalar instructions. -/

namespace Sys2Proof.Machine

/-! ### Values (R145) -/

section
variable (x y : Word)

theorem divS_eq : divS x y = if y = 0 then BitVec.allOnes 64 else x.sdiv y := by
  have hdiv : BitVec.ofInt 64 (x.toInt.tdiv y.toInt) = x.sdiv y :=
    BitVec.eq_of_toInt_eq (by rw [BitVec.toInt_ofInt, BitVec.toInt_sdiv])
  rw [divS, hdiv]

theorem remS_eq : remS x y = if y = 0 then x else x.srem y := by
  rw [remS, ← BitVec.toInt_srem, BitVec.ofInt_toInt]

theorem divU_eq : divU x y = if y = 0 then BitVec.allOnes 64 else x / y := by
  rw [divU, ← BitVec.toNat_udiv, BitVec.ofNat_toNat, BitVec.setWidth_eq]

theorem remU_eq : remU x y = if y = 0 then x else x % y := by
  rw [remU, ← BitVec.toNat_umod, BitVec.ofNat_toNat, BitVec.setWidth_eq]

end

theorem word1_eq {b : Bool} {p : Prop} [Decidable p] (h : b = true ↔ p) : word1 b = if p then 1 else 0 := if_congr h rfl rfl

theorem Lands.of_scalar2 {s t : State} {c : Ctx} {i : Instr} {d a b : RField} {lat : Nat} {f : Word → Word → Word} {v : Word}
    (hi : Issuing s t c) (hd : decodeTrap {} [gD d, gA a, gB b] false t c = none) (hx : exec i s = scalar2 lat f d a b s)
    (hv : f (c.g (gA a)) (c.g (gB b)) = v) : Lands s t c i lat [.g (c.h.x (gD d)) v] :=
  hv ▸ .of_issue hi hd hx rfl

/-- Settles O1: each form lands its value at its latency. -/
theorem scalarTwoOperandResults : Obligations.ScalarTwoOperandResults := by
  unfold Obligations.ScalarTwoOperandResults
  intro s t c d a b hi hd x y R
  have hslt {x y : Word} : x.slt y = true ↔ x.toInt < y.toInt := BitVec.slt_iff_toInt_lt
  have hult {x y : Word} : x.ult y = true ↔ x.toNat < y.toNat := BitVec.ult_iff_lt
  exact ⟨.of_scalar2 hi hd (exec_add ..) rfl, .of_scalar2 hi hd (exec_sub ..) rfl, .of_scalar2 hi hd (exec_mul ..) rfl,
    .of_scalar2 hi hd (exec_mulhs ..) rfl, .of_scalar2 hi hd (exec_mulhz ..) rfl, .of_scalar2 hi hd (exec_div ..) (divS_eq x y),
    .of_scalar2 hi hd (exec_divz ..) (divU_eq x y), .of_scalar2 hi hd (exec_rem ..) (remS_eq x y),
    .of_scalar2 hi hd (exec_remz ..) (remU_eq x y),
    .of_scalar2 hi hd (exec_and ..) rfl, .of_scalar2 hi hd (exec_or ..) rfl, .of_scalar2 hi hd (exec_xor ..) rfl,
    .of_scalar2 hi hd (exec_andn ..) rfl, .of_scalar2 hi hd (exec_orn ..) rfl, .of_scalar2 hi hd (exec_shl ..) rfl,
    .of_scalar2 hi hd (exec_shr ..) rfl, .of_scalar2 hi hd (exec_sar ..) rfl, .of_scalar2 hi hd (exec_rol ..) rfl,
    .of_scalar2 hi hd (exec_ror ..) rfl, .of_scalar2 hi hd (exec_min ..) (if_congr hslt rfl rfl),
    .of_scalar2 hi hd (exec_max ..) (if_congr hslt rfl rfl),
    .of_scalar2 hi hd (exec_minz ..) (if_congr hult rfl rfl), .of_scalar2 hi hd (exec_maxz ..) (if_congr hult rfl rfl),
    .of_scalar2 hi hd (exec_slt ..) (word1_eq hslt),
    .of_scalar2 hi hd (exec_sltz ..) (word1_eq hult), .of_scalar2 hi hd (exec_seq ..) (word1_eq beq_iff_eq)⟩

end Sys2Proof.Machine
end

section
/-! O2: the one-operand scalar instructions. -/

namespace Sys2Proof.Machine

/-! ### What the counts count (R146) -/

/-- The leading one of a number of w bits stands behind its leading zeros. -/
theorem leadingZeros_spec {w x : Nat} (hx : x < 2 ^ w) (hne : x ≠ 0) : leadingZeros w x < w ∧
    x.testBit (w - 1 - leadingZeros w x) = true ∧ ∀ k, w - 1 - leadingZeros w x < k → x.testBit k = false := by
  induction w with
  | zero => exact absurd (Nat.lt_one_iff.mp hx) hne
  | succ w ih =>
    rw [leadingZeros]
    split
    next htop =>
      refine ⟨Nat.succ_pos w, by rw [Nat.testBit_eq_decide_div_mod_eq]; exact decide_eq_true htop, fun k hk => ?_⟩
      exact Nat.testBit_lt_two_pow (hx.trans_le (Nat.pow_le_pow_right (by decide) hk))
    next htop =>
      have hlow : x < 2 ^ w := by
        by_contra hge
        exact htop (by rw [Nat.div_eq_of_lt_le (k := 1) (by omega) (by rw [Nat.pow_succ] at hx; omega)])
      obtain ⟨hlt, hone, hzeros⟩ := ih hlow
      rw [show w + 1 - 1 - (1 + leadingZeros w x) = w - 1 - leadingZeros w x by omega]
      exact ⟨by omega, hone, hzeros⟩

/-- The lowest one of a number of w bits stands behind its trailing zeros. -/
theorem trailingZeros_spec {w x : Nat} (hx : x < 2 ^ w) (hne : x ≠ 0) : trailingZeros w x < w ∧
    x.testBit (trailingZeros w x) = true ∧ ∀ k, k < trailingZeros w x → x.testBit k = false := by
  induction w generalizing x with
  | zero => exact absurd (Nat.lt_one_iff.mp hx) hne
  | succ w ih =>
    rw [trailingZeros]
    split
    next hodd => exact ⟨Nat.succ_pos w, by simp [Nat.testBit_zero, hodd], fun k hk => absurd hk (Nat.not_lt_zero k)⟩
    next heven =>
      obtain ⟨hlt, hone, hzeros⟩ := ih (x := x / 2) (by rw [Nat.pow_succ] at hx; omega) (by omega)
      rw [Nat.add_comm 1]
      refine ⟨by omega, by rwa [Nat.testBit_succ], fun k hk => ?_⟩
      cases k with
      | zero => simp [Nat.testBit_zero, heven]
      | succ k => rw [Nat.testBit_succ]; exact hzeros k (by omega)

theorem onesCount_eq (w x : Nat) : onesCount w x = ((List.range w).filter fun k => x.testBit k).length := by
  induction w generalizing x with
  | zero => rfl
  | succ w ih =>
    rw [onesCount, ih, List.range_succ_eq_map, List.filter_cons, List.filter_map, Nat.testBit_zero]
    have hshift : (fun k => x.testBit k) ∘ Nat.succ = fun k => (x / 2).testBit k := funext fun k => Nat.testBit_succ x k
    rw [hshift]
    rcases Nat.mod_two_eq_zero_or_one x with hx | hx
    · simp [hx]
    · simp [hx, Nat.add_comm 1]

/-! ### Values (R146) -/

theorem sext_eq (x : Word) {w : Nat} (hw : 0 < w) : sext x w = (x.setWidth w).signExtend 64 := by
  rw [sext, ← BitVec.toNat_setWidth, ofInt_signedField hw]

theorem zext_eq (x : Word) (w : Nat) : zext x w = (x.setWidth w).setWidth 64 := by
  rw [zext, ← BitVec.toNat_setWidth, BitVec.ofNat_toNat]

theorem byteSwap_eq (x : Word) : byteSwap x = x.extractLsb' 0 8 ++ x.extractLsb' 8 8 ++ x.extractLsb' 16 8 ++ x.extractLsb' 24 8 ++
    x.extractLsb' 32 8 ++ x.extractLsb' 40 8 ++ x.extractLsb' 48 8 ++ x.extractLsb' 56 8 := by
  apply BitVec.eq_of_toNat_eq
  simp only [byteSwap, toNat_append_add, BitVec.extractLsb'_toNat, Nat.shiftRight_eq_div_pow, BitVec.toNat_ofNat]
  simp [List.range_succ]
  omega

theorem Lands.of_scalar1_value {s t : State} {c : Ctx} {i : Instr} {d a : RField} {f : Word → Word} {v : Word} (hi : Issuing s t c)
    (hd : decodeTrap {} [gD d, gA a] false t c = none) (hx : exec i s = scalar1 f d a s) (hv : f (c.g (gA a)) = v) :
    Lands s t c i 1 [.g (c.h.x (gD d)) v] :=
  hv ▸ .of_scalar1 hi hd hx

/-- Settles O2: each form lands its value at ISSUE + LAT_ALU, and the counts are those of the operand's bits. -/
theorem scalarOneOperandResults : Obligations.ScalarOneOperandResults := by
  unfold Obligations.ScalarOneOperandResults
  refine ⟨?_, fun x hx => ⟨_, rfl, leadingZeros_spec x.isLt fun h => hx (BitVec.eq_of_toNat_eq h)⟩,
    fun x hx => ⟨_, rfl, trailingZeros_spec x.isLt fun h => hx (BitVec.eq_of_toNat_eq h)⟩, rfl, rfl, fun x => onesCount_eq 64 x.toNat⟩
  intro s t c d a hi hd x R
  exact ⟨.of_scalar1_value hi hd (exec_clz ..) rfl, .of_scalar1_value hi hd (exec_ctz ..) rfl,
    .of_scalar1_value hi hd (exec_popc ..) rfl, .of_scalar1_value hi hd (exec_bswp ..) (byteSwap_eq x),
    .of_scalar1_value hi hd (exec_sxtS8 ..) (sext_eq x (by decide)), .of_scalar1_value hi hd (exec_sxtS16 ..) (sext_eq x (by decide)),
    .of_scalar1_value hi hd (exec_sxtS32 ..) (sext_eq x (by decide)), .of_scalar1_value hi hd (exec_zxtB8 ..) (zext_eq x 8),
    .of_scalar1_value hi hd (exec_zxtB16 ..) (zext_eq x 16), .of_scalar1_value hi hd (exec_zxtB32 ..) (zext_eq x 32)⟩

end Sys2Proof.Machine
end

section
/-! O3: select, predicate logic and compares. -/

namespace Sys2Proof.Machine

theorem predBit_eq (p : PWord) : predBit p = p.getLsbD 0 := bitOf_eq_getLsbD p 0

theorem predOf_eq {b : Bool} {p : Prop} [Decidable p] (h : b = true ↔ p) : predOf b = if p then 0xFFFF else 0 := if_congr h rfl rfl

section
variable {s t : State} {c : Ctx} {i : Instr}

theorem Lands.of_pred2 {d a b : PField} {f : PWord → PWord → PWord} {v : PWord} (hi : Issuing s t c)
    (hd : decodeTrap {} [] false t c = none) (hx : exec i s = pred2 f d a b s) (hv : f (c.p a) (c.p b) = v) :
    Lands s t c i 1 [.p d.toNat v] :=
  hv ▸ .of_issue hi hd hx rfl

theorem Lands.of_pcmp {d : PField} {a b : RField} {f : Word → Word → Bool} {p : Prop} [Decidable p] (hi : Issuing s t c)
    (hd : decodeTrap {} [gA a, gB b] false t c = none) (hx : exec i s = pcmp f d a b s) (hp : f (c.g (gA a)) (c.g (gB b)) = true ↔ p) :
    Lands s t c i 1 [.p d.toNat (if p then 0xFFFF else 0)] :=
  predOf_eq hp ▸ .of_issue hi hd hx rfl

end

/-- Settles O3: each form lands its value at ISSUE + LAT_ALU. -/
theorem selectAndPredicateResults : Obligations.SelectAndPredicateResults := by
  unfold Obligations.SelectAndPredicateResults
  intro s t c d a b pd pa pb hi x y n
  refine ⟨fun hd => ?_, fun hd => ⟨.of_pred2 hi hd (exec_pand ..) rfl, .of_pred2 hi hd (exec_por ..) rfl,
      .of_pred2 hi hd (exec_pxor ..) rfl, .of_issue hi hd (exec_pnot ..) rfl⟩,
    fun hd => .of_issue hi hd (exec_movpGP ..) rfl, fun hd => .of_issue hi hd (exec_movpPG ..) rfl, fun hd => ?_⟩
  · rw [← predBit_eq]
    exact .of_issue hi hd (exec_csel ..) rfl
  · have hge : (!x.slt y) = true ↔ y.toInt ≤ x.toInt := by
      rw [Bool.not_eq_true', ← Bool.not_eq_true, BitVec.slt_iff_toInt_lt, Int.not_lt]
    have hgeu : (!x.ult y) = true ↔ y.toNat ≤ x.toNat := by
      rw [Bool.not_eq_true', ← Bool.not_eq_true, BitVec.ult_iff_lt, BitVec.not_lt, BitVec.le_def]
    exact ⟨.of_pcmp hi hd (exec_pcmpEq ..) beq_iff_eq, .of_pcmp hi hd (exec_pcmpNe ..) bne_iff_ne,
      .of_pcmp hi hd (exec_pcmpLt ..) BitVec.slt_iff_toInt_lt, .of_pcmp hi hd (exec_pcmpGe ..) hge,
      .of_pcmp hi hd (exec_pcmpLtu ..) BitVec.ult_iff_lt, .of_pcmp hi hd (exec_pcmpGeu ..) hgeu,
      .of_pcmp hi hd (exec_pcmpTst ..) bne_iff_ne⟩

end Sys2Proof.Machine
end

section
/-! O5: where branches go. -/

namespace Sys2Proof.Machine

section
variable {s t u : State} {c : Ctx} {i : Instr} {att : Attach} {us : List Use} {super : Bool} {entry : State → Ctx → Act} {x : Word}

theorem exec_branchOn {taken : Ctx → Bool} {o : BitVec 22} (hi : Issuing s t c) (hd : decodeTrap { imm := 2 } [] false t c = none)
    (hx : exec i s = branchOn taken o s) :
    exec i s = .next (t.finish c (if taken c then c.pc + 4 * c.h.extend 22 o.toNat else c.pc + 4)) := by
  rw [hx, branchOn, issue_go hi hd rfl]
  rfl

section
variable (hi : Issuing s t c) (hd : decodeTrap att us super t c = none) (hx : exec i s = issue s att us super entry)
  (he : entry t c = branchTo x u)
include hi hd hx he

theorem exec_branchTo_aligned (halign : x.toNat % 4 = 0) : exec i s = .next (u.finish c x) := by
  rw [hx, issue_go hi hd (he.trans (if_neg (not_not_intro halign)))]

theorem exec_branchTo_misaligned (halign : x.toNat % 4 ≠ 0) : exec i s = .next (t.faulted c (trapOf .misalign x)) := by
  rw [hx, issue_fault hi hd (he.trans (if_pos halign))]

end
end

/-- Settles O5: each form goes to its target, links where it calls, and faults where a register's target is no word's address. -/
theorem branchTargets : Obligations.BranchTargets := by
  unfold Obligations.BranchTargets
  intro s t c d a p o i hi
  dsimp only
  refine ⟨fun hd => ⟨?_, ?_, ?_, ?_⟩, fun hd => ?_, fun hd => ?_, fun hd => ?_⟩
  · have htaken : predBit (c.p 0) = true := predBit_eq 0xFFFF
    rw [exec_branchOn hi hd (exec_br ..), if_pos htaken]
  · rw [exec_branchOn hi hd (exec_brp ..), predBit_eq]
  · rw [exec_branchOn hi hd (exec_brpN ..), predBit_eq]
    cases (c.p p).getLsbD 0 <;> simp only [Bool.not_true, Bool.not_false, Bool.false_eq_true, if_true, if_false]
  · rw [exec_call, execCall, issue_go hi hd rfl]
    rfl
  · split
    next halign => exact ⟨exec_branchTo_aligned hi hd (exec_brr ..) rfl halign, exec_branchTo_aligned hi hd (exec_callr ..) rfl halign⟩
    next halign =>
      exact ⟨exec_branchTo_misaligned hi hd (exec_brr ..) rfl halign, exec_branchTo_misaligned hi hd (exec_callr ..) rfl halign⟩
  · split
    next halign => exact exec_branchTo_aligned hi hd (exec_ret ..) rfl halign
    next halign => exact exec_branchTo_misaligned hi hd (exec_ret ..) rfl halign
  · rw [exec_loop, execLoop, issue_go hi hd rfl]
    by_cases hx : c.g (gD d) - 1 = 0
    · rw [if_pos hx, if_neg (not_not_intro hx)]
      rfl
    · rw [if_neg hx, if_pos hx]
      rfl

end Sys2Proof.Machine
end

section
/-! O37: the order in which writes land. -/

namespace Sys2Proof.Machine

/-! ### Pending writes in their order (R129) -/

section
variable {ps : List Pending}

/-- Landing up to vc v takes the writes of a vc up to v, in their order, and keeps the others. -/
theorem landAll_eq (v : Nat) (r : Regs) (h : ps.Pairwise fun p q => p.vc ≤ q.vc) :
    landAll ps v r = ((ps.filter fun p => p.vc ≤ v).foldl (fun r p => p.dest.land r) r, ps.filter fun p => v < p.vc) := by
  induction ps generalizing r with
  | nil => rfl
  | cons p ps ih =>
    obtain ⟨hp, hps⟩ := List.pairwise_cons.mp h
    rw [landAll]
    split
    next hdue => rw [ih _ hps, List.filter_cons_of_pos (by simpa), List.filter_cons_of_neg (by simpa), List.foldl_cons]
    next hlate =>
      have hall : ∀ q ∈ p :: ps, v < q.vc := List.forall_mem_cons.mpr ⟨Nat.not_le.mp hlate, fun q hq => by have := hp q hq; omega⟩
      rw [List.filter_eq_nil_iff.mpr fun q hq => by simpa using hall q hq, List.filter_eq_self.mpr fun q hq => by simpa using hall q hq]
      rfl

theorem mem_addPending_iff {p n : Pending} : p ∈ addPending ps n ↔ p = n ∨ p ∈ ps := by
  induction ps with
  | nil => simp [addPending]
  | cons q ps ih =>
    rw [addPending]
    split
    · rw [List.mem_cons, ih, List.mem_cons, or_left_comm]
    · rw [List.mem_cons]

/-- The order in which writes land: by vc and, at one vc, by issue. -/
def Pending.Before (p q : Pending) : Prop := p.vc < q.vc ∨ p.vc = q.vc ∧ p.seq ≤ q.seq

theorem addPending_sorted {n : Pending} (h : ps.Pairwise Pending.Before) : (addPending ps n).Pairwise Pending.Before := by
  induction ps with
  | nil => exact List.pairwise_singleton _ n
  | cons p ps ih =>
    obtain ⟨hp, hps⟩ := List.pairwise_cons.mp h
    rw [addPending]
    split
    next hpn =>
      have hpn : p.Before n := by simpa [Pending.Before] using hpn
      exact List.pairwise_cons.mpr ⟨fun q hq => (mem_addPending_iff.mp hq).elim (fun e => e ▸ hpn) (hp q), ih hps⟩
    next hnp =>
      have hnp : n.Before p := by
        simp only [Bool.or_eq_true, Bool.and_eq_true, decide_eq_true_eq, beq_iff_eq] at hnp
        unfold Pending.Before
        omega
      refine List.pairwise_cons.mpr ⟨List.forall_mem_cons.mpr ⟨hnp, fun q hq => ?_⟩, h⟩
      have := hp q hq
      unfold Pending.Before at *
      omega

end

/-! ### What a register holds after the landings -/

@[simp] theorem Regs.readG_writeP (r : Regs) (n m : Nat) (x : PWord) : (r.writeP n x).readG m = r.readG m := by
  unfold Regs.writeP
  split <;> rfl

@[simp] theorem Regs.readV_writeP (r : Regs) (n m : Nat) (x : PWord) : (r.writeP n x).readV m = r.readV m := by
  unfold Regs.writeP
  split <;> rfl

theorem getD_ite_some {α : Type} (n k : Nat) (x y : α) : (if n = k then some x else none).getD y = if k = n then x else y := by
  by_cases h : n = k
  · rw [if_pos h, if_pos h.symm, Option.getD_some]
  · rw [if_neg h, if_neg (Ne.symm h), Option.getD_none]

/-- The files of general, vector and predicate registers are in their canonical form. -/
structure Regs.FilesWf (r : Regs) : Prop where
  g : Tab.wf 0 r.g = true
  v : Tab.wf 0 r.v = true
  p : Tab.wf 0 r.p = true

theorem Regs.FilesWf.land {r : Regs} (h : r.FilesWf) (d : Dest) : (d.land r).FilesWf := by
  obtain ⟨hg, hv, hp⟩ := h
  cases d with
  | g n x =>
    rw [Dest.land, Regs.writeG]
    split
    · exact ⟨hg, hv, hp⟩
    · exact ⟨Tab.wf_set n x hg, hv, hp⟩
  | v n x => exact ⟨hg, Tab.wf_set n x hv, hp⟩
  | p n x =>
    rw [Dest.land, Regs.writeP]
    split
    · exact ⟨hg, hv, hp⟩
    · exact ⟨hg, hv, Tab.wf_set n x hp⟩
  | csr n x => exact ⟨hg, hv, hp⟩

/-- A register reads as the last of the landings that write it, where each landing that does so sets it and every other leaves it. -/
theorem foldl_land_read {α : Type} {read : Regs → α} {wrote : Dest → Option α}
    (hland : ∀ (r : Regs) (d : Dest), r.FilesWf → read (d.land r) = (wrote d).getD (read r)) (ps : List Pending) {r : Regs}
    (hr : r.FilesWf) : read (ps.foldl (fun r p => p.dest.land r) r) = (((ps.map (·.dest)).filterMap wrote).getLast?).getD (read r) := by
  induction ps generalizing r with
  | nil => rfl
  | cons p ps ih =>
    rw [List.foldl_cons, ih (hr.land p.dest), hland r p.dest hr, List.map_cons, List.filterMap_cons]
    cases wrote p.dest with
    | none => rfl
    | some x =>
      dsimp only
      rw [List.getLast?_cons]
      rfl

/-! ### Writes to one control register -/

theorem Tab.eq_of_wf {α : Type} [DecidableEq α] {d : α} {t u : Tab α} (ht : Tab.wf d t = true) (hu : Tab.wf d u = true)
    (h : ∀ i, Tab.get d t i = Tab.get d u i) : t = u := by
  rw [Tab.wf, Bool.and_eq_true] at ht hu
  obtain ⟨htrise, htall⟩ := ht
  obtain ⟨hurise, huall⟩ := hu
  exact Tab.eq_of_get_eq htrise htall hurise huall h

theorem Tab.set_set {α : Type} [DecidableEq α] {d : α} {t : Tab α} (i : Nat) (v w : α) (h : Tab.wf d t = true) :
    Tab.set d (Tab.set d t i v) i w = Tab.set d t i w := by
  have hv := Tab.wf_set i v h
  refine Tab.eq_of_wf (Tab.wf_set i w hv) (Tab.wf_set i w h) fun j => ?_
  by_cases hj : j = i
  · rw [hj, Tab.get_set_self i w hv, Tab.get_set_self i w h]
  · rw [Tab.get_set_ne _ w hj, Tab.get_set_ne _ v hj, Tab.get_set_ne _ w hj]

/-- Of two writes to a control register the later stays (R129). -/
theorem Csrs.write_write {c : Csrs} (n : Nat) (x y : Word) (h : Tab.wf 0 c.q = true) : (c.write n x).write n y = c.write n y := by
  unfold Csrs.write
  split
  case h_21 =>
    split
    next hq => simp only [if_pos hq, Tab.set_set _ _ _ h]
    next hq => simp only [if_neg hq]
  all_goals rfl

/-- Settles O37: landing takes the writes in their order, so that each register holds its last. -/
theorem landingOrder : Obligations.LandingOrder := by
  unfold Obligations.LandingOrder
  refine ⟨fun ps v r h => ?_, fun ps n h => ⟨addPending_sorted h, fun p => mem_addPending_iff⟩, fun ps v r h hg hv hp => ?_,
    fun r x z => ⟨rfl, rfl⟩, fun r n x y h => ?_⟩
  · rw [landAll_eq v r h]
    exact ⟨rfl, rfl⟩
  · have hr : r.FilesWf := ⟨hg, hv, hp⟩
    rw [landAll_eq v r h]
    refine ⟨fun k hk => foldl_land_read (read := (·.readG k)) (fun r d hr => ?_) _ hr,
      fun k => foldl_land_read (read := (·.readV k)) (fun r d hr => ?_) _ hr,
      fun k hk => foldl_land_read (read := (·.readP k)) (fun r d hr => ?_) _ hr⟩
    · cases d with
      | g n x =>
        dsimp only
        rw [Dest.readG_land r n k x hr.g, if_neg hk, getD_ite_some]
      | p n x => exact Regs.readG_writeP r n k x
      | _ => rfl
    · cases d with
      | g n x => exact Regs.readV_writeG r n k x
      | v n x =>
        dsimp only
        rw [Dest.readV_land r n k x hr.v, getD_ite_some]
      | p n x => exact Regs.readV_writeP r n k x
      | csr n x => rfl
    · cases d with
      | g n x => exact Regs.readP_writeG r n k x
      | p n x =>
        dsimp only
        rw [Dest.readP_land r n k x hr.p, if_neg hk, getD_ite_some]
      | _ => rfl
  · simp only [Dest.land, Csrs.write_write n x y h]

end Sys2Proof.Machine
end

section
/-! What a change of strands alone leaves, and what a change of anything but strands, memory and jobs does. -/

namespace Sys2Proof.Machine

/-! ### Changes of strands -/

/-- Nothing but strands, the agenda and the gangs' stall counts may differ: memory, jobs, the clock and every core beside its strands
are as they were. -/
structure State.MovesStrands (s t : State) : Prop where
  mem : t.mem = s.mem
  jobs : t.jobs = s.jobs
  clock : t.clock = s.clock
  cores : ∀ k, { t.core k with strands := [] } = { s.core k with strands := [] }

namespace State.MovesStrands
variable {s t u : State}

theorem refl (s : State) : s.MovesStrands s := ⟨rfl, rfl, rfl, fun _ => rfl⟩

theorem trans (h : s.MovesStrands t) (h' : t.MovesStrands u) : s.MovesStrands u :=
  ⟨h'.mem.trans h.mem, h'.jobs.trans h.jobs, h'.clock.trans h.clock, fun k => (h'.cores k).trans (h.cores k)⟩

theorem foldl {α : Type} {f : State → α → State} (h : ∀ (t : State) (a : α), t.MovesStrands (f t a)) (as : List α) (s : State) :
    s.MovesStrands (as.foldl f s) :=
  List.foldlRecOn as f (motive := s.MovesStrands) (refl s) fun t ht a _ => ht.trans (h t a)

theorem modStrand (s : State) (x : SId) (f : Strand → Strand) : s.MovesStrands (s.modStrand x f) :=
  ⟨rfl, rfl, rfl, State.core_modStrand s x f⟩

theorem asks (h : s.Asks t) : s.MovesStrands t := ⟨h.mem, h.jobs, h.clock, fun k => by rw [h.core k]⟩

theorem gangMark (s : State) (x : SId) : s.MovesStrands (s.gangMark x) := by
  unfold State.gangMark
  split
  · exact refl s
  · split
    · exact ⟨rfl, rfl, rfl, fun _ => rfl⟩
    · exact refl s

end State.MovesStrands

theorem State.strand_foldl_modStrand {f : Strand → Strand} (hf : ∀ st, f (f st) = f st) (ys : List SId) (s : State) (y : SId) :
    (ys.foldl (fun u z => u.modStrand z f) s).strand y = if y ∈ ys then f (s.strand y) else s.strand y := by
  induction ys generalizing s with
  | nil => rfl
  | cons z ys ih =>
    rw [List.foldl_cons, ih]
    by_cases hyz : y = z
    · rw [hyz, State.strand_modStrand, hf, ite_self, if_pos List.mem_cons_self]
    · rw [State.strand_modStrand_ne _ _ hyz]
      simp only [List.mem_cons, hyz, false_or]

/-! ### Changes beside strands -/

/-- Every strand, memory, the jobs and the clock are as they were. -/
structure State.KeepsStrands (s t : State) : Prop where
  strand : ∀ y, t.strand y = s.strand y
  mem : t.mem = s.mem
  jobs : t.jobs = s.jobs
  clock : t.clock = s.clock

namespace State.KeepsStrands
variable {s t u : State}

theorem refl (s : State) : s.KeepsStrands s := ⟨fun _ => rfl, rfl, rfl, rfl⟩

theorem trans (h : s.KeepsStrands t) (h' : t.KeepsStrands u) : s.KeepsStrands u :=
  ⟨fun y => (h'.strand y).trans (h.strand y), h'.mem.trans h.mem, h'.jobs.trans h.jobs, h'.clock.trans h.clock⟩

theorem ite {p : Prop} [Decidable p] (ht : s.KeepsStrands t) (hu : s.KeepsStrands u) : s.KeepsStrands (if p then t else u) := by
  split <;> assumption

theorem foldl {α : Type} {f : State → α → State} (h : ∀ (t : State) (a : α), t.KeepsStrands (f t a)) (as : List α) (s : State) :
    s.KeepsStrands (as.foldl f s) :=
  List.foldlRecOn as f (motive := s.KeepsStrands) (refl s) fun t ht a _ => ht.trans (h t a)

theorem asks (h : s.Asks t) : s.KeepsStrands t := ⟨h.strand, h.mem, h.jobs, h.clock⟩

theorem modCore (s : State) (n : Nat) {f : Core → Core} (hf : (f (s.core n)).strands = (s.core n).strands) :
    s.KeepsStrands (s.modCore n f) := ⟨State.strand_modCore s n hf, rfl, rfl, rfl⟩

/-- Cores changed in other things than their strands. -/
theorem mapCores (s : State) {f : Core → Core} (hf : ∀ k, (f k).strands = k.strands) :
    s.KeepsStrands { s with cores := s.cores.map fun (c, k) => (c, f k) } := by
  refine ⟨fun y => ?_, rfl, rfl, rfl⟩
  have hfind := Tab.find?_map (fun _ k => f k) s.cores y.core
  simp only [State.strand, State.core, Core.strand, Tab.get, hfind]
  cases Tab.find? s.cores y.core
  · rfl
  · exact congrArg (fun t => (Tab.find? t y.strand).getD Strand.reset) (hf _)

theorem modArray (s : State) (c id : Nat) (f : ArrayCmd → ArrayCmd) : s.KeepsStrands (s.modArray c id f) := modCore s c rfl

theorem beginStep (s : State) (c : Nat) (a : ArrayCmd) (v : Nat) : s.KeepsStrands (s.beginStep c a v) :=
  (modArray s c a.id _).trans (asks (.post _ _ _))

theorem retimeArrays (s : State) (x : SId) : s.KeepsStrands (s.retimeArrays x) := by
  refine foldl (fun t y => foldl (fun t a => ?_) _ t) _ s
  split
  · exact ite (beginStep t _ _ _) (ite (asks (.postOnce t _ _)) (refl t))
  · exact refl t

theorem delayWords (s : State) (ys : List SId) (e p : Nat) : s.KeepsStrands (s.delayWords ys e p) :=
  mapCores s (f := fun k => { k with linkTransit := k.linkTransit.map fun (i, es) =>
    (i, es.map fun w => if ys.contains w.2.1 && e ≤ w.1 then (w.1 + p, w.2) else w) }) fun _ => rfl

end State.KeepsStrands

end Sys2Proof.Machine
end

section
/-! O38: late events and holds. -/

namespace Sys2Proof.Machine

theorem State.Asks.holdCheck (s : State) (x : SId) : s.Asks (s.holdCheck x) := .ite (.post _ _ _) (.refl _)

/-! ### The start of a hold (R125) -/

/-- The state of a domain whose open late events have been fixed (R434). -/
def State.fixed (s : State) (x : SId) : State := (s.domain x).foldl (fun u y => u.modStrand y fun st => st.fixLates s.clock.cc) s

theorem State.MovesStrands.fixed (s : State) (x : SId) : s.MovesStrands (s.fixed x) := foldl (fun _ _ => modStrand _ _ _) _ s
theorem State.MovesStrands.holdAt (s : State) (x : SId) (t : Nat) : s.MovesStrands (s.holdAt x t) := foldl (fun _ _ => modStrand _ _ _) _ s

theorem State.strand_holdAt (s : State) (x : SId) (t : Nat) (y : SId) :
    (s.holdAt x t).strand y = if y ∈ s.domain x then { s.strand y with held := t } else s.strand y :=
  strand_foldl_modStrand (f := fun st => { st with held := t }) (fun _ => rfl) _ s y

/-- A late event that comes before a hold, and whose test cycle has come, holds its domain. -/
theorem State.lateTest_holds {s : State} {x : SId} {t : Nat} (hlate : (s.fixed x).lateAt x = some t)
    (hheld : ((s.fixed x).strand x).held = 0 ∨ t < ((s.fixed x).strand x).held) (hcc : (s.fixed x).testCc x t ≤ s.clock.cc) :
    s.lateTest x = ((s.fixed x).holdAt x t).holdCheck x := by
  unfold fixed at *
  simp only [lateTest, hlate, hcc]
  exact if_pos (by simpa using hheld)

/-! ### The end of a hold (R126) -/

/-- A strand after a hold of p core cycles in rotations of n. -/
def Strand.paused (st : Strand) (p n : Nat) : Strand :=
  let st' := { st with base := st.base + p, vpause := st.vpause + p, held := 0,
                       lates := st.lates.filter fun l => !(l.known = 0 && l.here && l.vc ≤ st.held) }
  { st' with drainT := st'.restop n st.held }

theorem State.domain_alone {s : State} {x : SId} (h : (s.strand x).gang = none) : s.domain x = [x] := by
  rw [domain, h]

theorem State.gangMark_alone {s : State} {x : SId} (h : (s.strand x).gang = none) : s.gangMark x = s := by
  rw [gangMark, h]

theorem State.holdMissed_alone {s : State} {x : SId} (h : (s.strand x).gang = none) (t : Nat) : s.holdMissed x t = s := by
  rw [holdMissed, missedAt, if_pos h]

/-- The words that a strand has pushed enter later by as much as it is held (R250). -/
def State.wordsDelayed (s : State) (x : SId) (p : Nat) : State := s.delayWords (s.domain x) ((s.strand x).ccOf (s.strand x).held) p

theorem State.pauseDomain_eq (s : State) (x : SId) (p : Nat) : s.pauseDomain x p =
    ((s.domain x).foldl (fun t y => t.modStrand y fun st => st.paused p ((s.wordsDelayed x p).rotation x)) (s.wordsDelayed x p)).gangMark x :=
  rfl

/-- A strand that is in no gang is held alone. -/
theorem State.pauseDomain_alone {s : State} {x : SId} (h : (s.strand x).gang = none) (p : Nat) :
    s.pauseDomain x p = (s.wordsDelayed x p).modStrand x fun st => st.paused p ((s.wordsDelayed x p).rotation x) := by
  rw [pauseDomain_eq, domain_alone h, List.foldl_cons, List.foldl_nil, gangMark_alone]
  rw [State.strand_modStrand, wordsDelayed, (KeepsStrands.delayWords s _ _ p).strand]
  exact h

/-- The end of a hold moves its strand's vcs; nothing else of strands, memory and jobs changes. -/
theorem State.holdEnd_alone {s : State} {x : SId} {n : Nat} (hgang : (s.strand x).gang = none) (hheld : (s.strand x).held ≠ 0)
    (hpresent : s.present x = true) (hn : 0 < n) (hcc : s.clock.cc = (s.strand x).base + (s.strand x).held + n * s.rotation x) :
    ((s.wordsDelayed x (n * s.rotation x)).modStrand x fun st =>
      st.paused (n * s.rotation x) ((s.wordsDelayed x (n * s.rotation x)).rotation x)).KeepsStrands (s.holdEnd x n) := by
  rw [holdEnd, if_neg (by simp [hheld, hpresent, hn.ne', hcc, Strand.ccOf])]
  dsimp only
  rw [pauseDomain_alone hgang]
  have hretime := KeepsStrands.retimeArrays ((s.wordsDelayed x (n * s.rotation x)).modStrand x fun st =>
    st.paused (n * s.rotation x) ((s.wordsDelayed x (n * s.rotation x)).rotation x)) x
  rw [holdMissed_alone]
  · exact hretime.trans (.foldl (fun t y => .asks (.look t y)) _ _)
  · rw [hretime.strand, State.strand_modStrand, wordsDelayed, (KeepsStrands.delayWords s _ _ _).strand]
    exact hgang

/-- Settles O38: a late event holds its domain before its vc, and the end of the hold moves every later vc by whole rotations. -/
theorem holdingSteps : Obligations.HoldingSteps := by
  unfold Obligations.HoldingSteps
  intro s x n me
  refine ⟨?_, fun hgang hheld hpresent hn hcc => ⟨_, rfl, ?_⟩⟩
  · intro w h t hlate hh hcc
    refine ⟨((s.fixed x).holdAt x t).holdCheck x, ?_, fun y hy => ?_, fun y hy => ?_, ?_⟩
    · rw [exec_lateEventTest, execLateEventTest, State.lateTest_holds hlate hh hcc]
    · rw [(State.Asks.holdCheck _ x).strand, State.strand_holdAt]
      exact if_pos hy
    · rw [(State.Asks.holdCheck _ x).strand, State.strand_holdAt]
      exact if_neg hy
    · have hmoves := ((State.MovesStrands.fixed s x).trans (.holdAt _ x t)).trans (.asks (.holdCheck _ x))
      exact ⟨hmoves.mem, hmoves.jobs, hmoves.cores⟩
  · have hend := State.holdEnd_alone hgang hheld hpresent hn hcc
    have hwords : s.KeepsStrands (s.wordsDelayed x (n * s.rotation x)) := .delayWords s _ _ _
    have hx := hend.strand x
    rw [State.strand_modStrand, hwords.strand] at hx
    rw [hx]
    refine ⟨rfl, rfl, rfl, fun t ht => .inl ht.symm, fun y hy => ?_, hend.mem.trans hwords.mem, hend.jobs.trans hwords.jobs⟩
    rw [hend.strand, State.strand_modStrand_ne _ _ hy, hwords.strand]

end Sys2Proof.Machine
end

section
/-! O39: deferred effects and parks. -/

namespace Sys2Proof.Machine

theorem State.KeepsStrands.gangMark (s : State) (x : SId) : s.KeepsStrands (s.gangMark x) := by
  unfold State.gangMark
  split
  · exact refl s
  · split
    · exact ⟨fun _ => rfl, rfl, rfl, rfl⟩
    · exact refl s

/-! ### The head of the deferred effects (R133) -/

section
variable {s t : State} {x : SId} {e : Deferred}

theorem Strand.headEffect_of_due {st : Strand} (h : st.effectDue = some e) : st.headEffect = some e :=
  (Option.filter_eq_some_iff.mp h).1

theorem State.deferredEffect_due (h : (s.strand x).effectDue = some e) (hcc : (s.strand x).effectCc e ≤ s.clock.cc) :
    s.deferredEffect x = (((s.performHead x).nextRequest x).look x).tlbLook := by
  simp only [deferredEffect, h, Nat.not_lt.mpr hcc, if_false]

section
variable (h : (s.strand x).headEffect = some e)
include h

theorem State.performHead_done (hp : s.performEffect x e = .done t) : s.performHead x = t.effectDone x e.seq := by
  simp only [performHead, h, hp]

theorem State.performHead_fault {f : TrapInfo} {i : Inflight} (hp : s.performEffect x e = .fault t f)
    (hi : (t.strand x).inflight.find? (fun i => i.seq = e.seq) = some i) :
    s.performHead x = t.raise x i f ((t.strand x).vcAt t.clock.cc) := by
  simp only [performHead, h, hp, hi]

end

/-- A strand whose effect e was tried at core cycle cc and must wait (R432). -/
def Strand.stuckOn (st : Strand) (e : Deferred) (reason : ParkReason) (cc : Nat) : Strand :=
  let st : Strand := { st with deferred := st.deferred.map fun d => if d.seq = e.seq then { d with stuck := some reason } else d }
  match st.park with
  | some p =>
    if p.seq = e.seq then st.turnPark reason p.on cc
    else if p.reason = .serial then { st with under := st.under.or (some cc) } else st
  | none => { st with park := some ⟨reason, .effect, e.gpc, e.seq, e.issue, cc⟩ }

/-- An effect that must wait changes no more than its strand, beside what performing it has left. -/
theorem State.performHead_park {reason : ParkReason} (h : (s.strand x).headEffect = some e) (hp : s.performEffect x e = .park t reason)
    (hr : reason ≠ .serial) : (t.modStrand x fun st => st.stuckOn e reason t.clock.cc).KeepsStrands (s.performHead x) ∧
      t.MovesStrands (s.performHead x) := by
  have hcases : s.performHead x = t.modStrand x (fun st => st.stuckOn e reason t.clock.cc) ∨
      s.performHead x = (t.modStrand x fun st => st.stuckOn e reason t.clock.cc).gangMark x := by
    simp only [performHead, h, hp, if_neg hr]
    split
    · exact .inl rfl
    · exact .inr rfl
  rcases hcases with hu | hu <;> rw [hu]
  · exact ⟨.refl _, .modStrand t x _⟩
  · exact ⟨.gangMark _ x, (MovesStrands.modStrand t x _).trans (.gangMark _ x)⟩

end

/-! ### A strand that parks for its effect (R432) -/

section
variable {st : Strand} {e : Deferred} {reason : ParkReason} {cc : Nat} {p : Park}

theorem Strand.stuckOn_unparked (h : st.park = none) : st.stuckOn e reason cc =
    { st with
      deferred := st.deferred.map fun d => if d.seq = e.seq then { d with stuck := some reason } else d
      park := some ⟨reason, .effect, e.gpc, e.seq, e.issue, cc⟩ } := by
  simp only [stuckOn, h]

theorem Strand.turnPark_park (h : st.park = some p) {on : ParkOn} :
    (st.turnPark reason on cc).park = some { p with reason := reason, on := on, since := if p.reason = reason then p.since else cc } := by
  simp only [turnPark, h]

theorem Strand.turnPark_deferred (on : ParkOn) : (st.turnPark reason on cc).deferred = st.deferred := by
  unfold turnPark
  split <;> rfl

theorem Strand.stuckOn_own (h : st.park = some p) (hp : p.seq = e.seq) :
    (st.stuckOn e reason cc).park = some { p with reason := reason, since := if p.reason = reason then p.since else cc } := by
  simp only [stuckOn, h, if_pos hp]
  exact Strand.turnPark_park rfl

theorem Strand.stuckOn_other (h : st.park = some p) (hp : p.seq ≠ e.seq) : (st.stuckOn e reason cc).park = some p := by
  simp only [stuckOn, h, if_neg hp]
  split <;> rfl

theorem Strand.stuckOn_deferred :
    (st.stuckOn e reason cc).deferred = st.deferred.map fun d => if d.seq = e.seq then { d with stuck := some reason } else d := by
  unfold stuckOn
  dsimp only
  split
  · split
    · exact turnPark_deferred _
    · split <;> rfl
  · rfl

end

/-! ### The end of a park (R127) -/

section
variable {s : State} {x : SId} {p : Park} {lat : Nat} {ws : List Dest}

/-- A strand goes on from a park whose condition has held, as its step and what it asks for leave it. -/
theorem State.asks_parkResume_ready (hrun : (s.strand x).run = .running) (hstuck : (s.strand x).deferred.any (fun e => e.stuck.isSome) = false)
    (hpark : (s.strand x).park = some p) (hon : p.on = .ready lat ws none) :
    (s.resumeFrom x (s.parkSlot x p.reason) (s.resumeSlot x) lat p.seq ws).Asks (s.parkResume x) := by
  have hresume : s.resumePark x p = s.resumeFrom x (s.parkSlot x p.reason) (s.resumeSlot x) lat p.seq ws := by
    rw [resumePark, hon]
  simp only [parkResume, hrun, hstuck, hpark, hresume, ne_eq, not_true_eq_false, Bool.false_eq_true, if_false]
  exact .ite (.lookDrain _ x) (.look _ x)

theorem Strand.unpark_ready {st : Strand} (hstuck : st.deferred.any (fun e => e.stuck.isSome) = false) (hpark : st.park = some p) (cc : Nat) :
    st.unpark cc = { st with park := none, under := none, parkedCc := st.parkedCc + st.parkCount cc } := by
  have hnone : (st.deferred.filter (·.seq ≠ p.seq)).findSome? (·.park cc) = none := by
    refine List.findSome?_eq_none_iff.mpr fun d hd => ?_
    have := List.any_eq_false.mp hstuck d (List.mem_of_mem_filter hd)
    rw [Deferred.park, Option.map_eq_none_iff]
    simpa using this
  rw [unpark, hpark]
  dsimp only
  rw [hnone]

theorem State.strand_resumeFrom (s : State) (x : SId) (at_ next lat seq : Nat) (ws : List Dest) :
    (s.resumeFrom x at_ next lat seq ws).strand x =
      (({ ((s.strand x).unpark s.clock.cc) with slot := next }).faultFrom seq at_).land (at_ + lat) seq ws :=
  State.strand_modStrand _ _ _

end

/-- Settles O39: a head effect by its three ends, and the end of a park. -/
theorem effectAndParkSteps : Obligations.EffectAndParkSteps := by
  unfold Obligations.EffectAndParkSteps
  intro s x me
  refine ⟨fun e hdue hcc => ?_, fun hrun hstuck p lat ws hpark hon => ?_⟩
  · have hhead := Strand.headEffect_of_due hdue
    refine ⟨?_, fun t hp => State.performHead_done hhead hp, fun t f i hp hi => State.performHead_fault hhead hp hi,
      fun t reason hp hr => ?_⟩
    · rw [exec_deferredEffect, execDeferredEffect, State.deferredEffect_due hdue hcc]
    · intro st marks u
      obtain ⟨hkeeps, hmoves⟩ := State.performHead_park hhead hp hr
      have hx : u.strand x = st.stuckOn e reason t.clock.cc := (hkeeps.strand x).trans (State.strand_modStrand _ _ _)
      rw [hx]
      refine ⟨Strand.stuckOn_deferred, hmoves.mem, fun y hy => ?_, hmoves.cores, fun h => Strand.stuckOn_unparked h,
        fun p h hseq => ⟨_, Strand.stuckOn_own h hseq, rfl, rfl, rfl⟩, fun p h hseq => Strand.stuckOn_other h hseq⟩
      rw [hkeeps.strand, State.strand_modStrand_ne _ _ hy]
  · intro slot
    have hu := (State.asks_parkResume_ready hrun hstuck hpark hon).strand x
    rw [State.strand_resumeFrom, Strand.unpark_ready hstuck hpark] at hu
    refine ⟨_, exec_parkResume .., ?_⟩
    rw [hu]
    refine ⟨rfl, rfl, ?_, fun hr => ?_, rfl, rfl⟩
    · rw [Strand.parkCount, hpark, ← Nat.add_assoc]
      rfl
    · rw [Park.counted, if_neg hr]

end Sys2Proof.Machine
end

section
/-! O44: link words, stream entries and routes. -/

namespace Sys2Proof.Machine

/-- A step that is asked for once is due. -/
theorem State.due_postOnce (s : State) (dt : Nat) (e : Event) : ∃ d ∈ (s.postOnce dt e).agenda, d.what = e := by
  unfold postOnce
  split
  next h =>
    obtain ⟨d, hd, hwhat⟩ := List.any_eq_true.mp h
    rw [Bool.and_eq_true, decide_eq_true_eq] at hwhat
    exact ⟨d, hd, hwhat.1⟩
  next => exact ⟨⟨s.clock.cc + dt, e⟩, List.mem_append_right _ List.mem_cons_self, rfl⟩

/-! ### Link words (R249, R250) -/

section
variable {s : State} {c p : Nat}

/-- The words of a link that have come to be present. -/
def State.linkNow (s : State) (c p : Nat) : List (Nat × SId × VWord) := ((s.core c).linkComing p).takeWhile fun w => s.linkPresent w.1 w.2.1

/-- The words of a link that are still to come. -/
def State.linkLeft (s : State) (c p : Nat) : List (Nat × SId × VWord) := ((s.core c).linkComing p).drop (s.linkNow c p).length

/-- A link whose present words have joined its queue. -/
def State.linkMoved (s : State) (c p : Nat) : State :=
  if s.linkNow c p = [] then s else
    (s.modCore c fun k =>
      { k with
        linkTransit := Tab.put k.linkTransit p (s.linkLeft c p)
        links := Tab.put k.links p (k.linkWords p ++ (s.linkNow c p).map (·.2.2)) }).wakeLinks

theorem State.KeepsStrands.linkMoved (s : State) (c p : Nat) : s.KeepsStrands (s.linkMoved c p) :=
  ite (refl s) ((modCore s c rfl).trans (asks (.wake _ _)))

theorem State.core_linkMoved (s : State) (c p : Nat) : ((s.linkMoved c p).core c).linkComing p = s.linkLeft c p ∧
    ((s.linkMoved c p).core c).linkWords p = (s.core c).linkWords p ++ (s.linkNow c p).map (·.2.2) := by
  unfold linkMoved
  split
  next hnow => rw [linkLeft, hnow, List.map_nil, List.append_nil]; exact ⟨rfl, rfl⟩
  next =>
    rw [wakeLinks, (Asks.wake _ _).core, State.core_modCore]
    exact ⟨Tab.get_put_self _ _ _ _, Tab.get_put_self _ _ _ _⟩

theorem State.linkArrive_eq (s : State) (c p : Nat) : s.linkArrive c p = match s.linkLeft c p with
    | [] => s.linkMoved c p
    | (e, x, _) :: _ => if ((s.linkMoved c p).strand x).stoppedCc.any (· ≤ e) then s.linkMoved c p
        else (s.linkMoved c p).postOnce (Nat.max 1 (e + 4 - (s.linkMoved c p).clock.cc)) (.linkWordArrival c p) := rfl

theorem State.asks_linkArrive (s : State) (c p : Nat) : (s.linkMoved c p).Asks (s.linkArrive c p) := by
  rw [linkArrive_eq]
  split
  · exact .refl _
  · exact .ite (.refl _) (.postOnce _ _ _)

/-- The next word of a link is awaited, unless its strand has been stopped. -/
theorem State.linkArrive_awaits {w : Nat × SId × VWord} {ws : List (Nat × SId × VWord)} (hleft : s.linkLeft c p = w :: ws)
    (hrun : (s.strand w.2.1).run ≠ .drained) : ∃ d ∈ (s.linkArrive c p).agenda, d.what = .linkWordArrival c p := by
  have hstopped : ((s.linkMoved c p).strand w.2.1).stoppedCc = none := by
    rw [(KeepsStrands.linkMoved s c p).strand]
    exact if_neg hrun
  rw [linkArrive_eq, hleft]
  dsimp only
  rw [hstopped]
  exact due_postOnce _ _ _

theorem State.linkPresent_iff (s : State) (e : Nat) (y : SId) : s.linkPresent e y = true ↔
    e + 4 ≤ s.clock.cc ∧ ((s.strand y).held = 0 ∨ e < (s.strand y).base + (s.strand y).held) ∧
      ((s.strand y).run = .drained → e ≤ (s.strand y).base + (s.strand y).drainT.getD 0) := by
  have hstopped : (s.strand y).stoppedCc.any (· ≤ e) = false ↔
      ((s.strand y).run = .drained → e ≤ (s.strand y).base + (s.strand y).drainT.getD 0) := by
    unfold Strand.stoppedCc
    split
    next h => simp [h, Strand.ccOf]
    next h => simp [h]
  have hheld : (decide ((s.strand y).held ≠ 0) && decide ((s.strand y).ccOf (s.strand y).held ≤ e)) = false ↔
      (s.strand y).held = 0 ∨ e < (s.strand y).base + (s.strand y).held := by
    rw [Bool.and_eq_false_iff, decide_eq_false_iff_not, decide_eq_false_iff_not, not_not, Nat.not_le, Strand.ccOf]
  rw [linkPresent, Bool.and_eq_true, Bool.and_eq_true, decide_eq_true_eq, Bool.not_eq_true', Bool.not_eq_true', hheld, hstopped, and_assoc]

end

/-! ### Stream entries (R262, R263) -/

section
variable {s : State} {c : Nat} {e : StreamEntry} {es : List StreamEntry}

/-- A core whose next stream entry, with `es` behind it, has entered its queue. -/
def Core.entered (k : Core) (e : StreamEntry) (es : List StreamEntry) : Core := { k with streamTransit := es, streamIn := k.streamIn ++ [e] }

/-- The state in which the entry has entered and the strands that wait for it have been asked to look. -/
def State.entered (s : State) (c : Nat) (e : StreamEntry) (es : List StreamEntry) : State :=
  let t := (s.modCore c fun k => k.entered e es).wake fun y p => y.core = c && (match p.on with | .stream _ => true | _ => false)
  if es = [] then t else t.post 0 (.streamWordArrival c)

theorem State.asks_entered (s : State) (c : Nat) (e : StreamEntry) (es : List StreamEntry) :
    (s.modCore c fun k => k.entered e es).Asks (s.entered c e es) :=
  (Asks.wake _ _).trans (.ite (.refl _) (.post _ _ _))

/-- The entry enters the queue, and the closing marker releases the route as well. -/
theorem State.streamArrive_enters (htransit : (s.core c).streamTransit = e :: es) (hroom : (s.core c).streamIn.length < 16) :
    s.streamArrive c = if e.isNone then ((s.entered c e es).modCore c fun k => { k with routeHolder := none }).post 0 (.routeGrant c)
      else s.entered c e es := by
  rw [streamArrive, htransit]
  exact if_neg (Nat.not_le.mpr hroom)

theorem State.core_streamArrive (htransit : (s.core c).streamTransit = e :: es) (hroom : (s.core c).streamIn.length < 16) :
    (s.streamArrive c).core c =
        { (s.core c).entered e es with routeHolder := if e.isNone then none else (s.core c).routeHolder } ∧
      (s.streamArrive c).mem = s.mem := by
  have hasks := s.asks_entered c e es
  rw [streamArrive_enters htransit hroom]
  by_cases hmark : e.isNone = true
  · rw [if_pos hmark, if_pos hmark, State.core_post, State.core_modCore, hasks.core, State.core_modCore]
    exact ⟨rfl, hasks.mem⟩
  · rw [if_neg hmark, if_neg hmark, hasks.core, State.core_modCore]
    exact ⟨rfl, hasks.mem⟩

end

/-! ### Routes (R263) -/

theorem State.grantStep_opens {s : State} {core : Nat} {y : SId} {ys : List SId} {d : Deferred} {w : Word}
    (hholder : (s.core (s.fwd core)).routeHolder = none) (hwait : (s.core (s.fwd core)).routeWait = y :: ys)
    (hd : (s.strand y).headEffect = some d) (heff : d.eff = .sopen w) :
    s.grantStep core = (((((s.modCore (s.fwd core) fun k => { k with routeHolder := some y, routeWait := ys }).modStrand y fun st =>
      { st with route := some w.toNat }).endRegion y).effectDone y d.seq).look y) := by
  simp only [grantStep, hholder, hwait, hd, heff]

/-- Settles O44: the words and entries that have come, the route that is granted, and the one that is closed. -/
theorem linkAndStreamSteps : Obligations.LinkAndStreamSteps := by
  unfold Obligations.LinkAndStreamSteps
  intro s c p core x g
  refine ⟨⟨s.linkArrive c p, exec_linkWordArrival .., ?_⟩, s.linkPresent_iff, fun e es htransit hroom => ?_, fun y ys d w hholder hwait hd heff => ?_,
    fun g hroute => ?_, fun hroute => ?_⟩
  · have hasks := s.asks_linkArrive c p
    have hmoved := State.KeepsStrands.linkMoved s c p
    obtain ⟨hcoming, hwords⟩ := s.core_linkMoved c p
    rw [hasks.core, hasks.mem]
    exact ⟨hcoming, hwords, hmoved.mem, fun w ws hleft hrun => State.linkArrive_awaits hleft hrun⟩
  · obtain ⟨hcore, hmem⟩ := State.core_streamArrive htransit hroom
    refine ⟨s.streamArrive c, exec_streamWordArrival .., ?_⟩
    rw [hcore]
    exact ⟨rfl, rfl, hmem, rfl⟩
  · rw [exec_routeGrant, execRouteGrant, State.grantStep_opens hholder hwait hd heff]
  · rw [exec_routeAutoClose, execRouteAutoClose, State.autoClose, State.closeRoute, hroute]
  · rw [exec_routeAutoClose, execRouteAutoClose, State.autoClose, State.closeRoute, hroute]

end Sys2Proof.Machine
end

section
/-! O45: the SFU and the array. -/

namespace Sys2Proof.Machine

/-! ### The ring of the SFU (R265) -/

/-- Of what has been found so far and one more, what the ring reaches first. -/
def ringFirst (last : Nat) (m : Option (SId × Nat)) (r : SId × Nat) : Option (SId × Nat) :=
  match m with
  | none => some r
  | some b => if ringDistance last r.1 < ringDistance last b.1 then some r else m

theorem Sfu.first_eq (v : Sfu) : v.first = v.ring.foldl (ringFirst v.last) none := rfl

/-- What a search of the ring ends with is one of those searched, and none of them is reached before it. -/
theorem foldl_ringFirst (last : Nat) (qs : List (SId × Nat)) (b : SId × Nat) : ∃ r, qs.foldl (ringFirst last) (some b) = some r ∧
    (r = b ∨ r ∈ qs) ∧ ringDistance last r.1 ≤ ringDistance last b.1 ∧ ∀ q ∈ qs, ringDistance last r.1 ≤ ringDistance last q.1 := by
  induction qs generalizing b with
  | nil => exact ⟨b, rfl, .inl rfl, le_rfl, List.forall_mem_nil _⟩
  | cons q qs ih =>
    rw [List.foldl_cons, ringFirst]
    split
    next hlt =>
      obtain ⟨r, hr, hmem, hle, hall⟩ := ih q
      exact ⟨r, hr, .inr (List.mem_cons.mpr hmem), by omega, List.forall_mem_cons.mpr ⟨hle, hall⟩⟩
    next hge =>
      obtain ⟨r, hr, hmem, hle, hall⟩ := ih b
      exact ⟨r, hr, hmem.imp_right (List.mem_cons_of_mem q), hle, List.forall_mem_cons.mpr ⟨by omega, hall⟩⟩

theorem Sfu.first_of_ne_nil {v : Sfu} (h : v.ring ≠ []) : ∃ r ∈ v.ring, v.first = some r ∧
    ∀ q ∈ v.ring, ringDistance v.last r.1 ≤ ringDistance v.last q.1 := by
  rw [Sfu.first_eq]
  cases hring : v.ring with
  | nil => exact absurd hring h
  | cons q qs =>
    obtain ⟨r, hr, hmem, hle, hall⟩ := foldl_ringFirst v.last qs q
    exact ⟨r, List.mem_cons.mpr hmem, hr, List.forall_mem_cons.mpr ⟨hle, hall⟩⟩

section
variable {s : State} {n : Nat}

@[simp] theorem State.sfuOf_setSfu (s : State) (n : Nat) (v : Sfu) : (s.setSfu n v).sfuOf n = v := Tab.get_put_self _ _ _ _

theorem State.Asks.sfu {s t : State} (h : s.Asks t) : t.sfu = s.sfu := by obtain ⟨ds, rfl⟩ := h; rfl

theorem State.Asks.sfuOf {s t : State} (h : s.Asks t) (n : Nat) : t.sfuOf n = s.sfuOf n := by rw [State.sfuOf, h.sfu]; rfl

/-- A cluster's SFU once it has taken a request. -/
def Sfu.taken (v : Sfu) (r : SId × Nat) (cc : Nat) : Sfu := ⟨v.ring.erase r, v.accepted ++ [(cc, r)], l1Slice r.1.core, cc + 2⟩

theorem State.sfuTake_first {r : SId × Nat} (hidle : (s.sfuOf n).idleAt ≤ s.clock.cc) (hfirst : (s.sfuOf n).first = some r) :
    (s.setSfu n ((s.sfuOf n).taken r s.clock.cc)).Asks (s.sfuTake n) := by
  simp only [sfuTake, if_neg (Nat.not_lt.mpr hidle), hfirst]
  exact (Asks.post _ _ _).trans (.ite (.refl _) (.post _ _ _))

/-- The strand whose SFU result has come. -/
def Strand.sfuAnswered (st : Strand) (e : Inflight) (seq cc d : Nat) (x : Word) : Strand :=
  (st.setStage seq (.answered cc)).land e.faultVc seq [.g d x]

theorem State.sfuAnswer_due {t seq h f d m : Nat} {x : SId} {rest : List (Nat × SId × Nat)} {e : Inflight} {T : Fmt} {w : Word} {ftz : Bool}
    (hacc : (s.sfuOf n).accepted = (t, x, seq) :: rest) (hcc : t + 40 ≤ s.clock.cc)
    (hfind : (s.strand x).inflight.find? (fun e => e.seq = seq) = some e) (hreq : e.req = some (.sfu f T w d m ftz, .sent h)) :
    ((s.setSfu n { s.sfuOf n with accepted := rest }).modStrand x fun st =>
      st.sfuAnswered e seq s.clock.cc d (BitVec.ofNat 64 (sfuValue f T m ftz w.toNat))).Asks (s.sfuAnswer n) := by
  have hfind' : (((s.setSfu n { s.sfuOf n with accepted := rest }).strand x).inflight.find? fun e => e.seq = seq) = some e := hfind
  simp only [sfuAnswer, hacc, if_neg (Nat.not_lt.mpr hcc), hfind', hreq]
  exact ((Asks.holdCheck _ x).trans (.post _ _ _)).trans (.look _ x)

end

/-! ### When the array starts commands (R279, R286) -/

/-- A strand that no core lists is idle. -/
theorem State.mem_allStrands_of_isTask {s : State} {x : SId} (h : (s.strand x).run.isTask = true) : x ∈ s.allStrands := by
  cases hcore : Tab.find? s.cores x.core with
  | none =>
    rw [State.strand, State.core, Tab.get, hcore] at h
    cases h
  | some k =>
    have hk : s.core x.core = k := by rw [State.core, Tab.get, hcore]; rfl
    cases hstrand : Tab.find? k.strands x.strand with
    | none =>
      rw [State.strand, hk, Core.strand, Tab.get, hstrand] at h
      cases h
    | some st =>
      exact List.mem_flatMap.mpr ⟨(x.core, k), Tab.mem_of_find? hcore,
        List.mem_map.mpr ⟨(x.strand, st), Tab.mem_of_find? hstrand, rfl⟩⟩

/-- A job stands at a debug stop where some strand runs a task of it and each that does has been stopped. -/
theorem State.debugStop_iff (s : State) (j : Nat) : s.debugStop j = true ↔
    (∃ x, (s.strand x).run.isTask = true ∧ s.jobOf x = j) ∧
      ∀ x, (s.strand x).run.isTask = true → s.jobOf x = j → (s.strand x).run = .debugStopped := by
  simp only [debugStop, ne_eq, Bool.and_eq_true, decide_eq_true_eq, List.all_eq_true, List.mem_filter, List.filter_eq_nil_iff,
    not_forall, not_not]
  refine and_congr ⟨fun ⟨x, _, h⟩ => ⟨x, h⟩, fun ⟨x, h⟩ => ⟨x, mem_allStrands_of_isTask h.1, h⟩⟩
    ⟨fun h x ht hj => h x ⟨mem_allStrands_of_isTask ht, ht, hj⟩, fun h x hx => h x hx.2.1 hx.2.2⟩

/-- Whether the array goes on hangs on its core's job, the jobs, and how the strands run and for which job. -/
theorem State.arrayGoes_congr {s t : State} {c : Nat} (hjob : (t.core c).job = (s.core c).job) (hjobs : t.jobs = s.jobs)
    (hrun : ∀ x, (t.strand x).run = (s.strand x).run) (hof : ∀ x, t.jobOf x = s.jobOf x) : t.arrayGoes c = s.arrayGoes c := by
  have hstop (j : Nat) : t.debugStop j = s.debugStop j := by
    rw [Bool.eq_iff_iff, State.debugStop_iff, State.debugStop_iff]
    simp only [hrun, hof]
  have hgoes (j : Nat) : t.job j = s.job j := by rw [State.job, hjobs]; rfl
  simp only [arrayGoes, hjob, hstop, hgoes]

section
variable {s : State} {c : Nat} {a : ArrayCmd}

/-- The commands of a core's array that have not started. -/
def Core.idleCmds (k : Core) : List ArrayCmd := k.array.filter fun a => !a.zero && a.start.isNone

/-- The first of them that is at its start vc, or past it. -/
def State.cmdDue (s : State) (c : Nat) : Option ArrayCmd := (s.core c).idleCmds.find? fun a => a.hstart.any fun n => n ≤ s.cmdVc a

section
variable (hdue : s.cmdDue c = some a)
include hdue

theorem State.tryArray_untimely (h : orderReached (s.core c).array a = false ∨ s.clock.cc < s.freeCc c a) :
    s.tryArray c = s.failCmd c a (timingTrap 1 0) a.first := by
  unfold cmdDue Core.idleCmds at hdue
  simp only [tryArray, hdue]
  exact if_pos (by simpa using h)

variable (horder : orderReached (s.core c).array a = true) (hfree : s.freeCc c a ≤ s.clock.cc) (htag : s.tagBad c a = none)
include horder hfree htag

theorem State.tryArray_timely : s.tryArray c =
    if a.hseq.isNone && s.conflictsEarlier a.id a.locks [] then s.failCmd c a (timingTrap 2 0) a.first else s.startCmd c a := by
  unfold cmdDue Core.idleCmds at hdue
  simp only [tryArray, hdue, horder, Nat.not_lt.mpr hfree, htag]
  rfl

end

/-- A command without HSTART starts as soon as nothing stands before it (R279). -/
theorem State.tryArray_starts (hnone : ∀ e ∈ (s.core c).idleCmds, e.hstart = none)
    (hfirst : ((s.core c).idleCmds.find? fun a => orderReached (s.core c).array a) = some a) (hwait : a.waitCopy = none)
    (hfree : s.freeCc c a ≤ s.clock.cc) (htag : s.tagBad c a = none) (hclear : s.conflictsEarlier a.id a.locks [] = false) :
    s.tryArray c = s.startCmd c a := by
  have hdue : (s.core c).idleCmds.find? (fun a => a.hstart.any fun n => n ≤ s.cmdVc a) = none :=
    List.find?_eq_none.mpr fun e he => by simp [hnone e he]
  have ha := hnone a (List.mem_of_find?_eq_some hfirst)
  unfold Core.idleCmds at hnone hfirst hdue
  simp only [tryArray, hdue, hfirst]
  rw [List.filterMap_eq_nil_iff.mpr ?unwaited]
  case unwaited =>
    intro e he
    rw [hnone e he]
  simp only [listMin, ha, hwait, Nat.not_lt.mpr hfree, htag, hclear]
  rfl

/-! ### K-steps (R282, R284, R286) -/

theorem foldl_acc {α : Type} {f : Core → α → Core} (hf : ∀ k x, ∃ acc, f k x = { k with acc := acc }) (xs : List α) (k : Core) :
    ∃ acc, xs.foldl f k = { k with acc := acc } := by
  refine List.foldlRecOn xs f (motive := fun k' => ∃ acc, k' = { k with acc := acc }) ⟨k.acc, rfl⟩ fun k' ⟨acc, hk⟩ x _ => ?_
  obtain ⟨acc', h⟩ := hf k' x
  exact ⟨acc', by rw [h, hk]⟩

/-- What a k-step makes of the accumulators of its command's bank. -/
def ArrayCmd.accumulate (a : ArrayCmd) (rows : List (List (Nat × FV))) (cols : List (List FV)) (k : Core) : Core :=
  rows.zipIdx.foldl (fun k (r, i) => cols.zipIdx.foldl (fun k (c, m) =>
    k.setAcc a.bank (32 * i + m) (BitVec.ofNat 64 (accStep a.prec (k.accAt a.bank (32 * i + m)).toNat r c))) k) k

theorem ArrayCmd.accumulate_acc (a : ArrayCmd) (rows : List (List (Nat × FV))) (cols : List (List FV)) (k : Core) :
    ∃ acc, a.accumulate rows cols k = { k with acc := acc } :=
  foldl_acc (fun k _ => foldl_acc (fun _ _ => ⟨_, rfl⟩) _ k) _ k

/-- A k-step changes the accumulators of its core alone. -/
theorem State.applyStep_eq (s : State) (c : Nat) (a : ArrayCmd) (j : Nat) :
    ∃ acc, s.applyStep c a j = s.modCore c fun k => { k with acc := acc } := by
  obtain ⟨acc, hacc⟩ := a.accumulate_acc ((List.range 32).map fun i => (s.rowA c (opndA a.prec a.dsc a.pa) (pcFtz a.prec) j i).1)
    ((List.range 32).map fun m => (s.colB c (opndB a.prec a.dsc a.pb) (pcFtz a.prec) j m).1) (s.core c)
  exact ⟨acc, congrArg (s.setCore c) hacc⟩

/-- The step of a command that ends. -/
def State.stepping (s : State) (c : Nat) : Option ArrayCmd :=
  ((s.core c).array.filter fun a => a.start.isSome && !s.stepHeld a a.step).find? fun a => a.ends = 0 || a.ends ≤ s.clock.cc

theorem State.stepDue_ends {w : Nat} (hstep : s.stepping c = some a) (hstart : a.start = some w) (hends : a.ends ≠ 0) :
    s.stepDue c = s.endStep c a w := by
  unfold stepping at hstep
  simp only [stepDue, hstep, if_neg hends, hstart, Option.getD_some]

section
variable {w : Nat}

theorem State.endStep_bad {z : Word} (hbad : (s.stepsDone a (· = a.step)).stepBad c a a.step = some z) :
    s.endStep c a w = ((s.stepsDone a (· = a.step)).failCmd c a (trapOf .integrity z) a.step).holdCheck a.owner := by
  simp only [endStep, hbad]

variable (hgood : (s.stepsDone a (· = a.step)).stepBad c a a.step = none)
include hgood

theorem State.endStep_last (hlast : dscSteps a.dsc ≤ a.step + 1) :
    s.endStep c a w = (((s.stepsDone a (· = a.step)).applyStep c a a.step).dropCmd c a).holdCheck a.owner := by
  simp only [endStep, hgood, if_pos hlast]

/-- The command whose next k-step is to begin. -/
def ArrayCmd.nextStep (a : ArrayCmd) : ArrayCmd := { a with step := a.step + 1, prev := a.ends, ends := 0 }

/-- The state after a k-step that is not the command's last. -/
def State.stepped (s : State) (c : Nat) (a : ArrayCmd) : State :=
  ((s.stepsDone a (· = a.step)).applyStep c a a.step).modArray c a.id fun _ => a.nextStep

theorem State.endStep_next (hmore : a.step + 1 < dscSteps a.dsc) (hgoes : (s.stepped c a).arrayGoes c = true) :
    s.endStep c a w = ((s.stepped c a).beginStep c a.nextStep w).holdCheck a.owner := by
  unfold stepped ArrayCmd.nextStep at hgoes
  simp only [endStep, hgood, if_neg (Nat.not_le.mpr hmore), hgoes, if_true]
  rfl

end

theorem State.strand_modStrand_same {α : Type} (P : Strand → α) (s : State) (x : SId) {f : Strand → Strand}
    (hf : P (f (s.strand x)) = P (s.strand x)) (y : SId) : P ((s.modStrand x f).strand y) = P (s.strand y) := by
  by_cases h : y = x
  · rw [h, State.strand_modStrand, hf]
  · rw [State.strand_modStrand_ne _ _ h]

theorem State.core_stepsDone (s : State) (a : ArrayCmd) (f : Nat → Bool) (c : Nat) :
    { (s.stepsDone a f).core c with strands := [] } = { s.core c with strands := [] } := State.core_modStrand s a.owner _ c

theorem State.arrayGoes_stepped (s : State) (c : Nat) (a : ArrayCmd) : (s.stepped c a).arrayGoes c = s.arrayGoes c := by
  obtain ⟨acc, happly⟩ := (s.stepsDone a (· = a.step)).applyStep_eq c a a.step
  have hkeeps : (s.stepsDone a (· = a.step)).KeepsStrands (s.stepped c a) := by
    rw [stepped, happly]
    exact (KeepsStrands.modCore _ c rfl).trans (.modArray _ c a.id _)
  have hjob : ((s.stepped c a).core c).job = ((s.stepsDone a (· = a.step)).core c).job := by
    rw [stepped, happly, modArray, State.core_modCore, State.core_modCore]
    rfl
  have hsame {α : Type} (P : Strand → α) (hP : ∀ (st : Strand) f, P (st.itemsHere f) = P st) (x : SId) :
      P ((s.stepped c a).strand x) = P (s.strand x) := by
    rw [hkeeps.strand]
    exact State.strand_modStrand_same P s a.owner (hP _ _) x
  refine arrayGoes_congr (hjob.trans ?_) hkeeps.jobs (hsame Strand.run fun _ _ => rfl) (hsame (·.regs.csr.jobId.toNat) fun _ _ => rfl)
  have hframe := congrArg Core.job (s.core_stepsDone a (· = a.step) c)
  exact hframe

/-! ### A command that leaves the queue (R284, R293) -/

theorem State.Asks.arrayChanged (s : State) (c : Nat) : s.Asks (s.arrayChanged c) :=
  ((Asks.postAll s _).trans (.foldl (fun t _ => .post t _ _) _ _)).trans (.wakeCore _ c)

/-- A command leaves the queue, and memory and the accumulators as they were. -/
theorem State.dropCmd_frame (s : State) (c : Nat) (a : ArrayCmd) : (s.dropCmd c a).mem = s.mem ∧
    ((s.dropCmd c a).core c).array = ((s.core c).array.filter fun b => b.id ≠ a.id) ∧
    ((s.dropCmd c a).core c).acc = (s.core c).acc := by
  have hasks := (State.asks_opDone ((s.modCore c fun k => { k with array := k.array.filter fun b => b.id ≠ a.id }).stepsDone a fun _ => true)
    a.id).trans (.arrayChanged _ c)
  have hdone := (s.modCore c fun k => { k with array := k.array.filter fun b => b.id ≠ a.id }).core_stepsDone a (fun _ => true) c
  rw [State.core_modCore] at hdone
  have harray := congrArg Core.array hdone
  have hacc := congrArg Core.acc hdone
  exact ⟨hasks.mem, (congrArg Core.array (hasks.core c)).trans harray, (congrArg Core.acc (hasks.core c)).trans hacc⟩

theorem Core.accAt_congr {k l : Core} (h : k.acc = l.acc) (m e : Nat) : k.accAt m e = l.accAt m e := by
  rw [accAt, accAt, h]

theorem Core.accAt_clearBank (k : Core) (b m : Nat) {e : Nat} (he : e < 1024) :
    (k.clearBank b).accAt m e = if m = b then 0 else k.accAt m e := by
  have hkey : accKey m e / 1024 = m := by unfold accKey; omega
  rw [accAt, accAt, clearBank, Tab.get, Tab.get, Tab.find?_filter fun i => i / 1024 ≠ b, hkey]
  by_cases hm : m = b
  · rw [if_pos hm, if_neg (by simp [hm])]
    rfl
  · rw [if_neg hm, if_pos (by simp [hm])]

theorem State.tryZero_applies
    (hfind : ((s.core c).array.find? fun a => a.zero && orderReached (s.core c).array a &&
      (earlierCmds (s.core c).array a.id).all fun e => e.bank ≠ a.bank) = some a) :
    s.tryZero c = (s.modCore c fun k => k.clearBank a.bank).dropCmd c a := by
  simp only [tryZero, hfind]

/-- MZERO clears its bank and leaves the queue. -/
theorem State.dropCmd_cleared (s : State) (c : Nat) (a : ArrayCmd) :
    ((s.modCore c fun k => k.clearBank a.bank).dropCmd c a).mem = s.mem ∧
    (((s.modCore c fun k => k.clearBank a.bank).dropCmd c a).core c).array = ((s.core c).array.filter fun e => e.id ≠ a.id) ∧
    ∀ m e, e < 1024 → (((s.modCore c fun k => k.clearBank a.bank).dropCmd c a).core c).accAt m e =
      if m = a.bank then 0 else (s.core c).accAt m e := by
  obtain ⟨hmem, harray, hacc⟩ := (s.modCore c fun k => k.clearBank a.bank).dropCmd_frame c a
  rw [State.core_modCore] at harray hacc
  refine ⟨hmem, harray, fun m e he => ?_⟩
  rw [Core.accAt_congr hacc, Core.accAt_clearBank _ _ _ he]

/-! ### The release of a bank (R269) -/

theorem precFree_eq (p : Word) : precFree p = p &&& 0xFFFF0FFFFFFFFFFF := by
  have hmask : ∀ k < 64, (0xFFFF0FFFFFFFFFFF : Word).getLsbD k = !decide (44 ≤ k ∧ k < 48) := by decide
  refine BitVec.eq_of_getLsbD_eq fun k hk => ?_
  have hput : precFree p = insertField p 0 44 4 := rfl
  rw [hput, getLsbD_insertField hk, BitVec.getLsbD_and, hmask k hk]
  by_cases h : 44 ≤ k ∧ k < 48
  · rw [if_pos h, decide_eq_true h, Bool.not_true, Bool.and_false]
    exact BitVec.getLsbD_zero
  · rw [if_neg h, decide_eq_false h, Bool.not_false, Bool.and_true]

theorem Core.prec_setPrec (k : Core) (b : Nat) (p : Word) : (k.setPrec b p).prec b = p := by
  unfold prec setPrec
  split <;> rfl

theorem Core.prec_setPrec_other (k : Core) (b : BitVec 1) (p : Word) : (k.setPrec b.toNat p).prec (1 - b.toNat) = k.prec (1 - b.toNat) := by
  have hb : b.toNat = 0 ∨ b.toNat = 1 := by
    have := b.isLt
    omega
  rcases hb with hb | hb <;> rw [hb] <;> rfl

section
variable {core : Nat} {b : BitVec 1} (hrel : (s.core (s.fwd core)).releasing.contains b.toNat = true)
  (hbusy : (s.core (s.fwd core)).bankBusy b.toNat = false)
include hrel hbusy

theorem State.releaseStep_left (hleft : (s.core (s.fwd core)).leftBy (precOstr ((s.core (s.fwd core)).prec b.toNat)) = true) :
    s.releaseStep core b.toNat = s := by
  simp only [releaseStep, hrel, hbusy, hleft]
  rfl

theorem State.releaseStep_frees (hleft : (s.core (s.fwd core)).leftBy (precOstr ((s.core (s.fwd core)).prec b.toNat)) = false) :
    s.releaseStep core b.toNat = (s.modCore (s.fwd core) fun k =>
      { k.setPrec b.toNat (precFree (k.prec b.toNat)) with releasing := k.releasing.filter fun b' => b' ≠ b.toNat }).wakeCore (s.fwd core) := by
  simp only [releaseStep, hrel, hbusy, hleft]
  rfl

end

end

section
variable {s : State} {core : Nat} {a : ArrayCmd}

theorem exec_arrayCommandStart_goes {u : State} (hgoes : s.arrayGoes (s.fwd core) = true) (h : s.tryArray (s.fwd core) = u) :
    exec (.arrayCommandStart core) s = .next (u.enginesLook (s.fwd core)) := by
  rw [exec_arrayCommandStart, execArrayCommandStart, State.arrayStep, if_pos hgoes, h]

theorem exec_kStepEnd_ends {u : State} {w : Nat} (hstep : s.stepping (s.fwd core) = some a) (hstart : a.start = some w) (hends : a.ends ≠ 0)
    (h : s.endStep (s.fwd core) a w = u) : exec (.kStepEnd core) s = .next (u.enginesLook (s.fwd core)) := by
  rw [exec_kStepEnd, execKStepEnd, State.kStep, State.stepDue_ends hstep hstart hends, h]

end

/-- Settles O45: the steps of the SFU and of the array by their cases. -/
theorem unitSteps : Obligations.UnitSteps := by
  unfold Obligations.UnitSteps
  intro s n core b v c k
  refine ⟨fun hring hidle => ?_, fun t x seq rest e f T w d m ftz h hacc hcc hfind hreq => ?_, fun a hgoes => ?_,
    fun a w hstep hstart hends => ?_, fun a hgoes hfind => ?_, fun hrel hbusy hleft => ?_, fun hrel hbusy hleft => ?_⟩
  · obtain ⟨r, hr, hfirst, hmin⟩ := Sfu.first_of_ne_nil hring
    refine ⟨r, hr, s.sfuTake n, hmin, exec_sfuAccept .., ?_⟩
    rw [(State.sfuTake_first hidle hfirst).sfuOf, State.sfuOf_setSfu]
    rfl
  · have hasks := State.sfuAnswer_due hacc hcc hfind hreq
    refine ⟨s.sfuAnswer n, exec_sfuResult .., ?_, hasks.mem, ?_⟩
    · rw [hasks.sfuOf]
      exact congrArg Sfu.accepted (State.sfuOf_setSfu _ _ _)
    · rw [hasks.strand, State.strand_modStrand]
      rfl
  · intro idle due clear
    refine ⟨fun hnone hfirst hwait hfree htag hclear =>
        exec_arrayCommandStart_goes hgoes (State.tryArray_starts hnone hfirst hwait hfree htag hclear),
      fun hdue horder hfree htag => ⟨fun h => ?_, fun hclear hseq => ?_⟩,
      fun hdue h => exec_arrayCommandStart_goes hgoes (State.tryArray_untimely hdue h)⟩
    · refine exec_arrayCommandStart_goes hgoes ((State.tryArray_timely hdue horder hfree htag).trans (if_neg ?_))
      rw [Bool.and_eq_true, Option.isNone_iff_eq_none, not_and, Bool.not_eq_true]
      exact fun hnone => h.resolve_right (not_not_intro hnone)
    · refine exec_arrayCommandStart_goes hgoes ((State.tryArray_timely hdue horder hfree htag).trans (if_pos ?_))
      rw [hseq, Bool.eq_true_of_not_eq_false hclear]
      rfl
  · intro t
    refine ⟨fun hgood hlast => exec_kStepEnd_ends hstep hstart hends (State.endStep_last hgood hlast), fun hgood hmore hgoes => ?_,
      fun z hbad => exec_kStepEnd_ends hstep hstart hends (State.endStep_bad hbad)⟩
    exact exec_kStepEnd_ends hstep hstart hends (State.endStep_next hgood hmore ((s.arrayGoes_stepped c a).trans hgoes))
  · obtain ⟨hmem, harray, hacc⟩ := s.dropCmd_cleared c a
    have hlook := State.Asks.enginesLook ((s.modCore c fun k => k.clearBank a.bank).dropCmd c a) c
    refine ⟨((s.modCore c fun k => k.clearBank a.bank).dropCmd c a).enginesLook c, ?_, hlook.mem.trans hmem, ?_⟩
    · rw [exec_mzeroApply, execMzeroApply, State.zeroStep, if_pos hgoes, State.tryZero_applies hfind]
    · rw [hlook.core]
      exact ⟨harray, hacc⟩
  · rw [exec_bankRelease, execBankRelease, State.releaseStep_left hrel hbusy hleft]
  · have hwake := State.Asks.wakeCore (s.modCore c fun k =>
      { k.setPrec b.toNat (precFree (k.prec b.toNat)) with releasing := k.releasing.filter fun b' => b' ≠ b.toNat }) c
    refine ⟨_, exec_bankRelease .., ?_⟩
    rw [State.releaseStep_frees hrel hbusy hleft, hwake.mem, hwake.core, State.core_modCore]
    exact ⟨rfl, (Core.prec_setPrec _ _ _).trans (precFree_eq _), Core.prec_setPrec_other _ _ _, rfl⟩

end Sys2Proof.Machine
end

section
/-! O31: instructions whose effects wait until every earlier instruction has passed its fault point. -/

namespace Sys2Proof.Machine

/-! ### What the translation of an access leaves of what is under way (R190, R411) -/

/-- Whether anything of a strand is in flight or deferred is as it was, for every strand. -/
def State.KeepsClear (s t : State) : Prop := ∀ y, t.clear y = s.clear y

namespace State.KeepsClear
variable {s t u : State}

theorem of_strand (h : ∀ y, t.strand y = s.strand y) : s.KeepsClear t := fun y => by rw [State.clear, State.clear, h y]

theorem refl (s : State) : s.KeepsClear s := fun _ => rfl

theorem trans (h : s.KeepsClear t) (h' : t.KeepsClear u) : s.KeepsClear u := fun y => (h' y).trans (h y)

theorem ite {p : Prop} [Decidable p] (ht : s.KeepsClear t) (hu : s.KeepsClear u) : s.KeepsClear (if p then t else u) := by
  split <;> assumption

theorem modMem (s : State) (f : MemSys → MemSys) : s.KeepsClear (s.modMem f) := refl s

theorem modStrand (s : State) (x : SId) {f : Strand → Strand}
    (hi : (f (s.strand x)).inflight.isEmpty = (s.strand x).inflight.isEmpty)
    (hd : (f (s.strand x)).deferred = (s.strand x).deferred) : s.KeepsClear (s.modStrand x f) :=
  State.strand_modStrand_same (fun st => st.inflight.isEmpty && st.deferred.isEmpty) s x (congrArg₂ and hi (congrArg List.isEmpty hd))

theorem setBytes (s : State) (l : Nat) (bs : List Byte) : s.KeepsClear (s.setBytes l bs) := of_strand (s.strand_setBytes l bs)

theorem setBad (s : State) (l : Nat) (b : Bool) : s.KeepsClear (s.setBad l b) :=
  ite (of_strand (s.strand_modCore _ rfl)) (refl s)

theorem setEmpty (s : State) (l : Nat) (b : Bool) : s.KeepsClear (s.setEmpty l b) :=
  ite (of_strand (s.strand_modCore _ rfl)) (refl s)

theorem write (s : State) (l : Nat) (bs : List Byte) : s.KeepsClear (s.write l bs) :=
  State.recode_keeps (P := s.KeepsClear) (fun t _ _ _ h => h.trans (setBad t _ _)) (setBytes s l bs)

theorem homeWrites (lines : List Nat) (s : State) : s.KeepsClear (lines.foldl State.homeWrite s) :=
  List.foldlRecOn lines _ (motive := s.KeepsClear) (refl s) fun t ht _ _ => ht.trans (refl t)

theorem homeSet (s : State) (l n v : Nat) : s.KeepsClear (s.homeSet l n v) := (homeWrites _ s).trans (setBytes _ _ _)

theorem feStep (s : State) (op : FeOp) (l : Nat) (v : Word) (d : Nat) : s.KeepsClear (s.feStep op l v d).1 := by
  cases op with
  | ldfp => exact refl s
  | stf => exact (write s _ _).trans (setEmpty _ _ _)
  | ldf | markE | markF => exact setEmpty s _ _

/-- A waiter that is served stays in flight until its response has come. -/
theorem fill (s : State) (x : SId) (seq : Nat) (ds : List Dest) (t : Option TrapInfo) : s.KeepsClear (s.fill x seq ds t) :=
  (modStrand s x (f := fun st => st.setStage seq (.filled ds t)) List.isEmpty_map rfl).trans (refl _)

theorem serveWaiters (n : Nat) (s : State) (l : Nat) : s.KeepsClear (s.serveWaiters n l) := by
  induction n generalizing s with
  | zero => exact refl s
  | succ n ih =>
    unfold State.serveWaiters
    split
    · exact refl s
    · dsimp only
      split
      · exact (modMem s _).trans ((fill _ _ _ _ _).trans (ih _))
      · exact (modMem s _).trans ((feStep _ _ _ _ _).trans ((fill _ _ _ _ _).trans (ih _)))

theorem notify (s : State) (job index va : Nat) : s.KeepsClear (s.notify job index va) := by
  refine ite (refl s) (ite ?_ (refl s))
  exact (homeWrites _ s).trans ((write _ _ _).trans ((homeSet _ _ _ _).trans ((setEmpty _ _ _).trans (serveWaiters _ _ _))))

theorem countAccess (s : State) (job va pa n : Nat) : s.KeepsClear (s.countAccess job va pa n) := by
  induction n generalizing s with
  | zero => exact refl s
  | succ n ih => exact ite ((ite ((homeSet s _ _ _).trans (notify _ _ _ _)) (homeSet s _ _ _)).trans (ih _)) (refl s)

theorem countWalk (s : State) (x : SId) (va : Word) (q : Policy) : s.KeepsClear (s.countWalk x va q) := by
  refine ite (refl s) ?_
  split
  · exact ite (countAccess s _ _ _ _) (refl s)
  · exact refl s

theorem noteLate (s : State) (x : SId) (item : LateItem) (v : Nat) : s.KeepsClear (s.noteLate x item v) :=
  modStrand s x (f := fun st => { st with lates := _ }) rfl rfl

theorem walkLate (s : State) (x : SId) (va : Word) (loc v : Nat) : s.KeepsClear (s.walkLate x va loc v) := by
  unfold State.walkLate
  refine ite (refl s) ?_
  split
  · exact refl s
  · exact ite (refl s) ((noteLate { s with choices := _ } _ _ _).trans (refl _))

end State.KeepsClear

section
variable {s t u v w : State} {c : Ctx}

/-! ### Effects that wait (R133) -/

/-- The state in which an effect waits, as captured at issue. -/
def State.withEffect (t : State) (c : Ctx) (eff : Effect) : State := (t.addFlight c (c.flight c.vc none none)).addDeferred c eff none

theorem emit_waits {eff : Effect} {next : Word} (hclear : t.clear c.sid = false) :
    emit t c eff next = .go (t.withEffect c eff) next := by
  simp [emit, hclear, State.withEffect]

theorem emitStop_waits {eff : Effect} {act : State → Act} (hclear : t.clear c.sid = false) :
    emitStop t c eff act = .wait (t.withEffect c eff) .serial .effect := by
  simp [emitStop, hclear, State.withEffect]

variable {i : Instr} {att : Attach} {us : List Use} {super : Bool} {entry : State → Ctx → Act}
  (hi : Issuing s t c) (hd : decodeTrap att us super t c = none) (hx : exec i s = issue s att us super entry)
include hi hd hx

/-- An instruction that emits its effect, behind one before its fault point. -/
theorem Defers.of_issue {eff : Effect} (hclear : u.clear c.sid = false) (he : entry t c = emit u c eff c.next) :
    Defers s u c i eff := by
  rw [Defers, hx, issue_go hi hd (he.trans (emit_waits hclear))]
  rfl

theorem Parks.of_issue {reason : ParkReason} {on : ParkOn} (he : entry t c = .wait u reason on) : Parks s u c i reason on := by
  rw [Parks, hx, issue_wait hi hd he]

/-- A request, behind an instruction before its fault point, waits in flight; where its answer could not come by its landing vc, its
instruction issues later (R131, R133, R352). -/
theorem exec_request_waits {lat : Nat} {r : Request} (hclear : t.clear c.sid = false) (he : entry t c = emitRequest t c lat r) :
    (t.laterVc c (c.flight (c.vc + lat) (some (r, .unsent)) none) = none →
      Passes s ((t.addFlight c (c.flight (c.vc + lat) (some (r, .unsent)) none)).addDeferred c (.request r) none) c i) ∧
    ∀ v, t.laterVc c (c.flight (c.vc + lat) (some (r, .unsent)) none) = some v →
      exec i s = .next ((t.settleAct c (.later v)).ended c) := by
  refine ⟨fun hlater => ?_, fun v hlater => ?_⟩
  · have hgo : entry t c =
        .go ((t.addFlight c (c.flight (c.vc + lat) (some (r, .unsent)) none)).addDeferred c (.request r) none) c.next := by
      simp [he, emitRequest, hlater, hclear]
    rw [Passes, hx, issue_go hi hd hgo]
    rfl
  · rw [hx, issue_later hi hd (v := v)]
    simp only [he, emitRequest, hlater]

end

/-! ### Stores (R190 to R192, R196) -/

section
variable {s t u v w : State} {c : Ctx}

theorem Ctx.ea_eq (c : Ctx) (a : RField) (o : BitVec 11) (n : Nat) :
    c.ea a o n = c.g (gA a) + o.signExtend 64 * BitVec.ofNat 64 n := by
  rw [Ctx.ea, BitVec.ofInt_mul, ofInt_signedField (by decide), BitVec.ofInt_natCast]

theorem accessBad_eq_none {q : Policy} {ea : Word} {n : Nat} (hpol : polOk q = true) (halign : ea.toNat % n = 0) :
    accessBad q ea n = none := by
  simp [accessBad, hpol, halign]

/-- The state in which a store's address has been translated. -/
def State.translatedStore (t : State) (c : Ctx) (ea : Word) (q : Policy) (l : Nat) : State :=
  (t.countWalk c.sid ea q).walkLate c.sid ea l (c.vc + 1)

theorem State.clear_translatedStore (t : State) (c : Ctx) (ea : Word) (q : Policy) (l : Nat) :
    (t.translatedStore c ea q l).clear c.sid = t.clear c.sid :=
  ((State.KeepsClear.countWalk t _ _ _).trans (.walkLate _ _ _ _ _)) c.sid

section
variable (hi : Issuing s t c) (hclear : t.clear c.sid = false) {i : Instr} {us : List Use}
  (hd : decodeTrap policyHints us false t c = none) {qn : QField} (hpol : polOk (c.q qn) = true) {a : RField} {l : Nat} {leaf : Option Word}
include hi hclear hd hpol

/-- A store translates its address at issue, and its effect waits (R133, R411). -/
theorem store_defers {o : BitVec 11} {n : Nat} {f : Ctx → VWord}
    (hx : exec i s = issue s policyHints us false fun s c => storeEntry n (f c) a qn o s c)
    (halign : (c.g (gA a) + o.signExtend 64 * BitVec.ofNat 64 n).toNat % n = 0)
    (hres : t.resolve c.sid (c.g (gA a) + o.signExtend 64 * BitVec.ofNat 64 n) (c.q qn) { Need.write with dev := n = 8 } = .at_ l leaf) :
    Defers s (t.translatedStore c (c.g (gA a) + o.signExtend 64 * BitVec.ofNat 64 n) (c.q qn) l) c i
      (.store (c.g (gA a) + o.signExtend 64 * BitVec.ofNat 64 n) (some (l, leaf)) n (f c) (c.q qn)) := by
  refine .of_issue hi hd hx ((State.clear_translatedStore ..).trans hclear) ?_
  simp only [storeEntry, Ctx.ea_eq, accessBad_eq_none hpol halign, hres]
  rfl

theorem storeNibble_defers {d : RField} {high : Bool} (hus : us = [gD d, gA a]) (hx : exec i s = storeNibble high d a qn s)
    (hres : t.resolve c.sid (c.g (gA a)) (c.q qn) Need.write = .at_ l leaf) :
    Defers s (t.translatedStore c (c.g (gA a)) (c.q qn) l) c i
      (.stn (c.g (gA a)) (some (l, leaf)) high ((c.g (gD d)).setWidth 4) (c.q qn)) := by
  subst hus
  refine .of_issue hi hd hx ((State.clear_translatedStore ..).trans hclear) ?_
  simp only [accessBad_eq_none hpol (Nat.mod_one _), hres]
  rfl

end

/-! ### Full/empty operations (R194, R195, R433) -/

section
variable (hi : Issuing s t c) (hclear : t.clear c.sid = false) {i : Instr} {op : FeOp} {qn : QField}
include hi hclear

/-- A full/empty operation issues anew, once every earlier instruction has passed its fault point. -/
theorem fullEmpty_again {d a : RField} {o : BitVec 11} (hx : exec i s = fullEmpty op d a qn o s)
    (hd : decodeTrap (if op = .stf then policyHints else loadHints) [gD d, gA a] false t c = none) :
    exec i s = .next ((t.settleAct c (.again .fullEmpty .again)).ended c) := by
  rw [hx, fullEmpty, issue_eq hi hd, hclear]
  rfl

theorem femark_again {a : RField} (hx : exec i s = femark op a qn s) (hd : decodeTrap policyHints [gA a] false t c = none) :
    exec i s = .next ((t.settleAct c (.again .fullEmpty .again)).ended c) := by
  rw [hx, femark, issue_eq hi hd, hclear]
  rfl

end

/-! ### Messages, streams and barrier objects (R223, R225, R263) -/

theorem targetOk_of_coreIdOk {x : Word} (hlt : x.toNat < 8192) (hok : coreIdOk x.toNat = true) : targetOk x = true := by
  simp [targetOk, hlt, hok]

theorem State.inPartition_of_mem {x : SId} {n : Nat} (h : n ∈ (t.job (t.jobOf x)).cores) : t.inPartition x n = true :=
  List.contains_iff_mem.mpr h

theorem barinitBad_eq_false {y : Word} (hrsv : bitsOf y 47 45 = 0) (hcore : bitOf y 63 = true → coreIdOk (bitsOf y 44 32) = true) :
    barinitBad y = false := by
  cases hbit : bitOf y 63
  · simp [barinitBad, hrsv, hbit]
  · simp [barinitBad, hrsv, hbit, hcore hbit]

section
variable (hi : Issuing s t c) (hclear : t.clear c.sid = false) {a b : RField}
include hi hclear

theorem exec_sopen_defers (hd : decodeTrap {} [gA a] false t c = none) (hok : targetOk (c.g (gA a)) = true)
    (hpart : t.inPartition c.sid (c.g (gA a)).toNat = true) : Defers s t c (.sopen a) (.sopen (c.g (gA a))) := by
  refine .of_issue hi hd (exec_sopen ..) hclear ?_
  simp only [hok, hpart]
  rfl

theorem exec_msgsend_defers (hd : decodeTrap {} [gA a, gB b] false t c = none) (hok : targetOk (c.g (gA a)) = true)
    (hpart : t.inPartition c.sid (c.g (gA a)).toNat = true) :
    Defers s t c (.msgsend a b) (.msgsend (c.g (gA a)) (c.g (gB b))) := by
  refine .of_issue hi hd (exec_msgsend ..) hclear ?_
  simp only [hok, hpart]
  rfl

theorem exec_baradd_defers (hd : decodeTrap {} [gA a, gB b] false t c = none) (hobj : objectBad (c.g (gA a)) = none) :
    Defers s t c (.baradd a b) (.baradd (c.g (gA a)) (c.g (gB b))) := by
  refine .of_issue hi hd (exec_baradd ..) hclear ?_
  simp only [hobj]

theorem exec_barinit_defers (hd : decodeTrap {} [gA a, gB b] false t c = none) (hobj : objectBad (c.g (gA a)) = none)
    (himage : barinitBad (c.g (gB b)) = false) : Defers s t c (.barinit a b) (.barinit (c.g (gA a)) (c.g (gB b))) := by
  refine .of_issue hi hd (exec_barinit ..) hclear ?_
  simp only [hobj, himage]
  rfl

theorem cancelEntry_defers {i : Instr} {kill : Bool} (hd : decodeTrap {} [gA a] false t c = none)
    (hx : exec i s = cancelEntry kill a s) (hpos : 0 < (c.g (gA a)).toNat)
    (hle : (c.g (gA a)).toNat ≤ (t.job (t.jobOf c.sid)).nctr) (hlt : (c.g (gA a)).toNat < 2 ^ 32) :
    Defers s t c i (.cancel kill (c.g (gA a)).toNat) := by
  have hok : counterBad t c.sid (c.g (gA a)) = none := by
    unfold counterBad
    rw [if_neg]
    simp only [Bool.or_eq_true, decide_eq_true_eq]
    omega
  refine .of_issue hi hd hx hclear ?_
  simp only [hok]

end

/-! ### Requests (R315, R351, R352) -/

theorem atomicEntry_request {op : AOp} {n mode : Nat} {d a b : RField} {qn : QField} (hpol : polOk (c.q qn) = true)
    (halign : (c.g (gA a)).toNat % n = 0) : atomicEntry op n mode d a b qn t c = emitRequest t c 160
      (.atomic op n (c.g (gA a)) none (c.g (gB b)) (c.g (gD d)) (c.h.x (gD d)) mode (c.q qn)) := by
  simp only [atomicEntry, accessBad_eq_none hpol halign, latAtm]

theorem keyEntry_request {op : MapOp} {d : EField} {a b : RField} {p : PField} {qn : QField} (hpol : polOk (c.q qn) = true)
    (hspace : polSpace (c.q qn) = 0) (halign : (c.g (gA a)).toNat % 128 = 0) :
    keyEntry op d a b p qn t c = emitRequest t c 200 (.mapKey (c.mapCmd op d a b p qn)) := by
  simp only [keyEntry, mapImageBad_eq_none hpol hspace halign, latMap, Ctx.mapCmd]

/-! ### Copies and MAPGETN (R220 to R222, R322) -/

/-- A copy form that passes its checks emits its registration. -/
theorem copyEntry_emits {k : CopyKind} {a b : RField} {d : Option RField} {r : Rec768} {f : Option ArrayCmd}
    (hfree : (t.strand c.sid).nextWaits false = false)
    (hcopy : copyChecks t c (c.g (gA a)) (c.g (gB b)) = (u, .inl r)) (hform : formChecks k u c r (c.third d) = (v, .inl f))
    (htime : timingBad v c = none) : copyEntry k a b d t c =
      emit (v.noteStart c) c (.copy (c.copyCmd k r (c.g (gB b)) (c.third d) f)) c.next := by
  cases d
  all_goals
    simp only [Ctx.third] at hform
    simp only [copyEntry, withRecord_free hfree, hcopy, hform, htime]
    rfl

/-- The state in which a command's start vc is remembered: at its first issue, not where the instruction goes on from MPX. -/
def State.noteFirst (t : State) (c : Ctx) : State := if c.regs.csr.mpx = 0 then t.noteStart c else t

@[simp] theorem State.clear_noteFirst : (t.noteFirst c).clear c.sid = t.clear c.sid := by
  unfold State.noteFirst
  split
  · exact State.clear_noteStart
  · rfl

/-- The check of a start vc, which an instruction that goes on from MPX has behind it. -/
theorem timingBad_first (htime : c.regs.csr.mpx = 0 → timingBad t c = none) :
    (if decide (c.regs.csr.mpx ≠ 0) = true then none else timingBad t c) = none := by
  split
  · rfl
  · next h => exact htime (by simpa using h)

theorem State.noteFirst_eq : (if decide (c.regs.csr.mpx ≠ 0) = true then t else t.noteStart c) = t.noteFirst c := by
  by_cases h : c.regs.csr.mpx = 0 <;> simp [State.noteFirst, h]

/-- The command that MAPGETN captures. -/
def Ctx.getnCmd (c : Ctx) (r : Rec768) (d a : RField) (qn : QField) : CopyCmd :=
  { kind := .mapgetn, record := r, obj := c.g (gD d), third := c.g (gA a), q := c.q qn, hstart := startVc c, hseq := none, follow := none }

theorem exec_mapgetn_defers {d a b : RField} {qn : QField} {o : Nat} {m : Mx} (hi : Issuing s t c)
    (hfree : (t.strand c.sid).nextWaits false = false)
    (hd : decodeTrap { policyHints with start := true } [gD d, gA a, gB b] false t c = none)
    (hmap : t.mapCheck c.sid (c.g (gA a)) (c.q qn) false = .inl m) (hread : t.readRecord c.sid (c.g (gB b)) 32 32 = (u, .inl o))
    (hkeys : getnKeys (BitVec.ofNat 768 o) % 8 = 0) (hout : getnOut (BitVec.ofNat 768 o) % 8 = 0)
    (hobj : objectBad (c.g (gD d)) = none) (hgetn : getnBad (BitVec.ofNat 768 o) m.p (c.g (gD d)) = false)
    (hclear : u.clear c.sid = false) (htime : c.regs.csr.mpx = 0 → timingBad u c = none) :
    Defers s (u.noteFirst c) c (.mapgetn d a b qn) (.copy (c.getnCmd (BitVec.ofNat 768 o) d a qn)) := by
  refine .of_issue hi hd (exec_mapgetn ..) (State.clear_noteFirst.trans hclear) ?_
  simp only [hmap, withRecord_free hfree, hread, hkeys, hout, hobj, hgetn, ne_eq, not_true_eq_false, if_false, Bool.false_eq_true,
    timingBad_first htime, State.noteFirst_eq]
  rfl

/-! ### The array (R290, R292, R293, R295) -/

/-- The command of MMA, of MMAS where `clear`. -/
def Ctx.mmaCmd (c : Ctx) (core : Core) (clear : Bool) (d a b : RField) (k : BitVec 1) : ArrayCmd :=
  { zero := false, clear := clear, bank := k.toNat, prec := core.prec k.toNat, dsc := c.g (gD d), pa := c.g (gA a), pb := c.g (gB b),
    step := 0, first := 0, owner := c.sid, gpc := c.gpc, hstart := startVc c, hseq := c.h.seq, skip := [], locks := [], id := 0,
    waitCopy := none, handAt := 0, start := none, prev := 0, ends := 0, base := none }

theorem mma_defers {i : Instr} {clear : Bool} {d a b : RField} {k : BitVec 1} (hi : Issuing s t c) (hclear : t.clear c.sid = false)
    (hd : decodeTrap { start := true, seq := true } [gD d, gA a, gB b] false t c = none) (hx : exec i s = mma clear d a b k s)
    (hbad : mmaBad (t.core c.sid.core) c.sid.strand k.toNat (c.g (gD d)) (c.g (gA a)) (c.g (gB b)) = none)
    (htime : c.regs.csr.mpx = 0 → timingBad t c = none) :
    Defers s (t.noteFirst c) c i (.array (c.mmaCmd (t.core c.sid.core) clear d a b k)) := by
  refine .of_issue hi hd hx (State.clear_noteFirst.trans hclear) ?_
  simp only [hbad, timingBad_first htime, State.noteFirst_eq]
  rfl

theorem exec_mwracc_defers {d a : RField} {k : BitVec 1} (hi : Issuing s t c) (hclear : t.clear c.sid = false)
    (hd : decodeTrap {} [gD d, gA a] false t c = none)
    (hbad : elementBad ((t.ahead c.sid).core c.sid.core) c.sid.strand k.toNat false (c.g (gA a)) = none)
    (hfree : (t.core c.sid.core).bankBusy k.toNat = false ∨ (t.strand c.sid).resumed = true) :
    Defers s t c (.mwracc d a k) (.mwracc k.toNat (c.g (gA a)) (c.g (gD d))) := by
  have hgo : ((t.core c.sid.core).bankBusy k.toNat && !(t.strand c.sid).resumed) = false := by
    rcases hfree with h | h <;> simp [h]
  refine .of_issue hi hd (exec_mwracc ..) hclear ?_
  simp only [hbad, hgo]
  rfl

/-! ### Work and the instructions after which the strand issues nothing (R91 to R97, R393, R394, R417) -/

section
variable {a : RField} {n : Nat} {pd : PField} (hi : Issuing s t c) (hd : decodeTrap {} [gA a] false t c = none)
  (hfree : (t.strand c.sid).nextWaits false = false) (hread : t.readRecord c.sid (c.g (gA a)) 64 64 = (u, .inl n))
  (hclear : u.clear c.sid = false)
include hi hd hfree hread hclear

theorem exec_tspawn_defers (hok : u.spawnCheck c.sid (BitVec.ofNat 512 n) = none) :
    Defers s u c (.tspawn pd a) (.tspawn (BitVec.ofNat 512 n) pd.toNat) := by
  refine .of_issue hi hd (exec_tspawn ..) hclear ?_
  simp only [withRecord_free hfree, hread, hok]

theorem exec_launch_defers (hok : u.launchCheck (u.jobOf c.sid) (BitVec.ofNat 512 n) = none) :
    Defers s u c (.launch pd a) (.launch (BitVec.ofNat 512 n) pd.toNat) := by
  refine .of_issue hi hd (exec_launch ..) hclear ?_
  simp only [withRecord_free hfree, hread, hok]

end

/-- A mode that QUIESCE accepts has no bit above its field (R396). -/
theorem State.quiesceMode_of_ok {x : SId} {m : Word} (h : t.quiesceBad x m = none) : quiesceMode m = m.toNat / 2 ^ 32 := by
  have hhigh : m.toNat / 2 ^ 34 = 0 := by
    by_contra hne
    rw [State.quiesceBad, if_pos (by simp only [ne_eq, hne, not_false_eq_true, decide_true, Bool.true_or])] at h
    cases h
  have hlt : m.toNat < 2 ^ 34 := Nat.lt_of_div_eq_zero (by decide) hhigh
  exact Nat.mod_eq_of_lt (by omega)

section
variable {a b : RField} (hi : Issuing s t c) (hclear : t.clear c.sid = false)
include hi hclear

theorem exec_tyield_waits {pd : PField} (hd : decodeTrap {} [gA a] false t c = none) (hgang : (t.strand c.sid).gang = none)
    (halign : (c.g (gA a)).toNat % 4 = 0) :
    Parks s (t.withEffect c (.tyield (c.g (gA a)) pd.toNat)) c (.tyield pd a) .serial .effect := by
  refine .of_issue hi hd (exec_tyield ..) ?_
  simp [hgang, halign, emitStop_waits hclear]

theorem exec_quiesce_defers (hd : decodeTrap {} [gA a] true t c = none) (hok : t.quiesceBad c.sid (c.g (gA a)) = none)
    (hmode : quiesceMode (c.g (gA a)) = 2) : Defers s t c (.quiesce a) (.quiesce (quiesceJob (c.g (gA a))) 2) := by
  refine .of_issue hi hd (exec_quiesce ..) hclear ?_
  simp only [hok, hmode, if_true]

theorem exec_quiesce_waits (hd : decodeTrap {} [gA a] true t c = none) (hok : t.quiesceBad c.sid (c.g (gA a)) = none)
    (hmode : quiesceMode (c.g (gA a)) ≠ 2) :
    Parks s (t.withEffect c (.quiesce (quiesceJob (c.g (gA a))) (quiesceMode (c.g (gA a))))) c (.quiesce a) .serial .effect := by
  refine .of_issue hi hd (exec_quiesce ..) ?_
  simp only [hok, hmode, if_false, emitStop_waits hclear]

theorem exec_migrate_waits (hd : decodeTrap {} [gA a, gB b] true t c = none) (hok : t.migrateBad (c.g (gA a)) (c.g (gB b)) = none) :
    Parks s (t.withEffect c (.migrate (c.g (gA a)).toNat (c.g (gB b)).toNat)) c (.migrate a b) .serial .effect := by
  refine .of_issue hi hd (exec_migrate ..) ?_
  simp only [hok, emitStop_waits hclear]

theorem exec_tlbinv_waits (hd : decodeTrap { scope := true } [gA a, gB b] true t c = none) (hlen : c.g (gB b) ≠ 0)
    (hbase : (c.g (gA a)).toNat < 2 ^ 57) (hend : (c.g (gA a)).toNat + (c.g (gB b)).toNat ≤ 2 ^ 57) :
    Parks s (t.withEffect c (.tlbinv (c.g (gA a)) (c.g (gB b)) (c.h.scope.getD 4))) c (.tlbinv a b) .serial .effect := by
  refine .of_issue hi hd (exec_tlbinv ..) ?_
  simp only [hlen, if_false, Nat.not_le.mpr hbase, Nat.not_lt.mpr hend, decide_false, Bool.or_self, Bool.false_eq_true, emitStop_waits hclear]

theorem exec_repart_waits (hd : decodeTrap {} [] true t c = none) (hstrand : c.sid.strand = 0) (hquiet : t.coreQuiet c.sid = true)
    (p : Part) : Parks s (t.withEffect c (.repart p)) c (.repart p) .serial .effect := by
  refine .of_issue hi hd (exec_repart ..) ?_
  simp [hstrand, hquiet, emitStop_waits hclear]

theorem exec_eret_waits (hd : decodeTrap {} [] false t c = none) (hinh : c.regs.csr.status.inh = true)
    (halign : c.regs.csr.epc.toNat % 4 = 0) : Parks s (t.withEffect c .eret) c .eret .serial .effect := by
  refine .of_issue hi hd (exec_eret ..) ?_
  simp [hinh, halign, emitStop_waits hclear]

theorem exec_tend_waits (hd : decodeTrap {} [] false t c = none) (hstarts : ∀ m ∈ (t.strand c.sid).starts, m.1 ≤ c.vc) :
    Parks s (t.withEffect c .tend) c .tend .serial .effect := by
  refine .of_issue hi hd (exec_tend ..) ?_
  simp only [tendBad_eq_none hstarts, emitStop_waits hclear]

end

end

/-- Settles O31: each form captures its effect at issue and defers it; a request waits in flight, and an instruction that ends the
sequence parks its strand. -/
theorem effectsWaitForEarlierFaults : Obligations.EffectsWaitForEarlierFaults := by
  refine ⟨fun s t c d a b qn o k hi hclear => ?_, fun s t c d a b e pd qn k z hi hclear => ?_⟩
  · intro x y q st v
    have hst {w : Nat} {i : Instr} {us : List Use} {f : Ctx → VWord}
        (hx : exec i s = issue s policyHints us false fun s c => storeEntry w (f c) a qn o s c) : st w i us (f c) :=
      fun hd hpol halign l leaf hres => store_defers hi hclear hd hpol hx halign hres
    have hword {n : Nat} {i : Instr} (hx : exec i s = store n d a qn o s) : st n i [gD d, gA a] v :=
      hst (f := fun c => (c.g (gD d)).setWidth 128) hx
    refine ⟨hword (exec_stB8 ..), hword (exec_stB16 ..), hword (exec_stB32 ..), hword (exec_stB64 ..),
      hst (f := fun c => c.v d) (exec_stv ..), fun hd hpol l leaf hres => ?_, fun i hmem hd => ?_, fun hd => ?_, fun i hmem hd => ?_,
      fun hd => .of_issue hi hd (exec_ssend ..) hclear rfl, fun hd => .of_issue hi hd (exec_sclose ..) hclear rfl, fun hd => ?_,
      fun hd => ?_⟩
    -- STN
    · exact ⟨storeNibble_defers hi hclear hd hpol rfl (exec_stnLo ..) hres,
        storeNibble_defers hi hclear hd hpol rfl (exec_stnHi ..) hres⟩
    -- full/empty operations and marks
    · simp only [List.mem_cons, List.not_mem_nil, or_false] at hmem
      rcases hmem with rfl | rfl
      · exact fullEmpty_again hi hclear (op := .ldf) (exec_ldf ..) hd
      · exact fullEmpty_again hi hclear (op := .ldfp) (exec_ldfp ..) hd
    · exact fullEmpty_again hi hclear (op := .stf) (exec_stf ..) hd
    · simp only [List.mem_cons, List.not_mem_nil, or_false] at hmem
      rcases hmem with rfl | rfl
      · exact femark_again hi hclear (exec_femarkE ..) hd
      · exact femark_again hi hclear (exec_femarkF ..) hd
    -- one operand: MPREC's image form, SOPEN, CANCEL
    · refine ⟨.of_issue hi hd (exec_mprecImage ..) hclear rfl, fun hlt hcore hmem => ?_, fun hpos hle hlt => ?_⟩
      · exact exec_sopen_defers hi hclear hd (targetOk_of_coreIdOk hlt hcore) (State.inPartition_of_mem hmem)
      · exact ⟨cancelEntry_defers hi hclear hd (exec_cancelDrain ..) hpos hle hlt,
          cancelEntry_defers hi hclear hd (exec_cancelKill ..) hpos hle hlt⟩
    -- two operands: MSGSEND and the barrier objects
    · refine ⟨fun hlt hcore hmem => ?_, fun halign hwin => ⟨?_, fun hrsv hcore => ?_⟩⟩
      · exact exec_msgsend_defers hi hclear hd (targetOk_of_coreIdOk hlt hcore) (State.inPartition_of_mem hmem)
      · exact exec_baradd_defers hi hclear hd (objectBad_eq_none halign hwin)
      · exact exec_barinit_defers hi hclear hd (objectBad_eq_none halign hwin) (barinitBad_eq_false hrsv hcore)
  · intro x y w q later stops n
    refine ⟨fun hpol halign => ?_, fun hd hpol hspace halign => ?_, fun hfree u v m hread => ?_, fun hfree hd u m o hmap hread => ?_,
      ⟨fun hd hown => ?_, fun hd hbad htime => ?_⟩, fun hd tc ta tb => .of_issue hi hd (exec_mprecShort ..) hclear rfl,
      fun hd hbad hfree => exec_mwracc_defers hi hclear hd hbad hfree, fun hd => ⟨fun u m hfree hread hclear => ?_, fun hgang halign => ?_⟩,
      fun hd hok => ?_, fun hd hok => exec_migrate_waits hi hclear hd hok,
      fun hd hlen hbase hend => exec_tlbinv_waits hi hclear hd hlen hbase hend,
      fun hd hstrand hquiet p => exec_repart_waits hi hclear hd hstrand hquiet p,
      fun hd => ⟨fun hinh halign => exec_eret_waits hi hclear hd hinh halign, fun hstarts => exec_tend_waits hi hclear hd hstarts⟩⟩
    -- atomics
    · refine ⟨fun hd i op hmem => ?_, fun hd m hm => ?_⟩
      · have hatomic {i : Instr} {op : AOp} (hx : exec i s = atomicOp op d a b qn z s) :=
          exec_request_waits hi hd hx hclear (atomicEntry_request hpol halign)
        simp only [List.mem_cons, List.not_mem_nil, or_false, Prod.mk.injEq] at hmem
        rcases hmem with ⟨rfl, rfl⟩ | ⟨rfl, rfl⟩ | ⟨rfl, rfl⟩ | ⟨rfl, rfl⟩ | ⟨rfl, rfl⟩ | ⟨rfl, rfl⟩ | ⟨rfl, rfl⟩ | ⟨rfl, rfl⟩ |
          ⟨rfl, rfl⟩ | ⟨rfl, rfl⟩ <;> exact hatomic rfl
      · refine exec_request_waits hi hd (exec_afadd ..) hclear ?_
        simp only [hm]
        exact atomicEntry_request hpol halign
    -- map key operations
    · intro g j R i op hmem
      have hkey {i : Instr} {op : MapOp} (hx : exec i s = keyOperation op e a b pd qn s) :=
        exec_request_waits hi hd hx hclear (keyEntry_request hpol hspace halign)
      simp only [List.mem_cons, List.not_mem_nil, or_false, Prod.mk.injEq] at hmem
      rcases hmem with ⟨rfl, rfl⟩ | ⟨rfl, rfl⟩ | ⟨rfl, rfl⟩ | ⟨rfl, rfl⟩ | ⟨rfl, rfl⟩ | ⟨rfl, rfl⟩ <;> exact hkey rfl
    -- copies
    · intro r hlay halign hwin hclear htime C
      have hcopy := copyChecks_ok hread hlay (objectBad_eq_none halign hwin)
      have hC {i : Instr} {att : Attach} {us : List Use} {kind : CopyKind} {third : Option RField} {f : Option ArrayCmd}
          (hx : exec i s = issue s att us false fun s c => copyEntry kind a b third s c)
          (hform : formChecks kind u c r (c.third third) = (v, .inl f)) : C i att us kind (c.third third) f :=
        fun hd => .of_issue hi hd hx (State.clear_noteStart.trans hclear) (copyEntry_emits hfree hcopy hform htime)
      refine ⟨fun huv => ?_, fun o f hmesh hfollowRead hf => ?_, fun huv hmesh hq4 hrow hfour hend => ?_⟩
      · subst huv
        exact ⟨hC (third := none) (exec_cpy ..) rfl, hC (third := none) (exec_cpym ..) rfl⟩
      · exact hC (third := some d) (exec_cpyx ..) (formChecks_cpyx hmesh hfollowRead hf)
      · subst huv
        have hform {kind : CopyKind} (hk : kind = .gath ∨ kind = .scat) := formChecks_rows hk hmesh hq4 hrow hfour hend (u := v) (c := c)
        exact ⟨hC (third := some d) (exec_gath ..) (hform (.inl rfl)), hC (third := some d) (exec_scat ..) (hform (.inr rfl))⟩
    · intro r hkeys hout halign hwin hgetn hclear htime
      exact exec_mapgetn_defers hi hfree hd hmap hread hkeys hout (objectBad_eq_none halign hwin) hgetn hclear htime
    -- MZERO, then MMA and MMAS
    · refine .of_issue hi hd (exec_mzero ..) hclear ?_
      simp only [hown]
      rfl
    · exact ⟨mma_defers hi hclear hd (exec_mma ..) hbad htime, mma_defers hi hclear hd (exec_mmas ..) hbad htime⟩
    · exact ⟨exec_tspawn_defers hi hd hfree hread hclear, exec_launch_defers hi hd hfree hread hclear⟩
    · exact exec_tyield_waits hi hclear hd hgang halign
    -- QUIESCE
    · have hmode := State.quiesceMode_of_ok hok
      refine ⟨fun h2 => ?_, fun h2 => ?_⟩
      · exact exec_quiesce_defers hi hclear hd hok (hmode.trans h2)
      · have hwaits := exec_quiesce_waits hi hclear hd hok (hmode.trans_ne h2)
        rwa [hmode] at hwaits

end Sys2Proof.Machine
end

section
/-! O16: the barrier-object forms at issue, and what a counting step leaves of an object. -/

namespace Sys2Proof.Machine

variable {s t u : State} {c : Ctx}

/-! ### The forms at issue (R223, R224) -/

/-- An instruction whose entry goes on at the next word. -/
theorem Passes.of_issue {i : Instr} {att : Attach} {us : List Use} {super : Bool} {entry : State → Ctx → Act} (hi : Issuing s t c)
    (hd : decodeTrap att us super t c = none) (hx : exec i s = issue s att us super entry) (he : entry t c = .go u c.next) :
    Passes s u c i := by
  rw [Passes, hx, issue_go hi hd he]
  rfl

/-- The signed field of all of a bit vector's bits is its signed value. -/
theorem signedField_toNat {n : Nat} (hn : 0 < n) (x : BitVec n) : signedField n x.toNat = x.toInt := by
  have hsign : x.toNat < 2 ^ (n - 1) ↔ 2 * x.toNat < 2 ^ n := by
    have := Nat.two_pow_pred_add_two_pow_pred hn
    omega
  rw [BitVec.toInt_eq_toNat_cond, signedField, if_congr hsign rfl rfl]

theorem inWindow_of_bounds {o : Word} (hbase : Config.scratchBase ≤ o.toNat) (hend : o.toNat < Config.scratchBase + 0x40000) :
    inWindow o = true := by
  simp [inWindow, hbase, hend]

theorem State.performBarinit_done {x : SId} {o image : Word} (hlock : t.storeLocked (objectLoc x.core o) 16 = false) :
    t.performBarinit x o image =
      .done ((t.settleOwn x (objectLoc x.core o) 16).write (objectLoc x.core o) (leBytes 16 image.toNat)) := by
  simp [performBarinit, hlock]

/-- BARADD's change is in range where EXPECT, with the changes that wait and its own, is a 32-bit number e. -/
theorem State.performBaradd_done {x : SId} {o change : Word} {e : Nat}
    (he : (e : Int) = ((t.settleOwn x (objectLoc x.core o) 16).natAt (objectLoc x.core o) 4 : Int) +
      ((t.settleOwn x (objectLoc x.core o) 16).core (locCore (objectLoc x.core o))).heldChange (objectLoc x.core o) +
      (change.setWidth 32).toInt) (hlt : e < 2 ^ 32) :
    t.performBaradd x o change =
      .done ((t.settleOwn x (objectLoc x.core o) 16).count (objectLoc x.core o) 0 (change.setWidth 32).toInt) := by
  have hrange : ¬((e : Int) < 0 ∨ (2 : Int) ^ 32 ≤ e) := by omega
  have hchange : signedField 32 (change.toNat % 2 ^ 32) = (change.setWidth 32).toInt := by
    rw [← BitVec.toNat_setWidth, signedField_toNat (by decide)]
  simp only [performBaradd, objExpect, hchange, ← he, Bool.or_eq_true, decide_eq_true_eq]
  rw [if_neg hrange]

section
variable {a b : RField} (hi : Issuing s t c) (hobj : objectBad (c.g (gA a)) = none)
include hi hobj

theorem exec_barinit_performs (hd : decodeTrap {} [gA a, gB b] false t c = none) (hclear : t.clear c.sid = true)
    (himage : barinitBad (c.g (gB b)) = false) (hdone : t.performBarinit c.sid (c.g (gA a)) (c.g (gB b)) = .done u) :
    Passes s u c (.barinit a b) := by
  refine .of_issue hi hd (exec_barinit ..) ?_
  simp only [hobj, himage]
  exact emit_done hclear rfl hdone

theorem exec_baradd_performs (hd : decodeTrap {} [gA a, gB b] false t c = none) (hclear : t.clear c.sid = true)
    (hdone : t.performBaradd c.sid (c.g (gA a)) (c.g (gB b)) = .done u) : Passes s u c (.baradd a b) := by
  refine .of_issue hi hd (exec_baradd ..) ?_
  simp only [hobj]
  exact emit_done hclear rfl hdone

variable {n : Bool} (hd : decodeTrap {} [gA a] false t c = none)
include hd

theorem exec_waitph_passes
    (hphase : objPhase (t.breakAt c.sid c.seq) (objectLoc c.sid.core (c.g (gA a))) = n.toNat) :
    Passes s (t.breakAt c.sid c.seq) c (.waitph a n) := by
  refine .of_issue hi hd (exec_waitph ..) ?_
  simp only [hobj, hphase, if_true]

theorem exec_waitph_parks
    (hphase : objPhase (t.breakAt c.sid c.seq) (objectLoc c.sid.core (c.g (gA a))) ≠ n.toNat) :
    Parks s (t.breakAt c.sid c.seq) c (.waitph a n) .barrierPhase (.phase (objectLoc c.sid.core (c.g (gA a))) n) := by
  refine .of_issue hi hd (exec_waitph ..) ?_
  simp only [hobj, hphase, if_false]

end

/-! ### Numbers in memory, before and after a write of one (R3) -/

theorem State.natAt_congr (h : ∀ a, t.byteAt a = s.byteAt a) (l n : Nat) : t.natAt l n = s.natAt l n := by
  rw [natAt, natAt, bytesAt_congr h]

theorem State.bytesAt_setBytes_disjoint {l a n : Nat} {bs : List Byte} (h : a + n ≤ l ∨ l + bs.length ≤ a) :
    (s.setBytes l bs).bytesAt a n = s.bytesAt a n := by
  induction n generalizing a with
  | zero => rfl
  | succ n ih => rw [bytesAt, bytesAt, byteAt_setBytes_outside (by omega), ih (by omega)]

theorem State.natAt_setNat_disjoint {l a m n : Nat} (v : Nat) (h : a + n ≤ l ∨ l + m ≤ a) :
    (s.setNat l m v).natAt a n = s.natAt a n := by
  rw [natAt, natAt, setNat, bytesAt_setBytes_disjoint (by rwa [length_leBytes])]

theorem State.natAt_setNat {l n v : Nat} (h : ∀ k, k < n → s.ReadsBack (l + k)) (hv : v < 256 ^ n) :
    (s.setNat l n v).natAt l n = v := by
  have hbytes := bytesAt_setBytes (s := s) (l := l) (bs := leBytes n v) (by simpa using h)
  rw [length_leBytes] at hbytes
  rw [natAt, setNat, hbytes, leNat_leBytes, Nat.mod_eq_of_lt hv]

theorem State.ReadsBack.setBytes {m : Nat} (l : Nat) (bs : List Byte) (h : s.ReadsBack m) : (s.setBytes l bs).ReadsBack m := by
  induction bs generalizing s l with
  | nil => exact h
  | cons b bs ih => exact ih (l + 1) (h.setByte l b)

/-! ### The words of an object (R205) -/

/-- Every byte of the 16-byte object at l reads back as it is written. -/
def State.ObjectReadsBack (s : State) (l : Nat) : Prop := ∀ k, k < 16 → s.ReadsBack (l + k)

/-- An object that lies whole in the scratch of one core, in its canonical form. -/
theorem State.objectReadsBack_scratch {l : Nat} (hend : l + 16 ≤ Config.scratchLoc (locCore l) 0x40000)
    (hl : isScratchLoc l = true) (hwf : Tab.wf 0 (s.core (locCore l)).scratch = true) : s.ObjectReadsBack l := by
  intro k hk
  rw [isScratchLoc_iff] at hl
  simp only [Config.scratchLoc, locCore, Config.hostEnd] at hend
  have hoff : l + k = Config.scratchLoc (locCore l) (locOff l + k) := by
    simp only [Config.scratchLoc, locCore, locOff, Config.hostEnd]
    omega
  rw [hoff]
  refine readsBack_scratch ?_ hwf
  simp only [locOff, Config.hostEnd]
  omega

theorem State.ObjectReadsBack.setNat {l : Nat} (a n v : Nat) (h : s.ObjectReadsBack l) : (s.setNat a n v).ObjectReadsBack l :=
  fun k hk => (h k hk).setBytes a (leBytes n v)

/-- Any word of the object takes a 32-bit number. -/
theorem State.ObjectReadsBack.natAt_setNat {l v : Nat} (h : s.ObjectReadsBack l) (i : Nat) (hi : i ≤ 12) (hv : v < 2 ^ 32) :
    (s.setNat (l + i) 4 v).natAt (l + i) 4 = v := by
  refine State.natAt_setNat (fun k hk => ?_) hv
  rw [Nat.add_assoc]
  exact h (i + k) (by omega)

/-! ### EXPECT after a change of it (R223) -/

/-- The state in which a step's change d of EXPECT has been made. -/
def State.withExpect (s : State) (l : Nat) (d : Int) : State := if d = 0 then s else s.setNat l 4 (objChanged s l d)

section
variable {l : Nat} {d : Int}

theorem State.ObjectReadsBack.withExpect (h : s.ObjectReadsBack l) : (s.withExpect l d).ObjectReadsBack l := by
  unfold State.withExpect
  split
  · exact h
  · exact h.setNat _ _ _

theorem State.natAt_withExpect (h : s.ObjectReadsBack l) (hlt : objChanged s l d < 2 ^ 32) :
    (s.withExpect l d).natAt l 4 = objChanged s l d := by
  unfold withExpect
  split
  · next hd => simp [objChanged, objExpect, hd]
  · exact h.natAt_setNat 0 (by decide) hlt

/-- The words behind EXPECT stay. -/
theorem State.natAt_withExpect_behind {i : Nat} (hi : 4 ≤ i) : (s.withExpect l d).natAt (l + i) 4 = s.natAt (l + i) 4 := by
  unfold withExpect
  split
  · rfl
  · exact natAt_setNat_disjoint _ (.inr (by omega))

end

/-! ### A completion message and the end of waits leave every byte (R209, R224) -/

theorem State.byteAt_postMsg (s : State) (source target : Nat) (m : Msg) (k : Nat) :
    (s.postMsg source target m).byteAt k = s.byteAt k := by
  unfold postMsg
  split
  · exact byteAt_modCore s (s.fwd target) (f := fun k => { k with transit := k.transit ++ [m] }) rfl k
  · exact byteAt_modCore s source (f := fun k => { k with held := k.held ++ [m], heldTo := k.heldTo ++ [target] }) rfl k

theorem State.byteAt_makeReady (s : State) (x : SId) (lat : Nat) (ws : List Dest) (f : Option TrapInfo) (k : Nat) :
    (s.makeReady x lat ws f).byteAt k = s.byteAt k :=
  (SameOutside.modStrand s x fun st => { st with park := st.park.map fun p => { p with on := .ready lat ws f } }).byteAt k

theorem State.byteAt_wakePhase (s : State) (l phase k : Nat) : (s.wakePhase l phase).byteAt k = s.byteAt k := by
  unfold wakePhase
  refine List.foldlRecOn _ _ (motive := fun t : State => t.byteAt k = s.byteAt k) rfl fun t ht y _ => ?_
  split
  · split
    · split
      · exact (byteAt_makeReady t y 0 [] none k).trans ht
      · exact ht
    · exact ht
  · exact ht

/-! ### Counting (R206) -/

section
variable {l n : Nat} {d : Int}

/-- With no step that waits and room in the core's engine, a step is applied at once (R209). -/
theorem State.count_eq_countNow (hflips : (s.core (locCore l)).flips = []) (hheld : (s.core (locCore l)).held.length < 4) :
    s.count l n d = s.countNow l n d := by
  simp [count, stepWaits, hflips, hheld]

theorem State.countNow_of_not_flips (h : objFlips s l n d = false) :
    s.countNow l n d = (s.withExpect l d).setNat (l + 8) 4 ((objArrived s l + n) % 2 ^ 32) := by
  simp only [countNow, h, Bool.false_eq_true, if_false, withExpect]

/-- The object's words after a flip: the arrived count less EXPECT, and the other phase. -/
def State.flipped (s : State) (l a : Nat) : State :=
  (s.setNat (l + 8) 4 (a - objExpect s l)).setNat (l + 12) 4 (1 - objPhase s l)

/-- What follows a flip, a completion message and the end of waits, leaves every byte. -/
theorem State.byteAt_countNow_of_flips (h : objFlips s l n d = true) (k : Nat) :
    (s.countNow l n d).byteAt k = ((s.withExpect l d).flipped l ((objArrived s l + n) % 2 ^ 32)).byteAt k := by
  simp only [countNow, h, if_true]
  rw [byteAt_wakePhase, apply_ite (byteAt · k), byteAt_postMsg, ite_self, flipped, withExpect]

theorem State.natAt_flipped {a : Nat} (h : s.ObjectReadsBack l) (ha : a < 2 ^ 32) :
    (s.flipped l a).natAt (l + 8) 4 = a - s.natAt l 4 ∧ (s.flipped l a).natAt (l + 12) 4 = 1 - s.natAt (l + 12) 4 % 2 ∧
      (s.flipped l a).natAt l 4 = s.natAt l 4 := by
  unfold flipped
  refine ⟨?_, (h.setNat _ _ _).natAt_setNat 12 (by decide) (by omega), ?_⟩
  · rw [natAt_setNat_disjoint _ (.inl (by omega)), h.natAt_setNat 8 (by decide) (by omega)]
    rfl
  · rw [natAt_setNat_disjoint _ (.inl (by omega)), natAt_setNat_disjoint _ (.inl (by omega))]

end

section
variable {l n want : Nat} {d : Int} (hwant : (want : Int) = (s.natAt l 4 : Int) + d)
include hwant

theorem objChanged_eq : objChanged s l d = want := by
  rw [objChanged, objExpect, ← hwant, Int.toNat_natCast]

theorem objFlips_eq : objFlips s l n d = decide (want ≠ 0 ∧ want ≤ (s.natAt (l + 8) 4 + n) % 2 ^ 32) := by
  rw [objFlips, objChanged_eq hwant, objArrived, Bool.decide_and]

variable (hobj : s.ObjectReadsBack l) (hlt : want < 2 ^ 32)
include hobj hlt

/-- EXPECT takes its new number in either case. -/
theorem State.natAt_withExpect_eq : (s.withExpect l d).natAt l 4 = want := by
  rw [natAt_withExpect hobj (by rwa [objChanged_eq hwant]), objChanged_eq hwant]

theorem State.natAt_countNow_of_flips (hreach : want ≠ 0 ∧ want ≤ (s.natAt (l + 8) 4 + n) % 2 ^ 32) :
    (s.countNow l n d).natAt (l + 8) 4 = (s.natAt (l + 8) 4 + n) % 2 ^ 32 - want ∧
      (s.countNow l n d).natAt (l + 12) 4 = 1 - s.natAt (l + 12) 4 % 2 ∧ (s.countNow l n d).natAt l 4 = want := by
  have hflips : objFlips s l n d = true := (objFlips_eq hwant).trans (decide_eq_true hreach)
  have hwords := natAt_flipped (hobj.withExpect (d := d)) (Nat.mod_lt (objArrived s l + n) (Nat.two_pow_pos 32))
  rw [natAt_withExpect_eq hwant hobj hlt, natAt_withExpect_behind (by decide)] at hwords
  simpa only [natAt_congr (byteAt_countNow_of_flips hflips), objArrived] using hwords

theorem State.natAt_countNow_of_not_flips (hreach : ¬(want ≠ 0 ∧ want ≤ (s.natAt (l + 8) 4 + n) % 2 ^ 32)) :
    (s.countNow l n d).natAt (l + 8) 4 = (s.natAt (l + 8) 4 + n) % 2 ^ 32 ∧
      (s.countNow l n d).natAt (l + 12) 4 = s.natAt (l + 12) 4 ∧ (s.countNow l n d).natAt l 4 = want := by
  rw [countNow_of_not_flips ((objFlips_eq hwant).trans (decide_eq_false hreach))]
  refine ⟨hobj.withExpect.natAt_setNat 8 (by decide) (Nat.mod_lt _ (Nat.two_pow_pos 32)), ?_, ?_⟩
  · rw [natAt_setNat_disjoint _ (.inr (by omega)), natAt_withExpect_behind (by decide)]
  · rw [natAt_setNat_disjoint _ (.inl (by omega)), natAt_withExpect_eq hwant hobj hlt]

end

/-- Settles O16: each form performs its effect at issue, and a count that is applied writes the object's words in turn: EXPECT, the
arrived bytes and, at a flip, the phase. -/
theorem barrierObjectForms : Obligations.BarrierObjectForms := by
  refine ⟨fun s t c a b n hi => ?_, fun s l n d hl hscratch => ?_⟩
  · intro o w u l halign hbase hend
    have hobj : objectBad (c.g (gA a)) = none := objectBad_eq_none halign (inWindow_of_bounds hbase hend)
    refine ⟨fun hd hclear => ⟨fun hrsv hcore hlock => ?_, fun e he hlt => ?_⟩, fun hd => ⟨fun hphase => ?_, fun hphase => ?_⟩⟩
    · exact exec_barinit_performs hi hobj hd hclear (barinitBad_eq_false hrsv hcore) (State.performBarinit_done hlock)
    · exact exec_baradd_performs hi hobj hd hclear (State.performBaradd_done he hlt)
    · exact exec_waitph_passes hi hobj hd hphase
    · exact exec_waitph_parks hi hobj hd hphase
  · intro k hwf sum want hwant hlt hflips hheld
    have hback : s.ObjectReadsBack l := State.objectReadsBack_scratch hl hscratch hwf
    dsimp only
    rw [State.count_eq_countNow hflips hheld]
    split
    case isTrue hreach => exact State.natAt_countNow_of_flips hwant hback hlt hreach
    case isFalse hreach => exact State.natAt_countNow_of_not_flips hwant hback hlt hreach

end Sys2Proof.Machine
end

section
/-! O21: rounding is exact. -/

namespace Sys2Proof.Machine

/-! ### Rounding a number that is m x 2^e already (R234) -/

theorem log2_mul_two_pow {m : Nat} (hm : m ≠ 0) (a : Nat) : (m * 2 ^ a).log2 = m.log2 + a := by
  rw [Nat.log2_eq_iff (Nat.mul_ne_zero hm (Nat.two_pow_pos a).ne'), Nat.pow_add, Nat.add_right_comm, Nat.pow_add]
  exact ⟨Nat.mul_le_mul_right _ (Nat.log2_self_le hm), Nat.mul_lt_mul_of_pos_right Nat.lt_log2_self (Nat.two_pow_pos a)⟩

theorem log2Ratio_scaled {m : Nat} (hm : m ≠ 0) (a b : Nat) : log2Ratio (m * 2 ^ a) (2 ^ b) = (m.log2 : Int) + a - b := by
  have hpow {i j : Nat} (h : i = m.log2 + j) : 2 ^ i ≤ m * 2 ^ j := by
    rw [h, Nat.pow_add]
    exact Nat.mul_le_mul_right _ (Nat.log2_self_le hm)
  rw [log2Ratio, log2_mul_two_pow hm, Nat.log2_two_pow]
  push_cast
  rw [if_pos]
  split
  · rw [← Nat.pow_add]
    exact hpow (by omega)
  · rw [Nat.mul_assoc, ← Nat.pow_add]
    exact hpow (by omega)

section
variable {T : Fmt} {m : Nat} {e : Int} (mode draw : Nat) (neg : Bool)

/-- Nothing is left over where the unit of the last place is the number's own exponent. -/
theorem roundRatio_exact (hm : m ≠ 0) (hunit : max (1 - (T.bias : Int)) (m.log2 + e) = e + T.frac)
    (hmax : (e + T.frac - (1 - (T.bias : Int))).toNat * 2 ^ T.frac + m ≤ T.maxFinite) :
    roundRatio T mode draw neg (m * 2 ^ e.toNat) (2 ^ (-e).toNat) =
      (if neg then signBit T else 0) + ((e + T.frac - (1 - (T.bias : Int))).toNat * 2 ^ T.frac + m) := by
  have hlog : log2Ratio (m * 2 ^ e.toNat) (2 ^ (-e).toNat) = m.log2 + e := by
    rw [log2Ratio_scaled hm]
    omega
  have hscale : (if 0 ≤ e then m * 2 ^ e.toNat else m * 2 ^ e.toNat * 2 ^ (-e).toNat) =
      m * (if 0 ≤ e then 2 ^ (-e).toNat * 2 ^ e.toNat else 2 ^ (-e).toNat) := by
    split
    case isTrue he => rw [Int.toNat_of_nonpos (by omega : -e ≤ 0), Nat.pow_zero, Nat.one_mul]
    case isFalse he => rw [Int.toNat_of_nonpos (by omega : e ≤ 0), Nat.pow_zero, Nat.mul_one]
  have hpos : 0 < if 0 ≤ e then 2 ^ (-e).toNat * 2 ^ e.toNat else 2 ^ (-e).toNat := by
    split <;> positivity
  rw [roundRatio]
  dsimp only
  rw [if_neg (Nat.mul_ne_zero hm (Nat.two_pow_pos _).ne'), hlog, hunit, Int.add_sub_cancel, hscale, Nat.mul_div_cancel _ hpos,
    Nat.mul_mod_left]
  simp only [ne_eq, not_true_eq_false, decide_false, Bool.false_and, Bool.false_eq_true, if_false, if_neg (Nat.not_lt.mpr hmax)]

theorem pack_fin (ftz : Bool) :
    pack T mode draw ftz (.fin neg m e) = flushBits T ftz (roundRatio T mode draw neg (m * 2 ^ e.toNat) (2 ^ (-e).toNat)) := by
  rw [pack]
  split
  case isTrue he => rw [Int.toNat_of_nonpos (by omega : -e ≤ 0), Nat.pow_zero]
  case isFalse he => rw [Int.toNat_of_nonpos (by omega : e ≤ 0), Nat.pow_zero, Nat.mul_one]

end

/-! ### The parts of a pattern (R227) -/

/-- The fraction field of a pattern. -/
def fracOf (T : Fmt) (x : Nat) : Nat := x % 2 ^ T.frac
/-- The exponent field of a pattern. -/
def expoOf (T : Fmt) (x : Nat) : Nat := x / 2 ^ T.frac % 2 ^ T.expo
/-- The sign of a pattern. -/
def negOf (T : Fmt) (x : Nat) : Bool := x / 2 ^ (T.frac + T.expo) % 2 = 1

/-- A pattern's magnitude: its fields below the sign. -/
def magnitude (T : Fmt) (x : Nat) : Nat := expoOf T x * 2 ^ T.frac + fracOf T x

section
variable {T : Fmt} {x : Nat}

theorem bits_eq_of_isFloat (hT : T.isFloat = true) : T.bits = T.frac + T.expo + 1 := by
  revert hT
  cases T <;> decide

theorem one_lt_two_pow_expo (hT : T.isFloat = true) : 1 < 2 ^ T.expo := by
  revert hT
  cases T <;> decide

theorem fracOf_lt : fracOf T x < 2 ^ T.frac := Nat.mod_lt _ (Nat.two_pow_pos _)
theorem expoOf_lt : expoOf T x < 2 ^ T.expo := Nat.mod_lt _ (Nat.two_pow_pos _)

theorem signBit_eq (hT : T.isFloat = true) : signBit T = 2 ^ (T.bits - 1) := by
  rw [signBit, bits_eq_of_isFloat hT, Nat.add_sub_cancel]

theorem magnitude_eq_mod : magnitude T x = x % signBit T := by
  rw [signBit, Nat.pow_add, Nat.mod_mul, magnitude, expoOf, fracOf, Nat.mul_comm, Nat.add_comm]

theorem sign_eq (hT : T.isFloat = true) (hx : x < 2 ^ T.bits) : (if negOf T x then signBit T else 0) = x / signBit T * signBit T := by
  have hlt : x / signBit T < 2 := by
    rw [bits_eq_of_isFloat hT, Nat.pow_succ] at hx
    exact Nat.div_lt_of_lt_mul hx
  have hneg : negOf T x = decide (x / signBit T = 1) := by
    rw [negOf, ← signBit, Nat.mod_eq_of_lt hlt]
  rw [hneg]
  rcases Nat.lt_succ_iff_lt_or_eq.mp hlt with h | h
  · simp [Nat.lt_one_iff.mp h]
  · simp [h]

/-- A pattern is its sign and its magnitude. -/
theorem sign_add_magnitude (hT : T.isFloat = true) (hx : x < 2 ^ T.bits) : (if negOf T x then signBit T else 0) + magnitude T x = x := by
  rw [sign_eq hT hx, magnitude_eq_mod, Nat.mul_comm]
  exact Nat.div_add_mod x (signBit T)

/-! ### The value of a pattern (R228) -/

theorem unpack_eq : unpack T x =
    if expoOf T x = 0 then .fin (negOf T x) (fracOf T x) (1 - (T.bias : Int) - T.frac)
    else if expoOf T x = 2 ^ T.expo - 1 && T ≠ .e4 then (if fracOf T x = 0 then .inf (negOf T x) else .nan)
    else if T = .e4 && expoOf T x = 15 && fracOf T x = 7 then .nan
    else .fin (negOf T x) (2 ^ T.frac + fracOf T x) ((expoOf T x : Int) - T.bias - T.frac) := rfl

/-- The patterns that are neither infinities nor NaNs reach up to the largest finite one. -/
theorem magnitude_le_maxFinite (hT : T.isFloat = true) (hinf : ¬(expoOf T x = 2 ^ T.expo - 1 ∧ T ≠ .e4))
    (hnan : ¬(T = .e4 ∧ expoOf T x = 15 ∧ fracOf T x = 7)) : magnitude T x ≤ T.maxFinite := by
  have hf := fracOf_lt (T := T) (x := x)
  have he := expoOf_lt (T := T) (x := x)
  revert hT hinf hnan hf he
  rw [magnitude]
  generalize expoOf T x = e, fracOf T x = f
  cases T <;> simp [Fmt.isFloat, Fmt.code, Fmt.expo, Fmt.frac, Fmt.maxFinite] <;> omega

theorem roundRatio_of_expoOf_eq_zero (hT : T.isFloat = true) (hexp : expoOf T x = 0) (mode draw : Nat) (neg : Bool) {e : Int}
    (he : e = 1 - (T.bias : Int) - T.frac) : roundRatio T mode draw neg (fracOf T x * 2 ^ e.toNat) (2 ^ (-e).toNat) =
      (if neg then signBit T else 0) + magnitude T x := by
  have hmag : magnitude T x = fracOf T x := by rw [magnitude, hexp, Nat.zero_mul, Nat.zero_add]
  by_cases hzero : fracOf T x = 0
  · rw [hmag, hzero, Nat.zero_mul, roundRatio]
    rfl
  · have hlog : (fracOf T x).log2 < T.frac := (Nat.log2_lt hzero).mpr fracOf_lt
    have hplace : (e + T.frac - (1 - (T.bias : Int))).toNat * 2 ^ T.frac + fracOf T x = magnitude T x := by
      rw [he, Int.sub_add_cancel, Int.sub_self, Int.toNat_zero, Nat.zero_mul, Nat.zero_add, hmag]
    have hexpo := one_lt_two_pow_expo hT
    have hmax := magnitude_le_maxFinite (x := x) hT (fun ⟨htop, _⟩ => by omega) (fun ⟨_, htop, _⟩ => by omega)
    rw [roundRatio_exact _ _ _ hzero (by omega) (hplace.trans_le hmax), hplace]

theorem roundRatio_of_expoOf_ne_zero (hexp : expoOf T x ≠ 0) (hmax : magnitude T x ≤ T.maxFinite) (mode draw : Nat) (neg : Bool) {e : Int}
    (he : e = (expoOf T x : Int) - T.bias - T.frac) :
    roundRatio T mode draw neg ((2 ^ T.frac + fracOf T x) * 2 ^ e.toNat) (2 ^ (-e).toNat) =
      (if neg then signBit T else 0) + magnitude T x := by
  have hlt := fracOf_lt (T := T) (x := x)
  have hne : 2 ^ T.frac + fracOf T x ≠ 0 := by omega
  have hlog : (2 ^ T.frac + fracOf T x).log2 = T.frac := by
    rw [Nat.log2_eq_iff hne, Nat.pow_succ]
    omega
  have hplace : (e + T.frac - (1 - (T.bias : Int))).toNat * 2 ^ T.frac + (2 ^ T.frac + fracOf T x) = magnitude T x := by
    rw [show (e + T.frac - (1 - (T.bias : Int))).toNat = expoOf T x - 1 by omega, ← Nat.add_assoc, ← Nat.succ_mul,
      Nat.succ_eq_add_one, Nat.sub_add_cancel (Nat.pos_of_ne_zero hexp), magnitude]
  rw [roundRatio_exact _ _ _ hne (by omega) (hplace.trans_le hmax), hplace]

/-- Rounding the value of a pattern that is a number gives the pattern's parts. -/
theorem roundRatio_unpack (hT : T.isFloat = true) {neg : Bool} {m : Nat} {e : Int} (h : unpack T x = .fin neg m e) (mode draw : Nat) :
    roundRatio T mode draw neg (m * 2 ^ e.toNat) (2 ^ (-e).toNat) = (if negOf T x then signBit T else 0) + magnitude T x := by
  rw [unpack_eq] at h
  split at h
  case isTrue hexp =>
    cases h
    exact roundRatio_of_expoOf_eq_zero hT hexp mode draw _ rfl
  case isFalse hexp =>
  split at h
  case isTrue => split at h <;> cases h
  case isFalse hinf =>
  split at h
  case isTrue => cases h
  case isFalse hnan =>
    cases h
    exact roundRatio_of_expoOf_ne_zero hexp (magnitude_le_maxFinite hT (by simpa using hinf) (by simpa using hnan)) mode draw _ rfl

/-- A format with infinities has them above its largest finite pattern. -/
theorem eq_of_unpack_inf (hT : T.isFloat = true) {neg : Bool} (h : unpack T x = .inf neg) :
    neg = negOf T x ∧ T ≠ .e4 ∧ magnitude T x = T.infBits := by
  rw [unpack_eq] at h
  split at h
  case isTrue => cases h
  case isFalse =>
  split at h
  case isTrue htop =>
    split at h
    case isTrue hzero =>
      cases h
      obtain ⟨hexp, hne⟩ : expoOf T x = 2 ^ T.expo - 1 ∧ T ≠ .e4 := by simpa using htop
      refine ⟨rfl, hne, ?_⟩
      rw [magnitude, hexp, hzero]
      revert hT hne
      cases T <;> decide
    case isFalse => cases h
  case isFalse => split at h <;> cases h

/-! ### Packing what was unpacked (R234, R235) -/

theorem pack_unpack_fin (hT : T.isFloat = true) (hx : x < 2 ^ T.bits) {neg : Bool} {m : Nat} {e : Int} (h : unpack T x = .fin neg m e)
    (mode draw : Nat) (ftz : Bool) : pack T mode draw ftz (unpack T x) = flushBits T ftz x := by
  rw [h, pack_fin, roundRatio_unpack hT h, sign_add_magnitude hT hx]

theorem pack_unpack_inf (hT : T.isFloat = true) (hx : x < 2 ^ T.bits) {neg : Bool} (h : unpack T x = .inf neg) (mode draw : Nat)
    (ftz : Bool) : pack T mode draw ftz (unpack T x) = x := by
  obtain ⟨rfl, hne, hmag⟩ := eq_of_unpack_inf hT h
  rw [h, pack, if_neg hne, ← hmag, sign_add_magnitude hT hx]

theorem pack_unpack (hT : T.isFloat = true) (hx : x < 2 ^ T.bits) (hnan : (unpack T x).isNan = false) (mode draw : Nat) :
    pack T mode draw false (unpack T x) = x := by
  cases h : unpack T x with
  | nan => rw [h] at hnan; cases hnan
  | inf neg => rw [← h, pack_unpack_inf hT hx h]
  | fin neg m e => rw [← h, pack_unpack_fin hT hx h]; rfl

theorem pack_unpack_nan (hnan : (unpack T x).isNan = true) (mode draw : Nat) (ftz : Bool) :
    pack T mode draw ftz (unpack T x) = T.canonNan := by
  cases h : unpack T x with
  | nan => rfl
  | inf neg => rw [h] at hnan; cases hnan
  | fin neg m e => rw [h] at hnan; cases hnan

theorem pack_unpack_subnormal (hT : T.isFloat = true) (hx : x < 2 ^ T.bits) (hsub : isSubnormal T x = true) (mode draw : Nat) :
    pack T mode draw true (unpack T x) = x / signBit T * signBit T := by
  have hexp : expoOf T x = 0 := by
    simp only [isSubnormal, Bool.and_eq_true, decide_eq_true_eq] at hsub
    exact hsub.1
  rw [pack_unpack_fin hT hx (unpack_eq.trans (if_pos hexp)), flushBits, hsub]
  rfl

end

/-- Settles O21: the value of a pattern that is a number has the pattern's own last place, so that rounding leaves nothing over. -/
theorem roundingIsExact : Obligations.RoundingIsExact := by
  unfold Obligations.RoundingIsExact
  intro T hT x m k hx _ _
  exact ⟨fun hnan => pack_unpack hT hx hnan m k, fun hnan => pack_unpack_nan hnan m k false,
    fun hsub => signBit_eq hT ▸ pack_unpack_subnormal hT hx hsub m k⟩

end Sys2Proof.Machine
end

section
/-! Vector instructions at issue, and the lanes of a vector. -/

namespace Sys2Proof.Machine

variable {s t u : State} {c : Ctx}

/-! ### Sources and results (R250 to R254) -/

theorem withSources_eq {srcs : List RField} {dst : Option Nat} {vs : List VWord} (h : Sources t c srcs dst u vs)
    (k : State → List VWord → Act) : withSources t c srcs dst k = k u vs := by
  rcases h with ⟨hpops, hpushes, rfl, rfl⟩ | ⟨hlinks, hports, hclear, hready, rfl, rfl⟩
  · rw [withSources]
    simp only [hpushes]
    simp only [hpops, List.isEmpty_nil, Bool.and_self, if_true]
  · rw [← List.isEmpty_iff, ← List.isEmpty_iff, ← Bool.and_eq_true] at hlinks
    simp only [withSources, if_neg hlinks, hports, hclear, hready, Bool.not_true, Bool.or_self, Bool.false_eq_true, if_false]

/-- An instruction whose result goes `lat` vc after its issue to a vector register or a neighbour, and whose strand goes on at the
next word (R250). -/
def VectorLands (s u : State) (c : Ctx) (i : Instr) (lat : Nat) (d : RField) (v : VWord) : Prop :=
  exec i s = .next ((u.vectorResult c lat d v).finish c (c.pc + 4))

section
variable {i : Instr} {att : Attach} {us : List Use} {super : Bool} {entry : State → Ctx → Act} {lat : Nat} {d : RField}
  {srcs : List RField} {vs : List VWord} {v : VWord} (hi : Issuing s t c)
include hi

theorem VectorLands.of_entry {f : List VWord → VWord} (hsrc : Sources t c srcs (linkPort d) u vs)
    (hd : decodeTrap att us super t c = none) (hx : exec i s = issue s att us super entry)
    (he : entry t c = vectorEntry lat d srcs f t c) (hv : f vs = v) : VectorLands s u c i lat d v :=
  hv ▸ Passes.of_issue hi hd hx (he.trans (withSources_eq hsrc _))

theorem VectorLands.of_rounded {f : Nat → Bool → List VWord → VWord} {m : Nat} (hsrc : Sources t c srcs (linkPort d) u vs)
    (hd : decodeTrap att us super t c = none) (hm : c.mode false = some m) (hx : exec i s = issue s att us super entry)
    (he : entry t c = roundedEntry lat d srcs f t c) (hv : f m c.ftz vs = v) : VectorLands s u c i lat d v := by
  refine hv ▸ Passes.of_issue hi hd hx (he.trans ((withSources_eq hsrc _).trans ?_))
  rw [hm]

end

/-! ### Types (R248, R254) -/

section
variable {T : Fmt}

theorem isInt_of_isVFloat (hT : T.isVFloat = true) : ¬T.isInt = true := by
  revert hT
  cases T <;> decide

theorem floatHints_of_isInt (hT : T.isInt = true) : floatHints T = {} := by
  revert hT
  cases T <;> decide

theorem floatHints_of_isVFloat (hT : T.isVFloat = true) : floatHints T = { rnd := some false } := by
  revert hT
  cases T <;> decide

theorem bits_dvd_of_isVec (hT : T.isVec = true) : T.bits ∣ 128 := by
  revert hT
  cases T <;> decide

end

/-! ### The lanes of a vector (R247) -/

/-- The number whose fields of w bits are given, the first least significant. -/
def packLanes (w : Nat) (ls : List Nat) : Nat := ls.foldr (fun v a => a * 2 ^ w + v % 2 ^ w) 0

theorem ofLanes_eq (w : Nat) (ls : List Nat) : ofLanes w ls = BitVec.ofNat 128 (packLanes w ls) := rfl

section
variable {w i : Nat}

theorem packLanes_cons (v : Nat) (ls : List Nat) : packLanes w (v :: ls) = 2 ^ w * packLanes w ls + v % 2 ^ w := by
  rw [Nat.mul_comm]
  rfl

theorem packLanes_lt (ls : List Nat) : packLanes w ls < 2 ^ (w * ls.length) := by
  induction ls with
  | nil => exact Nat.one_pos
  | cons v ls ih =>
    have hv := Nat.mod_lt v (Nat.two_pow_pos w)
    have hmul := Nat.mul_le_mul_left (2 ^ w) (Nat.succ_le_of_lt ih)
    rw [packLanes_cons, List.length_cons, Nat.mul_succ, Nat.add_comm _ w, Nat.pow_add]
    rw [Nat.mul_succ] at hmul
    omega

theorem packLanes_field {ls : List Nat} (hi : i < ls.length) : packLanes w ls / 2 ^ (w * i) % 2 ^ w = ls[i] % 2 ^ w := by
  induction ls generalizing i with
  | nil => exact absurd hi (Nat.not_lt_zero i)
  | cons v ls ih =>
    rw [packLanes_cons]
    cases i with
    | zero => rw [Nat.mul_zero, Nat.pow_zero, Nat.div_one, Nat.mul_add_mod, Nat.mod_mod, List.getElem_cons_zero]
    | succ i =>
      rw [Nat.mul_succ, Nat.add_comm (w * i), Nat.pow_add, ← Nat.div_div_eq_div_mul, Nat.mul_add_div (Nat.two_pow_pos w),
        Nat.div_eq_of_lt (Nat.mod_lt v (Nat.two_pow_pos w)), Nat.add_zero, List.getElem_cons_succ, ih]

theorem lane_ofLanes {ls : List Nat} (hlen : w * ls.length ≤ 128) (hi : i < ls.length) : lane (ofLanes w ls) w i = ls[i] % 2 ^ w := by
  have hlt := (packLanes_lt ls).trans_le (Nat.pow_le_pow_right (by decide : 0 < 2) hlen)
  rw [lane, ofLanes_eq, BitVec.toNat_ofNat, Nat.mod_eq_of_lt hlt, packLanes_field hi]

theorem length_lanes (x : VWord) (w : Nat) : (lanes x w).length = 128 / w := by
  rw [lanes, List.length_map, List.length_range, lanesOf]

theorem getElem_lanes {x : VWord} (hi : i < (lanes x w).length) : (lanes x w)[i] = lane x w i := by
  simp only [lanes, List.getElem_map, List.getElem_range]

/-- Fields of w bits, packed again, are the number's low bits. -/
theorem packLanes_fields (w n x : Nat) : packLanes w ((List.range n).map fun i => x / 2 ^ (w * i) % 2 ^ w) = x % 2 ^ (w * n) := by
  induction n generalizing x with
  | zero => rw [Nat.mul_zero, Nat.pow_zero, Nat.mod_one]; rfl
  | succ n ih =>
    have hshift : (fun i => x / 2 ^ (w * i) % 2 ^ w) ∘ Nat.succ = fun i => x / 2 ^ w / 2 ^ (w * i) % 2 ^ w := by
      funext i
      rw [Function.comp, Nat.mul_succ, Nat.add_comm, Nat.pow_add, Nat.div_div_eq_div_mul]
    rw [List.range_succ_eq_map, List.map_cons, List.map_map, packLanes_cons, hshift, ih, Nat.mul_zero, Nat.pow_zero, Nat.div_one,
      Nat.mod_mod, Nat.mul_succ, Nat.add_comm (w * n), Nat.pow_add, Nat.mod_mul, Nat.add_comm]

theorem ofLanes_lanes (hw : w ∣ 128) (x : VWord) : ofLanes w (lanes x w) = x := by
  have hfields : packLanes w (lanes x w) = x.toNat % 2 ^ (w * lanesOf w) := packLanes_fields w (lanesOf w) x.toNat
  rw [ofLanes_eq, hfields, lanesOf, Nat.mul_div_cancel' hw, Nat.mod_eq_of_lt x.isLt, BitVec.ofNat_toNat, BitVec.setWidth_eq]

end

section
variable {T : Fmt} {x y z : VWord} {i : Nat} (hi : i < 128 / T.bits)
include hi

theorem lane_lane1 (g : Nat → Nat) : lane (lane1 T g x) T.bits i = g (lane x T.bits i) % 2 ^ T.bits := by
  have hlen : ((lanes x T.bits).map g).length = 128 / T.bits := by rw [List.length_map, length_lanes]
  rw [lane1, lane_ofLanes (hlen ▸ Nat.mul_div_le 128 _) (hlen ▸ hi), List.getElem_map, getElem_lanes]

theorem lane_lane2 (f : Nat → Nat → Nat) :
    lane (lane2 T f x y) T.bits i = f (lane x T.bits i) (lane y T.bits i) % 2 ^ T.bits := by
  have hlen : (List.zipWith f (lanes x T.bits) (lanes y T.bits)).length = 128 / T.bits := by
    rw [List.length_zipWith, length_lanes, length_lanes, Nat.min_self]
  rw [lane2, lane_ofLanes (hlen ▸ Nat.mul_div_le 128 _) (hlen ▸ hi), List.getElem_zipWith, getElem_lanes, getElem_lanes]

theorem lane_lane3 (h : Nat → Nat → Nat → Nat) : lane (lane3 T h x y z) T.bits i =
    h (lane x T.bits i) (lane y T.bits i) (lane z T.bits i) % 2 ^ T.bits := by
  have hlen (f : Nat × Nat × Nat → Nat) :
      ((List.zip (lanes x T.bits) (List.zip (lanes y T.bits) (lanes z T.bits))).map f).length = 128 / T.bits := by
    simp only [List.length_map, List.length_zip, length_lanes, Nat.min_self]
  rw [lane3, lane_ofLanes (hlen _ ▸ Nat.mul_div_le 128 _) (hlen _ ▸ hi), List.getElem_map, List.getElem_zip, List.getElem_zip,
    getElem_lanes, getElem_lanes, getElem_lanes]

end

end Sys2Proof.Machine
end

section
/-! O17: group A of the vector instructions. -/

namespace Sys2Proof.Machine

/-! ### The operations on one lane (R254, R255) -/

section
variable {T : Fmt} {m : Nat} {ftz : Bool} (hT : T.isInt = true)
include hT

theorem laneAdd_of_isInt : laneAdd T m ftz = fun p q => wrapTo T.bits (laneInt T p + laneInt T q) := funext₂ fun _ _ => if_pos hT

theorem laneSub_of_isInt : laneSub T m ftz = fun p q => wrapTo T.bits (laneInt T p - laneInt T q) := funext₂ fun _ _ => if_pos hT

theorem laneMul_of_isInt : laneMul T m ftz = fun p q => wrapTo T.bits (laneInt T p * laneInt T q) := funext₂ fun _ _ => if_pos hT

theorem laneFma_of_isInt (neg minus : Bool) : laneFma T neg minus m ftz = fun o p q =>
    let v := laneInt T o + (if minus then -(laneInt T p * laneInt T q) else laneInt T p * laneInt T q)
    wrapTo T.bits (if neg then -v else v) :=
  funext₃ fun _ _ _ => if_pos hT

theorem laneDiv_of_isInt : laneDiv T m ftz = fun p q =>
    if q % 2 ^ T.bits = 0 then 2 ^ T.bits - 1 else wrapTo T.bits ((laneInt T p).tdiv (laneInt T q)) :=
  funext₂ fun _ _ => if_pos hT

theorem laneMin_of_isInt : laneMinMax T false ftz = fun p q => if laneInt T p < laneInt T q then p else q := by
  funext p q
  rw [laneMinMax, if_pos hT]
  exact if_congr (by simp) rfl rfl

theorem laneMax_of_isInt : laneMinMax T true ftz = fun p q => if laneInt T p < laneInt T q then q else p := by
  funext p q
  rw [laneMinMax, if_pos hT, ← ite_not]
  exact if_congr (by simp) rfl rfl

end

section
variable {T : Fmt} {m : Nat} {ftz : Bool} (hT : T.isVFloat = true)
include hT

theorem laneAdd_of_isVFloat : laneAdd T m ftz = fun p q => pack T m 0 ftz (sumFV [unpackFtz T ftz p, unpackFtz T ftz q] (m = 3)) :=
  funext₂ fun _ _ => if_neg (isInt_of_isVFloat hT)

theorem laneSub_of_isVFloat :
    laneSub T m ftz = fun p q => pack T m 0 ftz (sumFV [unpackFtz T ftz p, (unpackFtz T ftz q).neg] (m = 3)) :=
  funext₂ fun _ _ => if_neg (isInt_of_isVFloat hT)

theorem laneMul_of_isVFloat : laneMul T m ftz = fun p q => pack T m 0 ftz ((unpackFtz T ftz p).mul (unpackFtz T ftz q)) :=
  funext₂ fun _ _ => if_neg (isInt_of_isVFloat hT)

theorem laneFma_of_isVFloat (neg minus : Bool) : laneFma T neg minus m ftz = fun o p q =>
    let r := (unpackFtz T ftz p).mul (unpackFtz T ftz q)
    let v := sumFV [unpackFtz T ftz o, if minus then r.neg else r] (m = 3)
    pack T m 0 ftz (if neg then v.neg else v) :=
  funext₃ fun _ _ _ => if_neg (isInt_of_isVFloat hT)

theorem laneDiv_of_isVFloat : laneDiv T m ftz = fun p q => divBits T m ftz (unpackFtz T ftz p) (unpackFtz T ftz q) :=
  funext₂ fun _ _ => if_neg (isInt_of_isVFloat hT)

theorem laneMinMax_of_isVFloat (max : Bool) : laneMinMax T max ftz = fun p q =>
    let x := unpackFtz T ftz p
    let y := unpackFtz T ftz q
    if x.isNan || y.isNan then T.canonNan
    else flushBits T ftz (if (x.lt y || (x.eq y && x.isNeg && !y.isNeg)) != max then p else q) :=
  funext₂ fun _ _ => if_neg (isInt_of_isVFloat hT)

end

theorem lane1_congr {T : Fmt} {f g : Nat → Nat} {x : VWord} (h : f = g) : lane1 T f x = lane1 T g x := h ▸ rfl

theorem lane2_congr {T : Fmt} {f g : Nat → Nat → Nat} {x y : VWord} (h : f = g) : lane2 T f x y = lane2 T g x y := h ▸ rfl

theorem lane3_congr {T : Fmt} {f g : Nat → Nat → Nat → Nat} {x y z : VWord} (h : f = g) : lane3 T f x y z = lane3 T g x y z := h ▸ rfl

/-- Settles O17: each form's entry applies its lane operation to every lane, and each lane is its own result. -/
theorem vectorLaneResults : Obligations.VectorLaneResults := by
  unfold Obligations.VectorLaneResults
  refine ⟨fun s t u c d a b T x y hi hsrc => ?_, fun T hT x y z f g h i hlane =>
    ⟨lane_lane2 hlane f, lane_lane1 hlane g, lane_lane3 hlane h, ofLanes_lanes (bits_dvd_of_isVec hT) x⟩⟩
  refine ⟨fun hT hd => ?_, fun hT => ⟨fun hd m hm => ?_, fun hd => ?_⟩⟩
  · have hd' : decodeTrap (floatHints T) [vD d, vA a, vB b] false t c = none := by rwa [floatHints_of_isInt hT]
    exact ⟨VectorLands.of_entry hi hsrc hd' (exec_vadd ..) (if_pos hT) (lane2_congr (laneAdd_of_isInt hT)),
      VectorLands.of_entry hi hsrc hd' (exec_vsub ..) (if_pos hT) (lane2_congr (laneSub_of_isInt hT)),
      VectorLands.of_entry hi hsrc hd' (exec_vmul ..) (if_pos hT) (lane2_congr (laneMul_of_isInt hT)),
      VectorLands.of_entry hi hsrc hd (exec_vmulh ..) rfl rfl,
      VectorLands.of_entry hi hsrc hd' (exec_vfma ..) (if_pos hT) (lane3_congr (laneFma_of_isInt hT false false)),
      VectorLands.of_entry hi hsrc hd' (exec_vfms ..) (if_pos hT) (lane3_congr (laneFma_of_isInt hT false true)),
      VectorLands.of_entry hi hsrc hd' (exec_vfnma ..) (if_pos hT) (lane3_congr (laneFma_of_isInt hT true false)),
      VectorLands.of_entry hi hsrc hd' (exec_vdiv ..) (if_pos hT) (lane2_congr (laneDiv_of_isInt hT)),
      VectorLands.of_entry hi hsrc hd (exec_vmin ..) rfl (lane2_congr (laneMin_of_isInt hT)),
      VectorLands.of_entry hi hsrc hd (exec_vmax ..) rfl (lane2_congr (laneMax_of_isInt hT))⟩
  · rw [← floatHints_of_isVFloat hT] at hd
    have hF := isInt_of_isVFloat hT
    exact ⟨VectorLands.of_rounded hi hsrc hd hm (exec_vadd ..) (if_neg hF) (lane2_congr (laneAdd_of_isVFloat hT)),
      VectorLands.of_rounded hi hsrc hd hm (exec_vsub ..) (if_neg hF) (lane2_congr (laneSub_of_isVFloat hT)),
      VectorLands.of_rounded hi hsrc hd hm (exec_vmul ..) (if_neg hF) (lane2_congr (laneMul_of_isVFloat hT)),
      VectorLands.of_rounded hi hsrc hd hm (exec_vfma ..) (if_neg hF) (lane3_congr (laneFma_of_isVFloat hT false false)),
      VectorLands.of_rounded hi hsrc hd hm (exec_vfms ..) (if_neg hF) (lane3_congr (laneFma_of_isVFloat hT false true)),
      VectorLands.of_rounded hi hsrc hd hm (exec_vfnma ..) (if_neg hF) (lane3_congr (laneFma_of_isVFloat hT true false)),
      VectorLands.of_rounded hi hsrc hd hm (exec_vdiv ..) (if_neg hF) (lane2_congr (laneDiv_of_isVFloat hT))⟩
  · exact ⟨VectorLands.of_entry hi hsrc hd (exec_vmin ..) rfl (lane2_congr (laneMinMax_of_isVFloat hT false)),
      VectorLands.of_entry hi hsrc hd (exec_vmax ..) rfl (lane2_congr (laneMinMax_of_isVFloat hT true))⟩

end Sys2Proof.Machine
end

section
/-! O18: the vector forms with one source. -/

namespace Sys2Proof.Machine

section
variable {T U : Fmt} {ftz : Bool}

theorem laneAbs_of_isInt (hT : T.isInt = true) : laneAbs T ftz = fun p => wrapTo T.bits ((laneInt T p).natAbs : Int) :=
  funext fun _ => if_pos hT

theorem laneNeg_of_isInt (hT : T.isInt = true) : laneNeg T ftz = fun p => wrapTo T.bits (-laneInt T p) := funext fun _ => if_pos hT

theorem laneSat_of_isInt (hT : T.isInt = true) :
    laneSat T U ftz = fun p => wrapTo T.bits (max U.intMin (min U.intMax (laneInt T p))) :=
  funext fun _ => if_pos hT

theorem laneAbs_of_isVFloat (hT : T.isVFloat = true) :
    laneAbs T ftz = fun p => if (unpack T p).isNan then T.canonNan else flushBits T ftz p % signBit T :=
  funext fun _ => if_neg (isInt_of_isVFloat hT)

theorem laneNeg_of_isVFloat (hT : T.isVFloat = true) :
    laneNeg T ftz = fun p => if (unpack T p).isNan then T.canonNan else flushBits T ftz p ^^^ signBit T :=
  funext fun _ => if_neg (isInt_of_isVFloat hT)

theorem vectorReduce_congr {f g : Nat → Nat → Nat} {x : VWord} (h : f = g) : vectorReduce T f x = vectorReduce T g x := h ▸ rfl

end

/-- Settles O18: each form's entry applies its operation to every lane, or to the lanes in pairs. -/
theorem vectorOneSourceResults : Obligations.VectorOneSourceResults := by
  unfold Obligations.VectorOneSourceResults
  intro s t v c d a T U x hi hsrc
  refine ⟨fun hd => ⟨VectorLands.of_entry hi hsrc hd (exec_vmov ..) rfl rfl, VectorLands.of_entry hi hsrc hd (exec_vclz ..) rfl rfl,
    VectorLands.of_entry hi hsrc hd (exec_vpopc ..) rfl rfl, fun hT => ?_, fun hT => ?_⟩, fun hT hd m hm => ?_⟩
  · have hd' : decodeTrap (floatHints T) [vD d, vA a] false t c = none := by rwa [floatHints_of_isInt hT]
    exact ⟨VectorLands.of_entry hi hsrc hd (exec_vabs ..) rfl (lane1_congr (laneAbs_of_isInt hT)),
      VectorLands.of_entry hi hsrc hd (exec_vneg ..) rfl (lane1_congr (laneNeg_of_isInt hT)),
      VectorLands.of_entry hi hsrc hd (exec_vsat ..) rfl (lane1_congr (laneSat_of_isInt hT)),
      VectorLands.of_entry hi hsrc hd' (exec_vredadd ..) (if_pos hT) (vectorReduce_congr (laneAdd_of_isInt hT)),
      VectorLands.of_entry hi hsrc hd (exec_vredmin ..) rfl (vectorReduce_congr (laneMin_of_isInt hT)),
      VectorLands.of_entry hi hsrc hd (exec_vredmax ..) rfl (vectorReduce_congr (laneMax_of_isInt hT))⟩
  · exact ⟨VectorLands.of_entry hi hsrc hd (exec_vabs ..) rfl (lane1_congr (laneAbs_of_isVFloat hT)),
      VectorLands.of_entry hi hsrc hd (exec_vneg ..) rfl (lane1_congr (laneNeg_of_isVFloat hT)),
      VectorLands.of_entry hi hsrc hd (exec_vsat ..) rfl rfl,
      VectorLands.of_entry hi hsrc hd (exec_vredmin ..) rfl rfl, VectorLands.of_entry hi hsrc hd (exec_vredmax ..) rfl rfl⟩
  · rw [← floatHints_of_isVFloat hT] at hd
    exact VectorLands.of_rounded hi hsrc hd hm (exec_vredadd ..) (if_neg (isInt_of_isVFloat hT))
      (vectorReduce_congr (laneAdd_of_isVFloat hT))

end Sys2Proof.Machine
end

section
/-! O19: group B of the vector instructions. -/

namespace Sys2Proof.Machine

/-! ### Sums of products of narrow lanes (R256) -/

section
variable {T : Fmt} (d x y : VWord)

/-- The product of the lanes of w bits with number i. -/
def laneProduct (T : Fmt) (x y : VWord) (w i : Nat) : Int := laneInt T (lane x w i) * laneInt T (lane y w i)

theorem dotInt_eq {w n : Nat} (hT : T.bits = w) {sum : Nat → Int}
    (hsum : ∀ i, (List.range n).foldl (fun v j => v + laneProduct T x y w (n * i + j)) 0 = sum i) :
    dotInt T n d x y = ofLanes 32 ((List.range 4).map fun i => wrapTo 32 ((lane d 32 i : Int) + sum i)) := by
  subst hT
  simp only [← hsum]
  rfl

theorem dotInt_four (hT : T.bits = 8) : dotInt T 4 d x y = ofLanes 32 ((List.range 4).map fun i => wrapTo 32 ((lane d 32 i : Int) +
    (laneProduct T x y 8 (4 * i) + laneProduct T x y 8 (4 * i + 1) + laneProduct T x y 8 (4 * i + 2) +
      laneProduct T x y 8 (4 * i + 3)))) :=
  dotInt_eq d x y hT fun i => by simp [List.range_succ]

theorem dotInt_two (hT : T.bits = 16) : dotInt T 2 d x y = ofLanes 32 ((List.range 4).map fun i => wrapTo 32 ((lane d 32 i : Int) +
    (laneProduct T x y 16 (2 * i) + laneProduct T x y 16 (2 * i + 1)))) :=
  dotInt_eq d x y hT fun i => by simp [List.range_succ]

end

/-- Settles O19: each form's entry applies its operation to the vectors, or to the lanes that it names. -/
theorem vectorMixedResults : Obligations.VectorMixedResults := by
  unfold Obligations.VectorMixedResults
  intro s t u c d a b p T x y hi hsrc
  refine ⟨fun hd => ⟨VectorLands.of_entry hi hsrc hd (exec_vand ..) rfl rfl, VectorLands.of_entry hi hsrc hd (exec_vor ..) rfl rfl,
    VectorLands.of_entry hi hsrc hd (exec_vxor ..) rfl rfl, VectorLands.of_entry hi hsrc hd (exec_vandn ..) rfl rfl,
    VectorLands.of_entry hi hsrc hd (exec_vshl ..) rfl rfl, VectorLands.of_entry hi hsrc hd (exec_vshr ..) rfl rfl,
    VectorLands.of_entry hi hsrc hd (exec_vsar ..) rfl rfl, VectorLands.of_entry hi hsrc hd (exec_vsel ..) rfl ?_,
    VectorLands.of_entry hi hsrc hd (exec_vshuf ..) rfl rfl, VectorLands.of_entry hi hsrc hd (exec_vperm ..) rfl rfl,
    VectorLands.of_entry hi hsrc hd (exec_vrng ..) rfl rfl,
    fun hn => VectorLands.of_entry hi hsrc hd (exec_vdot4 ..) rfl (dotInt_four (c.v d) x y hn), fun hT hn => ?_⟩, fun hT hd m hm => ?_⟩
  · simp only [bitOf_eq_getLsbD]
    rfl
  · rw [← floatHints_of_isInt hT] at hd
    exact VectorLands.of_entry hi hsrc hd (exec_vdot2 ..) (if_pos hT) (dotInt_two (c.v d) x y hn)
  · rw [← floatHints_of_isVFloat hT] at hd
    exact VectorLands.of_rounded hi hsrc hd hm (exec_vdot2 ..) (if_neg (isInt_of_isVFloat hT)) rfl

end Sys2Proof.Machine
end

section
/-! O20: conversions, moves between register files and VCMP. -/

namespace Sys2Proof.Machine

/-! ### Hints that attach (R104, R106) -/

section
variable {s t u : State} {c : Ctx} {us : List Use} {k : Nat} {w : IWord} {r : Option Bool}

/-- Only a hint for rounding looks at what attaches for rounding. -/
theorem hintBad_of_rnd (h : hintBad {} us k w = false) : hintBad { rnd := r } us k w = false := by
  unfold hintBad at h ⊢
  generalize hintKind w = kind at h ⊢
  match kind, h with
  | 7, h => cases h
  | 0, h | 1, h | 2, h | 3, h | 4, h | 5, h | 6, h => exact h
  | _ + 8, h => cases h

theorem firstBadHint_of_rnd {ws : List IWord} (h : firstBadHint {} us k ws = none) : firstBadHint { rnd := r } us k ws = none := by
  induction ws generalizing k with
  | nil => rfl
  | cons w ws ih =>
    rw [firstBadHint] at h ⊢
    split at h
    case isTrue => cases h
    case isFalse hw =>
      rw [hintBad_of_rnd (Bool.eq_false_iff.mpr hw), if_neg Bool.false_ne_true, ih h]

/-- A group without hints that fail, where none for rounding attaches, has none that fails where one does. -/
theorem decodeTrap_of_rnd (h : decodeTrap {} us false t c = none) : decodeTrap { rnd := r } us false t c = none := by
  have hhint : badHint {} us (t.strand c.sid).group = none := by
    cases hbad : badHint {} us (t.strand c.sid).group with
    | none => rfl
    | some w => rw [decodeTrap_badHint hbad] at h; cases h
  have hrnd : badHint { rnd := r } us (t.strand c.sid).group = none := by
    unfold badHint at hhint ⊢
    split at hhint
    · cases hhint
    · exact firstBadHint_of_rnd hhint
  rw [decodeTrap, hhint] at h
  rw [decodeTrap, hrnd]
  exact h

end

/-! ### VCVT (R239, R258) -/

section
variable {s t u : State} {c : Ctx} {d a : RField} {X Y : Fmt} {x : VWord} {m : Nat}

theorem vcvt_lands (hi : Issuing s t c) (hsrc : Sources t c [a] (linkPort d) u [x])
    (hd : decodeTrap { rnd := some (acceptsSr X Y) } [vD d, vA a] false t c = none)
    (hm : (if convRounds X Y then c.mode (acceptsSr X Y) else some 0) = some m) :
    VectorLands s (if m = 4 then u.draw c (Nat.min (128 / Y.bits) (128 / X.bits)) else u) c (.vcvt d a X Y) 3 d
      (convertLanes X Y m c.ftz c.regs.csr.fpmode c.regs.csr.srctr x) := by
  refine Passes.of_issue hi hd (exec_vcvt ..) ((withSources_eq hsrc _).trans ?_)
  rw [hm]
  rfl

end

/-! ### VEXT (R259) -/

theorem sext_lane (T : Fmt) (x : VWord) (n : Nat) :
    sext (BitVec.ofNat 64 (lane x T.bits n)) T.bits = BitVec.ofInt 64 (signedField T.bits (lane x T.bits n)) := by
  have hlt : lane x T.bits n < 2 ^ T.bits := Nat.mod_lt _ (Nat.two_pow_pos _)
  have hbits : T.bits ≤ 64 := by cases T <;> decide
  rw [sext, BitVec.toNat_ofNat, Nat.mod_eq_of_lt (hlt.trans_le (Nat.pow_le_pow_right (by decide) hbits)), Nat.mod_eq_of_lt hlt]

/-! ### VCMP (R260) -/

/-- The number of n bits whose bits are given. -/
def bitSum (b : Nat → Bool) (n : Nat) : Nat := ((List.range n).map fun j => (b j).toNat * 2 ^ j).sum

section
variable (b : Nat → Bool) (n : Nat)

theorem bitSum_succ : bitSum b (n + 1) = 2 ^ n * (b n).toNat + bitSum b n := by
  rw [bitSum, List.range_succ, List.map_append, List.sum_append, List.map_singleton, List.sum_singleton, Nat.add_comm, Nat.mul_comm]
  rfl

theorem bitSum_lt : bitSum b n < 2 ^ n := by
  induction n with
  | zero => exact Nat.one_pos
  | succ n ih =>
    have hbit := Nat.mul_le_mul_left (2 ^ n) (Bool.toNat_le (b n))
    rw [bitSum_succ, Nat.pow_succ]
    omega

theorem testBit_bitSum {j : Nat} (hj : j < n) : (bitSum b n).testBit j = b j := by
  induction n with
  | zero => exact absurd hj (Nat.not_lt_zero j)
  | succ n ih =>
    rw [bitSum_succ, Nat.testBit_two_pow_mul_add _ (bitSum_lt b n)]
    split
    case isTrue h => exact ih h
    case isFalse h =>
      obtain rfl := Nat.eq_of_lt_succ_of_not_lt hj h
      rw [Nat.sub_self]
      cases b j <;> rfl

end

/-- Settles O20: the conversion with the mode that it needs, the moves of lanes, and the bits of VCMP's predicate. -/
theorem vectorMoveResults : Obligations.VectorMoveResults := by
  unfold Obligations.VectorMoveResults
  intro s t u c d a b pd k n T X Y x y hi
  refine ⟨fun hsrc => ⟨fun hX hY hd => ?_, fun hXY hd m hm => ?_⟩, fun hsrc hd => ?_, fun hsrc hd => ?_,
    fun hd => .of_issue hi hd (exec_vins ..) rfl, fun hsrc hd => ?_⟩
  · have hexact : convRounds X Y = false := by rw [convRounds, hX, hY, Bool.or_self]
    have hlands := vcvt_lands hi hsrc (decodeTrap_of_rnd hd) (if_neg (Bool.not_eq_true _ ▸ hexact))
    rw [if_neg (by decide)] at hlands
    exact hlands
  · have hrounds : convRounds X Y = true := by rwa [convRounds, Bool.or_eq_true]
    exact vcvt_lands hi hsrc hd ((if_pos hrounds).trans hm)
  · exact VectorLands.of_entry hi hsrc hd (exec_vsplat ..) rfl rfl
  · refine .of_issue hi hd (exec_vext ..) ((withSources_eq hsrc _).trans ?_)
    simp only [x0, List.getD_cons_zero, sext_lane]
  · refine ⟨_, .of_issue hi hd (exec_vcmp ..) (withSources_eq hsrc _), fun j hj => ?_⟩
    rw [BitVec.getLsbD_ofNat, decide_eq_true hj, Bool.true_and]
    exact testBit_bitSum _ 16 hj

end Sys2Proof.Machine
end

section
/-! O22: the request of a special-function instruction to its cluster's unit. -/

namespace Sys2Proof.Machine

section
variable {s t : State} {c : Ctx} {d a : RField} {T : Fmt} {m : Nat}

/-- What every special-function instruction does, with the number of its function. -/
theorem Parks.of_sfu {i : Instr} {f : Nat} (hi : Issuing s t c) (hd : decodeTrap { rnd := some false } [gD d, gA a] false t c = none)
    (hm : c.mode false = some m) (hx : exec i s = sfu f d a T s) :
    Parks s ((t.addFlight c (c.flight (c.vc + 40) (some (.sfu f T (c.g (gA a)) (c.h.x (gD d)) m c.ftz, .sent 0)) none)).sfuRequest
      c.sid c.seq) c i .sfu (.home c.seq) := by
  refine .of_issue hi hd hx ?_
  simp only [hm]

end

/-- Settles O22: the ten instructions are one instruction, given the number of its function. -/
theorem specialFunctionsComplete : Obligations.SpecialFunctionsComplete := by
  unfold Obligations.SpecialFunctionsComplete
  intro s t c d a T m hi hd hm kinds
  have hkinds : ∀ k ∈ kinds, exec k.1 s = sfu k.2 d a T s := by
    simp only [kinds, List.forall_mem_cons]
    exact ⟨exec_sfexp2 .., exec_sflog2 .., exec_sfrcp .., exec_sfrsq .., exec_sfsqrt .., exec_sfsin .., exec_sfcos .., exec_sftanh ..,
      exec_sfsigm .., exec_sferf .., List.forall_mem_nil _⟩
  exact fun i f hmem => .of_sfu hi hd hm (hkinds (i, f) hmem)

end Sys2Proof.Machine
end

section
/-! O23: the special cases of the special functions. -/

namespace Sys2Proof.Machine

/-! ### Patterns and their sign (R227, R228, R235) -/

section
variable {T : Fmt} {x : Nat} {ftz : Bool}

theorem signBit_pos : 0 < signBit T := Nat.two_pow_pos _

theorem two_pow_frac_dvd_signBit : 2 ^ T.frac ∣ signBit T := Nat.pow_dvd_pow 2 (Nat.le_add_right _ _)

theorem fracOf_signBit_add : fracOf T (signBit T + x) = fracOf T x := by
  rw [fracOf, Nat.add_mod, Nat.mod_eq_zero_of_dvd two_pow_frac_dvd_signBit, Nat.zero_add, Nat.mod_mod, fracOf]

theorem expoOf_signBit_add : expoOf T (signBit T + x) = expoOf T x := by
  rw [expoOf, signBit, Nat.pow_add, Nat.mul_add_div (Nat.two_pow_pos _), Nat.add_mod_left, expoOf]

theorem negOf_of_lt (hx : x < signBit T) : negOf T x = false := by
  rw [negOf, ← signBit, Nat.div_eq_of_lt hx]
  rfl

theorem negOf_signBit_add (hx : x < signBit T) : negOf T (signBit T + x) = true := by
  rw [negOf, ← signBit, Nat.add_div_left _ signBit_pos, Nat.div_eq_of_lt hx]
  rfl

/-- The sign bit negates a pattern's value. -/
theorem unpack_signBit_add (hx : x < signBit T) : unpack T (signBit T + x) = (unpack T x).neg := by
  rw [unpack_eq, unpack_eq, fracOf_signBit_add, expoOf_signBit_add, negOf_signBit_add hx, negOf_of_lt hx]
  split_ifs <;> rfl

theorem isSubnormal_iff : isSubnormal T x = true ↔ expoOf T x = 0 ∧ fracOf T x ≠ 0 := by
  rw [isSubnormal, Bool.and_eq_true, decide_eq_true_eq, decide_eq_true_eq, expoOf, fracOf]

theorem isSubnormal_signBit_add : isSubnormal T (signBit T + x) = isSubnormal T x := by
  rw [Bool.eq_iff_iff, isSubnormal_iff, isSubnormal_iff, expoOf_signBit_add, fracOf_signBit_add]

theorem isSubnormal_of_dvd (hx : 2 ^ T.frac ∣ x) : isSubnormal T x = false :=
  Bool.eq_false_iff.mpr fun h => (isSubnormal_iff.mp h).2 (Nat.mod_eq_zero_of_dvd hx)

theorem isSubnormal_of_isNan (hx : (unpack T x).isNan = true) : isSubnormal T x = false :=
  Bool.eq_false_iff.mpr fun h => by
    rw [unpack_eq, if_pos (isSubnormal_iff.mp h).1] at hx
    cases hx

theorem FV.eq_nan_of_isNan {v : FV} (h : v.isNan = true) : v = .nan := by
  cases v with
  | nan => rfl
  | inf => cases h
  | fin => cases h

theorem unpackFtz_eq_unpack (hx : ftz = true → isSubnormal T x = false) : unpackFtz T ftz x = unpack T x := by
  rw [unpackFtz, flushBits, if_neg]
  rw [Bool.and_eq_true]
  exact fun ⟨hftz, hsub⟩ => Bool.false_ne_true ((hx hftz).symm.trans hsub)

theorem unpackFtz_of_dvd (hx : 2 ^ T.frac ∣ x) : unpackFtz T ftz x = unpack T x := unpackFtz_eq_unpack fun _ => isSubnormal_of_dvd hx

theorem unpackFtz_of_isNan (hx : (unpack T x).isNan = true) : unpackFtz T ftz x = .nan :=
  (unpackFtz_eq_unpack fun _ => isSubnormal_of_isNan hx).trans (FV.eq_nan_of_isNan hx)

/-- Under FTZ a subnormal counts as the zero of its sign. -/
theorem unpackFtz_of_isSubnormal (hx : isSubnormal T x = true) :
    unpackFtz T true x = unpackFtz T true (x / signBit T * signBit T) := by
  rw [unpackFtz_of_dvd (two_pow_frac_dvd_signBit.mul_left _), unpackFtz, flushBits, hx]
  rfl

end

/-! ### The values of the special patterns (R227, R228) -/

section
variable {T : Fmt} {x : Nat} (ftz : Bool)

theorem unpackFtz_zero : unpackFtz T ftz 0 = .fin false 0 (1 - (T.bias : Int) - T.frac) := by
  rw [unpackFtz_of_dvd (Nat.dvd_zero _), unpack_eq, negOf_of_lt signBit_pos, fracOf, expoOf, Nat.zero_div, Nat.zero_mod,
    Nat.zero_mod, if_pos rfl]

theorem unpackFtz_signBit : unpackFtz T ftz (signBit T) = .fin true 0 (1 - (T.bias : Int) - T.frac) := by
  rw [unpackFtz_of_dvd two_pow_frac_dvd_signBit, ← Nat.add_zero (signBit T), unpack_signBit_add signBit_pos,
    ← unpackFtz_of_dvd (ftz := ftz) (Nat.dvd_zero _), unpackFtz_zero]
  rfl

variable (hT : T.isVFloat = true)
include hT

theorem infBits_eq : T.infBits = (2 ^ T.expo - 1) * 2 ^ T.frac := by
  revert hT
  cases T <;> decide

theorem infBits_lt_signBit : T.infBits < signBit T := by
  rw [infBits_eq hT, signBit, Nat.pow_add, Nat.mul_comm]
  exact Nat.mul_lt_mul_of_pos_left (Nat.sub_one_lt (Nat.two_pow_pos _).ne') (Nat.two_pow_pos _)

theorem two_pow_frac_dvd_infBits : 2 ^ T.frac ∣ T.infBits := infBits_eq hT ▸ Nat.dvd_mul_left _ _

theorem unpack_infBits : unpack T T.infBits = .inf false := by
  revert hT
  cases T <;> decide

theorem unpackFtz_infBits : unpackFtz T ftz T.infBits = .inf false := by
  rw [unpackFtz_of_dvd (two_pow_frac_dvd_infBits hT), unpack_infBits hT]

theorem unpackFtz_signBit_add_infBits : unpackFtz T ftz (signBit T + T.infBits) = .inf true := by
  rw [unpackFtz_of_dvd (Nat.dvd_add two_pow_frac_dvd_signBit (two_pow_frac_dvd_infBits hT)), unpack_signBit_add (infBits_lt_signBit hT),
    unpack_infBits hT]
  rfl

theorem unpack_one : unpack T (T.bias * 2 ^ T.frac) = .fin false (2 ^ T.frac) (-(T.frac : Int)) := by
  revert hT
  cases T <;> decide

theorem unpackFtz_one : unpackFtz T ftz (T.bias * 2 ^ T.frac) = .fin false (2 ^ T.frac) (-(T.frac : Int)) := by
  rw [unpackFtz_of_dvd (Nat.dvd_mul_left _ _), unpack_one hT]

/-- The patterns above 0, up to infinity, are the numbers above 0 and infinity. -/
theorem unpack_of_pos_of_le (hpos : 0 < x) (hle : x ≤ T.infBits) :
    unpack T x = .inf false ∨ ∃ m e, m ≠ 0 ∧ unpack T x = .fin false m e := by
  have hlt : x < signBit T := hle.trans_lt (infBits_lt_signBit hT)
  have hx : expoOf T x * 2 ^ T.frac + fracOf T x = x := magnitude_eq_mod.trans (Nat.mod_eq_of_lt hlt)
  have he4 : T ≠ .e4 := by
    rintro rfl
    cases hT
  rw [unpack_eq, negOf_of_lt hlt]
  split_ifs with hexp htop hfrac hnan
  · refine .inr ⟨_, _, fun hfrac => ?_, rfl⟩
    rw [hexp, hfrac, Nat.zero_mul] at hx
    exact hpos.ne hx
  · exact .inl rfl
  · rw [Bool.and_eq_true, decide_eq_true_eq] at htop
    rw [htop.1, ← infBits_eq hT] at hx
    omega
  · simp [he4] at hnan
  · exact .inr ⟨_, _, (Nat.add_pos_left (Nat.two_pow_pos _) _).ne', rfl⟩

/-- Those of the opposite sign are the numbers below 0 and minus infinity. -/
theorem unpackFtz_of_neg (hpos : 0 < x) (hle : x ≤ T.infBits) (hftz : ftz = true → isSubnormal T x = false) :
    unpackFtz T ftz (signBit T + x) = .inf true ∨ ∃ m e, m ≠ 0 ∧ unpackFtz T ftz (signBit T + x) = .fin true m e := by
  rw [unpackFtz_eq_unpack fun h => isSubnormal_signBit_add.trans (hftz h), unpack_signBit_add (hle.trans_lt (infBits_lt_signBit hT))]
  rcases unpack_of_pos_of_le hT hpos hle with h | ⟨m, e, hm, h⟩
  · exact .inl (h ▸ rfl)
  · exact .inr ⟨m, e, hm, h ▸ rfl⟩

end

/-! ### The functions at the special values (R267) -/

/-- A magnitude with a sign. -/
def signed (T : Fmt) (neg : Bool) (b : Nat) : Nat := (if neg then signBit T else 0) + b

@[simp] theorem signed_false (T : Fmt) (b : Nat) : signed T false b = b := Nat.zero_add b
@[simp] theorem signed_true (T : Fmt) (b : Nat) : signed T true b = signBit T + b := rfl

/-- The functions at a zero. -/
def sfuAtZero (T : Fmt) (neg : Bool) : Nat → Nat
  | 0 | 6 => T.bias * 2 ^ T.frac
  | 1 => signBit T + T.infBits
  | 2 | 3 => signed T neg T.infBits
  | 8 => T.bias * 2 ^ T.frac - 2 ^ T.frac
  | _ => signed T neg 0

/-- The functions at an infinity. -/
def sfuAtInf (T : Fmt) (neg : Bool) : Nat → Nat
  | 0 => if neg then 0 else T.infBits
  | 1 | 4 => if neg then T.canonNan else T.infBits
  | 2 => signed T neg 0
  | 3 => if neg then T.canonNan else 0
  | 5 | 6 => T.canonNan
  | 8 => if neg then 0 else T.bias * 2 ^ T.frac
  | _ => signed T neg (T.bias * 2 ^ T.frac)

section
variable {T : Fmt} {x y m : Nat} {e : Int} {neg ftz : Bool} (f mode : Nat)

/-- A function sees its operand's value alone. -/
theorem sfuValue_congr (h : unpackFtz T ftz x = unpackFtz T ftz y) : sfuValue f T mode ftz x = sfuValue f T mode ftz y := by
  simp only [sfuValue, h]

theorem sfuValue_nan (h : unpackFtz T ftz x = .nan) : sfuValue f T mode ftz x = T.canonNan := by
  simp [sfuValue, h]

theorem sfuValue_zero (hf : f ≤ 9) (h : unpackFtz T ftz x = .fin neg 0 e) : sfuValue f T mode ftz x = sfuAtZero T neg f := by
  interval_cases f <;> simp [sfuValue, h, sfuAtZero, signed]

theorem sfuValue_inf (hf : f ≤ 9) (h : unpackFtz T ftz x = .inf neg) : sfuValue f T mode ftz x = sfuAtInf T neg f := by
  interval_cases f <;> simp [sfuValue, h, sfuAtInf, signed]

/-- SFLOG2, SFRSQ and SFSQRT have no value below 0. -/
theorem sfuValue_below_zero (h : unpackFtz T ftz x = .inf true ∨ ∃ m e, m ≠ 0 ∧ unpackFtz T ftz x = .fin true m e) :
    sfuValue 1 T mode ftz x = T.canonNan ∧ sfuValue 3 T mode ftz x = T.canonNan ∧ sfuValue 4 T mode ftz x = T.canonNan := by
  rcases h with h | ⟨m, e, hm, h⟩
  · simp [sfuValue_inf _ _ _ h, sfuAtInf]
  · simp [sfuValue, h, hm]

theorem roundRatio_zero (draw den : Nat) : roundRatio T mode draw neg 0 den = signed T neg 0 := rfl

/-- The logarithm of 2^k x 2^-k. -/
theorem sfuValue_log2_one {k : Nat} (h : unpackFtz T ftz x = .fin false (2 ^ k) (-(k : Int))) : sfuValue 1 T mode ftz x = 0 := by
  have hmag : magOf (2 ^ k) (-(k : Int)) = 0 := by
    rw [magOf, Nat.log2_two_pow]
    exact Int.add_right_neg _
  simp [sfuValue, h, hmag, roundRatio_zero, flushBits]

end

/-- Settles O23: a function sees its operand's value alone, and has one value at each zero and each infinity. -/
theorem specialFunctionCases : Obligations.SpecialFunctionCases := by
  unfold Obligations.SpecialFunctionCases
  intro T hT m ftz _ S neg one inf
  have hpos {f : Nat} (hf : f ≤ 9) : S f 0 = sfuAtZero T false f := sfuValue_zero f m hf (unpackFtz_zero ftz)
  have hneg {f : Nat} (hf : f ≤ 9) : S f neg = sfuAtZero T true f := sfuValue_zero f m hf (unpackFtz_signBit ftz)
  have hinf {f : Nat} (hf : f ≤ 9) : S f inf = sfuAtInf T false f := sfuValue_inf f m hf (unpackFtz_infBits ftz hT)
  have hninf {f : Nat} (hf : f ≤ 9) : S f (neg + inf) = sfuAtInf T true f := sfuValue_inf f m hf (unpackFtz_signBit_add_infBits ftz hT)
  have hone : S 1 one = 0 := sfuValue_log2_one m (unpackFtz_one ftz hT)
  refine ⟨fun f x _ _ hnan => sfuValue_nan f m (unpackFtz_of_isNan hnan),
    fun x hx hle hftz => sfuValue_below_zero m (unpackFtz_of_neg ftz hT hx hle hftz), fun f x _ _ hftz hsub => ?_, ?_⟩
  · subst hftz
    exact sfuValue_congr f m (unpackFtz_of_isSubnormal hsub)
  · simp [hpos, hneg, hinf, hninf, hone, sfuAtZero, sfuAtInf, neg, one, inf]

end Sys2Proof.Machine
end

section
/-! O24: MPREC, MRDP, MRDACC and MWRACC. -/

namespace Sys2Proof.Machine

variable {s t u : State} {c : Ctx}

/-! ### Instructions that stay at their word (R127) -/

theorem issue_again {att : Attach} {us : List Use} {super : Bool} {entry : State → Ctx → Act} {reason : ParkReason} {on : ParkOn}
    (h : Issuing s t c) (hd : decodeTrap att us super t c = none) (he : entry t c = .again reason on) :
    issue s att us super entry = .next ((t.stay c reason on).ended c) := by
  rw [issue_eq h hd, he]
  rfl

theorem State.stay_parks {reason : ParkReason} {on : ParkOn} (h : (t.strand c.sid).park = none) : t.stay c reason on =
    (t.modStrand c.sid fun st => { st with slot := c.vc + t.rotation c.sid }).park c reason on := by
  simp [State.stay, h]

/-! ### The checks (R269, R271, R289) -/

theorem ownerBad_eq_none {k : Core} {strand bank : Nat} (hown : precOwn (k.prec bank) = true) (hostr : precOstr (k.prec bank) = strand) :
    ownerBad k strand bank = none := by
  simp [ownerBad, hown, hostr]

theorem elementBad_eq_none {k : Core} {strand bank : Nat} {index : Word} (hown : precOwn (k.prec bank) = true)
    (hostr : precOstr (k.prec bank) = strand) (hindex : index.toNat < 1024) : elementBad k strand bank false index = none := by
  simp [elementBad, ownerBad_eq_none hown hostr, Nat.not_le.mpr hindex]

theorem sideOk_ne_fifteen {fmt w : Nat} {sgn : Bool} (h : sideOk fmt w sgn = true) : fmt ≠ 15 := by
  rintro rfl
  cases h

/-- The formats of a valid image are such as MPREC's short form takes. -/
theorem shortFormats_of_precValid {p : Word} (h : precValid p = true) :
    (pcAfmt p = 15 || pcBfmt p = 15 || !accCodeOk (pcAcc p)) = false := by
  simp only [precValid, Bool.and_eq_true] at h
  obtain ⟨⟨⟨⟨-, hacc⟩, -⟩, ha⟩, hb⟩ := h
  simp [hacc, sideOk_ne_fifteen ha, sideOk_ne_fifteen hb]

/-! ### MPREC (R245, R271, R290) -/

/-- An element of a bank, converted from the accumulator format of the precision register `old` to that of `image`. -/
def Core.convertAcc (bank : Nat) (image old : Word) (k : Core) (e : Nat) : Core :=
  k.setAcc bank e (BitVec.ofNat 64 (convert (accFmt (pcAcc image)) (accFmt (pcAcc old)) 0 0 false (k.accAt bank e).toNat))

/-- A bank under a new precision register, whose elements are converted where the accumulator format changes. -/
def Core.convertBank (k : Core) (bank : Nat) (image : Word) : Core :=
  if pcAcc image = pcAcc (k.prec bank) then k else (List.range 1024).foldl (Core.convertAcc bank image (k.prec bank)) k

/-- The state in which a strand has a bank under a new precision register. -/
def State.takeBank (s : State) (x : SId) (bank : Nat) (image : Word) : State :=
  let k := ((s.core x.core).convertBank bank image).setPrec bank (precOwned image x.strand)
  s.setCore x.core { k with releasing := k.releasing.filter fun b => b ≠ bank }

theorem State.performMprec_done {x : SId} {bank : Nat} {short : Bool} {image : Word}
    (hfree : precOwn ((s.core x.core).prec bank) = true → precOstr ((s.core x.core).prec bank) = x.strand)
    (hvalid : precValid image = true)
    (hconv : pcAcc image = pcAcc ((s.core x.core).prec bank) ∨ (s.core x.core).bankBusy bank = false) :
    s.performMprec x bank short image = .done (s.takeBank x bank image) := by
  have howner : (precOwn ((s.core x.core).prec bank) && decide (precOstr ((s.core x.core).prec bank) ≠ x.strand)) = false := by
    simpa using hfree
  have hidle : (decide (pcAcc image ≠ pcAcc ((s.core x.core).prec bank)) && (s.core x.core).bankBusy bank) = false := by
    rcases hconv with h | h <;> simp [h]
  simp only [performMprec, howner, shortFormats_of_precValid hvalid, Bool.and_false, hidle, hvalid, Bool.not_true,
    Bool.false_eq_true, if_false]
  rfl

theorem mprec_takesBank {i : Instr} {us : List Use} {short : Bool} {image : Ctx → Word} {k : BitVec 1} {w : Word} (hi : Issuing s t c)
    (hclear : t.clear c.sid = true)
    (hfree : precOwn ((t.core c.sid.core).prec k.toNat) = true → precOstr ((t.core c.sid.core).prec k.toNat) = c.sid.strand)
    (hvalid : precValid w = true)
    (hconv : pcAcc w = pcAcc ((t.core c.sid.core).prec k.toNat) ∨ (t.core c.sid.core).bankBusy k.toNat = false)
    (hd : decodeTrap {} us false t c = none)
    (hx : exec i s = issue s {} us false fun s c => emit s c (.mprec k.toNat short (image c)) c.next) (hw : image c = w) :
    Passes s (t.takeBank c.sid k.toNat w) c i := by
  subst hw
  exact .of_issue hi hd hx (emit_done hclear rfl (State.performMprec_done hfree hvalid hconv))

/-! ### MRDACC and MWRACC (R294, R295) -/

/-- A strand with no deferred effect sees its banks as they are. -/
theorem State.ahead_of_nil {x : SId} (h : (t.strand x).deferred = []) : t.ahead x = t := by
  rw [ahead, h]
  rfl

/-- A bank with no commands left, or whose commands the strand has waited for, is read or written at once. -/
theorem busy_and_not_resumed {busy resumed : Bool} (h : busy = false ∨ resumed = true) : (busy && !resumed) = false := by
  rcases h with h | h <;> simp [h]

/-- The state in which MRDACC lands x, and is to release the bank where `rel`. -/
def State.landAcc (t : State) (c : Ctx) (d : RField) (rel : Bool) (bank x : Nat) : State :=
  let v := (t.addFlight c (c.flight (c.vc + 12) none none)).results c 12 [.g (c.h.x (gD d)) (BitVec.ofNat 64 x)]
  if rel then v.addDeferred c (.release bank (c.vc + 12)) none else v

/-- MRDACC's read of an element with the bits `raw`: as they are, or converted to the type T (R294). -/
def readAcc (t : State) (c : Ctx) (d : RField) (rel : Bool) (bank : Nat) (T acc : Fmt) (raw : Nat) : Act :=
  if T = .b64 then .go (t.landAcc c d rel bank raw) c.next
  else match (if convRounds T acc then c.mode (mrdaccSr T acc) else some 0) with
    | none => trapLater t c 12 c.badMode
    | some m => .go ((if m = 4 then t.draw c 1 else t).landAcc c d rel bank
        (convert T acc m (drawOf c.regs.csr.fpmode c.regs.csr.srctr 0) c.ftz (raw % 2 ^ acc.bits))) c.next

section
variable {d : RField} {rel : Bool} {bank raw : Nat} {T acc : Fmt}

theorem readAcc_b64 : readAcc t c d rel bank .b64 acc raw = .go (t.landAcc c d rel bank raw) c.next := rfl

theorem readAcc_converts {m : Nat} (hT : T ≠ .b64) (hm : (if convRounds T acc then c.mode (mrdaccSr T acc) else some 0) = some m) :
    readAcc t c d rel bank T acc raw = .go ((if m = 4 then t.draw c 1 else t).landAcc c d rel bank
      (convert T acc m (drawOf c.regs.csr.fpmode c.regs.csr.srctr 0) c.ftz (raw % 2 ^ acc.bits))) c.next := by
  simp only [readAcc, if_neg hT, hm]

end

section
variable {d a : RField} {k : BitVec 1} (hi : Issuing s t c) (hnil : (t.strand c.sid).deferred = [])
  (hown : precOwn ((t.core c.sid.core).prec k.toNat) = true) (hostr : precOstr ((t.core c.sid.core).prec k.toNat) = c.sid.strand)
  (hindex : (c.g (gA a)).toNat < 1024)
include hi hnil hown hostr hindex

section
variable {ty : BitVec 4} {T acc : Fmt} {rel : Bool} (hacc : accFmt (pcAcc ((t.core c.sid.core).prec k.toNat)) = acc)
  (hT : mrdaccType ty = some T) (hd : decodeTrap { rnd := some (ty ≠ 3) } [gD d, gA a] false t c = none)
  (hsr : c.h.rnd = some 4 → mrdaccSr T acc = true)
include hacc hT hd hsr

/-- MRDACC once its checks have passed: it waits for the bank's commands, or reads its element. -/
theorem exec_mrdacc_checked : exec (.mrdacc d a ty rel k) s = .next ((t.settleAct c
    (if (t.core c.sid.core).bankBusy k.toNat && !(t.strand c.sid).resumed then .again .barrierPhase (.bank k.toNat t.nextId)
    else readAcc t c d rel k.toNat T acc ((t.core c.sid.core).accAt k.toNat (c.g (gA a)).toNat).toNat)).ended c) := by
  subst hacc
  have htype : ((some T).isNone || (decide (c.h.rnd = some 4) && !mrdaccSr T (accFmt (pcAcc ((t.core c.sid.core).prec k.toNat))))) =
      false := by
    simpa using hsr
  rw [exec_mrdacc, execMrdacc, issue_eq hi hd]
  simp only [State.ahead_of_nil hnil, hT, Option.getD_some, htype, elementBad_eq_none hown hostr hindex]
  rfl

theorem exec_mrdacc_waits (hbusy : (t.core c.sid.core).bankBusy k.toNat = true) (hres : (t.strand c.sid).resumed = false)
    (hpark : (t.strand c.sid).park = none) : exec (.mrdacc d a ty rel k) s =
      .next (((t.modStrand c.sid fun st => { st with slot := c.vc + t.rotation c.sid }).park c .barrierPhase
        (.bank k.toNat t.nextId)).ended c) := by
  rw [exec_mrdacc_checked hi hnil hown hostr hindex hacc hT hd hsr, hbusy, hres, ← State.stay_parks hpark]
  rfl

theorem exec_mrdacc_reads (hfree : (t.core c.sid.core).bankBusy k.toNat = false ∨ (t.strand c.sid).resumed = true)
    (hread : readAcc t c d rel k.toNat T acc ((t.core c.sid.core).accAt k.toNat (c.g (gA a)).toNat).toNat = .go u c.next) :
    Passes s u c (.mrdacc d a ty rel k) := by
  rw [Passes, exec_mrdacc_checked hi hnil hown hostr hindex hacc hT hd hsr, busy_and_not_resumed hfree, hread]
  rfl

end

section
variable (hd : decodeTrap {} [gD d, gA a] false t c = none)
include hd

theorem exec_mwracc_waits (hbusy : (t.core c.sid.core).bankBusy k.toNat = true) (hres : (t.strand c.sid).resumed = false) :
    exec (.mwracc d a k) s = .next ((t.settleAct c (.again .barrierPhase (.bank k.toNat t.nextId))).ended c) := by
  rw [exec_mwracc, execMwracc, issue_eq hi hd]
  simp only [State.ahead_of_nil hnil, elementBad_eq_none hown hostr hindex, hbusy, hres]
  rfl

theorem exec_mwracc_performs (hclear : t.clear c.sid = true)
    (hfree : (t.core c.sid.core).bankBusy k.toNat = false ∨ (t.strand c.sid).resumed = true)
    (hdone : t.performMwracc c.sid k.toNat (c.g (gA a)) (c.g (gD d)) = .done u) : Passes s u c (.mwracc d a k) := by
  refine .of_issue hi hd (exec_mwracc ..) ?_
  simp only [State.ahead_of_nil hnil, elementBad_eq_none hown hostr hindex, busy_and_not_resumed hfree]
  exact emit_done hclear rfl hdone

end

end

/-- The bits that MWRACC writes for a value: those of the accumulator format, and its canonical NaN for every NaN (R295). -/
def accBits (acc : Fmt) (value : Word) : Nat :=
  let v := value.toNat % 2 ^ acc.bits
  if acc ≠ .s64 ∧ (unpack acc v).isNan = true then acc.canonNan else v

theorem State.performMwracc_done {x : SId} {bank : Nat} {index : Word} (value : Word) (hindex : index.toNat < 1024) :
    t.performMwracc x bank index value = .done (t.modCore x.core fun m => m.setAcc bank index.toNat
      (BitVec.ofNat 64 (accBits (accFmt (pcAcc ((t.core x.core).prec bank))) value))) := by
  simp only [performMwracc, accBits, Nat.mod_eq_of_lt hindex, Bool.and_eq_true, decide_eq_true_eq]

/-- Settles O24: MPREC takes the bank, MRDP and MRDACC land what they read, and MRDACC and MWRACC wait for a bank with commands. -/
theorem precisionAndAccumulatorForms : Obligations.PrecisionAndAccumulatorForms := by
  refine ⟨fun s t c a d ta tb tc k hi => ?_, fun s t c d a ty k hi hnil => ?_⟩
  · intro core old free conv done
    refine ⟨fun hclear hfree => ⟨fun hd hvalid hconv => ?_, fun hd _ _ _ hvalid hconv => ?_⟩, fun hd => ?_⟩
    · exact mprec_takesBank hi hclear hfree hvalid hconv hd (exec_mprecImage ..) rfl
    · exact mprec_takesBank hi hclear hfree hvalid hconv hd (exec_mprecShort ..) rfl
    · exact .of_issue hi hd (exec_mrdp ..) rfl
  · intro core p acc i raw hown hostr hindex
    refine ⟨fun rel T hT hd hsr => ⟨fun hbusy hres hpark => ?_, fun hfree => ⟨fun hb64 => ?_, fun hT' m hm => ?_⟩⟩,
      fun hd hbusy hres => ?_, fun hd hclear hfree => ?_⟩
    · exact ⟨_, exec_mrdacc_waits hi hnil hown hostr hindex rfl hT hd hsr hbusy hres hpark, rfl⟩
    · subst hb64
      exact exec_mrdacc_reads hi hnil hown hostr hindex rfl hT hd hsr hfree readAcc_b64
    · exact exec_mrdacc_reads hi hnil hown hostr hindex rfl hT hd hsr hfree (readAcc_converts hT' hm)
    · exact exec_mwracc_waits hi hnil hown hostr hindex hd hbusy hres
    · exact exec_mwracc_performs hi hnil hown hostr hindex hd hclear hfree (State.performMwracc_done _ hindex)

end Sys2Proof.Machine
end

section
/-! O25: MMA, MMAS and MZERO enter the command queue. -/

namespace Sys2Proof.Machine

variable {s t u : State} {c : Ctx}

/-! ### What the end of a region leaves of the engines (R341) -/

/-- A core beside its strands and the bytes of its scratch. -/
def Core.engines (k : Core) : Core := { k with strands := [], scratch := [] }

/-- Every core is as it was but for its strands and the bytes of its scratch, and the issue numbers go on from where they stood. -/
structure State.KeepsEngines (s t : State) : Prop where
  nextId : t.nextId = s.nextId
  cores : ∀ n, (t.core n).engines = (s.core n).engines

namespace State.KeepsEngines

theorem refl (s : State) : s.KeepsEngines s := ⟨rfl, fun _ => rfl⟩

theorem trans (h : s.KeepsEngines t) (h' : t.KeepsEngines u) : s.KeepsEngines u :=
  ⟨h'.nextId.trans h.nextId, fun n => (h'.cores n).trans (h.cores n)⟩

theorem ite {p : Prop} [Decidable p] (ht : s.KeepsEngines t) (hu : s.KeepsEngines u) : s.KeepsEngines (if p then t else u) := by
  split <;> assumption

theorem foldl {α : Type} {f : State → α → State} (h : ∀ (t : State) (a : α), t.KeepsEngines (f t a)) (as : List α) (s : State) :
    s.KeepsEngines (as.foldl f s) :=
  List.foldlRecOn as f (motive := s.KeepsEngines) (refl s) fun t ht a _ => ht.trans (h t a)

theorem asks (h : s.Asks t) : s.KeepsEngines t := ⟨h.nextId, fun n => by rw [h.core]⟩

theorem modMem (s : State) (f : MemSys → MemSys) : s.KeepsEngines (s.modMem f) := ⟨rfl, fun _ => rfl⟩

theorem modStrand (s : State) (x : SId) (f : Strand → Strand) : s.KeepsEngines (s.modStrand x f) :=
  ⟨rfl, fun n => (congrArg Core.engines (State.core_modStrand s x f n) :)⟩

theorem setByte (s : State) (l : Nat) (b : Byte) : s.KeepsEngines (s.setByte l b) := by
  refine ite ⟨rfl, fun n => ?_⟩ (modMem s _)
  by_cases h : n = locCore l
  · rw [h, State.core_modCore]
    rfl
  · rw [State.core_modCore_ne _ _ h]

theorem homeWrite (s : State) (line : Nat) : s.KeepsEngines (s.homeWrite line) := (modMem s _).trans (modMem _ _)

theorem own (s : State) (cluster line : Nat) : s.KeepsEngines (s.own cluster line) := by
  unfold State.own
  split
  · exact ite (refl s) (modMem s _)
  · exact refl s

theorem ownHeld (s : State) (cluster line : Nat) : s.KeepsEngines (s.ownHeld cluster line) := by
  unfold State.ownHeld
  split
  · exact ite (homeWrite s line) (own s cluster line)
  · exact homeWrite s line

theorem commitHeld (s : State) (x : SId) (hs : List Held) : s.KeepsEngines (s.commitHeld x hs) :=
  (foldl (fun t i => ownHeld t _ i) _ s).trans (foldl (fun t _ => setByte t _ _) hs _)

theorem endRegion (s : State) (x : SId) : s.KeepsEngines (s.endRegion x) := by
  have hcommit := (commitHeld s x (s.strand x).region.held).trans (modStrand _ x fun st => { st with region := Region.empty })
  exact ite hcommit (hcommit.trans (asks (.tlbLook _)))

theorem noteStart (s : State) (c : Ctx) : s.KeepsEngines (s.noteStart c) := by
  unfold State.noteStart
  split
  · exact modStrand s _ _
  · exact refl s

theorem array (h : s.KeepsEngines t) (n : Nat) : (t.core n).array = (s.core n).array :=
  (congrArg Core.array (h.cores n) :)

theorem lockEntries (h : s.KeepsEngines t) (n : Nat) : (t.core n).lockEntries = (s.core n).lockEntries :=
  (congrArg Core.lockEntries (h.cores n) :)

end State.KeepsEngines

/-- The end of a region leaves its strand's registers. -/
theorem State.strand_endRegion (s : State) (x : SId) : (s.endRegion x).strand x = { s.strand x with region := Region.empty } := by
  have hcommit : ((s.commitHeld x (s.strand x).region.held).modStrand x fun st => { st with region := Region.empty }).strand x =
      { s.strand x with region := Region.empty } := by
    rw [strand_modStrand, strand_commitHeld]
  unfold endRegion
  dsimp only
  split
  · exact hcommit
  · exact ((Asks.tlbLook _).strand x).trans hcommit

theorem State.regs_noteStart (t : State) (c : Ctx) : ((t.noteStart c).strand c.sid).regs = (t.strand c.sid).regs := by
  unfold noteStart
  split
  · rw [strand_modStrand]
  · rfl

theorem Issuing.regs (h : Issuing s t c) : c.regs = (t.strand c.sid).regs := by
  rw [h.sid, h.context]
  rfl

/-! ### The command queue (R278, R284) -/

/-- A command joins a core's queue and takes the next issue number. -/
def State.addCmd (s : State) (n : Nat) (a : ArrayCmd) : State :=
  { s with nextId := s.nextId + 1 }.modCore n fun k => { k with array := k.array ++ [a] }

/-- When the array is to look at a command: once its start vc has come, where it has one. -/
def State.lookDelay (s : State) (x : SId) (start : Option Nat) : Nat :=
  match start with
  | some n => s.ccTo x n
  | none => 0

/-- The state in which a command that reads scratch has joined the queue under the issue number n, with its read locks. -/
def State.queueLocked (s : State) (x : SId) (n : Nat) (a : ArrayCmd) : State :=
  let v := ((s.endRegion x).addCmd x.core { a with id := n, first := 0, step := 0, locks := a.lockRanges x.core 0 }).setMpx x 0
  v.post (v.lookDelay x a.hstart) (.arrayCommandStart x.core)

section
variable {x : SId} {a : ArrayCmd} (hroom : (s.core x.core).array.length < 4)
include hroom

theorem State.performArray_zero (hzero : a.zero = true) : s.performArray x a =
    .done (((s.endRegion x).addCmd x.core { a with id := s.nextId, first := 0, step := 0 }).post 0 (.mzeroApply x.core)) := by
  have hkeeps := KeepsEngines.endRegion s x
  simp [performArray, hzero, hkeeps.array, hkeeps.nextId, Nat.not_le.mpr hroom, addCmd]

theorem State.performArray_locked (hzero : a.zero = false) (hlock : (s.core x.core).lockEntries < 16)
    (hmpx : (s.strand x).regs.csr.mpx = 0) (hsteps : 0 < dscSteps a.dsc) :
    s.performArray x a = .done (s.queueLocked x s.nextId a) := by
  have hkeeps := KeepsEngines.endRegion s x
  have hfull : (decide (4 ≤ (s.core x.core).array.length) || decide (16 ≤ (s.core x.core).lockEntries)) = false := by
    simp [hroom, hlock]
  have hfirst : (s.strand x).regs.csr.mpx.toNat = 0 := by
    rw [hmpx]
    rfl
  simp only [performArray, hzero, hkeeps.array, hkeeps.lockEntries, hkeeps.nextId, strand_endRegion, hfirst, hfull,
    Nat.not_le.mpr hsteps, Bool.not_false, Bool.true_and, Bool.false_eq_true, if_false, if_true, queueLocked, addCmd]
  rfl

end

/-! ### The instructions (R292, R293) -/

/-- A descriptor with a valid length names at least one step (R273, R281). -/
theorem dscSteps_pos {d : Word} (h : descriptorBad d = false) : 0 < dscSteps d := by
  simp only [descriptorBad, Bool.or_eq_false_iff, decide_eq_false_iff_not] at h
  obtain ⟨-, hk⟩ := h
  unfold dscSteps
  omega

theorem descriptorBad_of_mmaBad {k : Core} {strand bank : Nat} {d pa pb : Word} (h : mmaBad k strand bank d pa pb = none) :
    descriptorBad d = false := by
  by_contra hbad
  rw [Bool.not_eq_false] at hbad
  unfold mmaBad at h
  dsimp only at h
  split at h
  · cases h
  · rw [if_pos hbad] at h
    cases h

/-- The command of MZERO. -/
def Ctx.mzeroCmd (c : Ctx) (core : Core) (k : BitVec 1) : ArrayCmd :=
  { zero := true, clear := false, bank := k.toNat, prec := core.prec k.toNat, dsc := 0, pa := 0, pb := 0, step := 0, first := 0,
    owner := c.sid, gpc := c.gpc, hstart := none, hseq := none, skip := [], locks := [], id := 0, waitCopy := none, handAt := 0,
    start := none, prev := 0, ends := 0, base := none }

section
variable (hi : Issuing s t c) (hclear : t.clear c.sid = true) {k : BitVec 1}
include hi hclear

theorem exec_mzero_queues (hd : decodeTrap {} [] false t c = none) (hown : precOwn ((t.core c.sid.core).prec k.toNat) = true)
    (hostr : precOstr ((t.core c.sid.core).prec k.toNat) = c.sid.strand)
    (hdone : t.performArray c.sid (c.mzeroCmd (t.core c.sid.core) k) = .done u) : Passes s u c (.mzero k) := by
  refine .of_issue hi hd (exec_mzero ..) ?_
  simp only [ownerBad_eq_none hown hostr]
  exact emit_done hclear rfl hdone

theorem mma_queues {i : Instr} {clear : Bool} {d a b : RField}
    (hd : decodeTrap { start := true, seq := true } [gD d, gA a, gB b] false t c = none) (hx : exec i s = mma clear d a b k s)
    (hbad : mmaBad (t.core c.sid.core) c.sid.strand k.toNat (c.g (gD d)) (c.g (gA a)) (c.g (gB b)) = none)
    (htime : timingBad t c = none) (hroom : (t.core c.sid.core).array.length < 4)
    (hlock : (t.core c.sid.core).lockEntries < 16) (hmpx : (t.strand c.sid).regs.csr.mpx = 0) :
    Passes s ((t.noteStart c).queueLocked c.sid t.nextId (c.mmaCmd (t.core c.sid.core) clear d a b k)) c i := by
  have hkeeps := State.KeepsEngines.noteStart t c
  have hdone : (t.noteStart c).performArray c.sid (c.mmaCmd (t.core c.sid.core) clear d a b k) =
      .done ((t.noteStart c).queueLocked c.sid t.nextId (c.mmaCmd (t.core c.sid.core) clear d a b k)) := by
    rw [← hkeeps.nextId]
    exact State.performArray_locked (by rwa [hkeeps.array]) rfl (by rwa [hkeeps.lockEntries]) (by rwa [State.regs_noteStart])
      (dscSteps_pos (descriptorBad_of_mmaBad hbad))
  refine .of_issue hi hd hx ?_
  have hfirst : decide (c.regs.csr.mpx ≠ 0) = false := by simp [hi.regs, hmpx]
  simp only [hbad, hfirst, Bool.false_eq_true, if_false, htime]
  exact emit_done (State.clear_noteStart.trans hclear) rfl hdone

end

/-- Settles O25: each command that finds a place joins the queue, with the locks of the chunks that MMA and MMAS read. -/
theorem arrayCommandsComplete : Obligations.ArrayCommandsComplete := by
  intro s t c d a b k hi hclear core owned cmd queue hown hroom
  obtain ⟨hown, hostr⟩ := hown
  refine ⟨fun hd => ?_, fun hd hbad htime hlock hmpx i clear hmem => ?_⟩
  · exact exec_mzero_queues hi hclear hd hown hostr (State.performArray_zero hroom rfl)
  · simp only [List.mem_cons, List.not_mem_nil, or_false, Prod.mk.injEq] at hmem
    rcases hmem with ⟨rfl, rfl⟩ | ⟨rfl, rfl⟩
    · exact mma_queues hi hclear hd (exec_mma ..) hbad htime hroom hlock hmpx
    · exact mma_queues hi hclear hd (exec_mmas ..) hbad htime hroom hlock hmpx

end Sys2Proof.Machine
end

section
/-! O12: atomics at issue, and at their places. -/

namespace Sys2Proof.Machine

section
variable {s t : State} {c : Ctx}

/-! ### At issue (R133, R351, R411) -/

/-- The request of an atomic: its operands as they stand at issue. -/
def Ctx.atomicRequest (c : Ctx) (op : AOp) (n mode : Nat) (d a b : RField) (qn : QField) (place : Option (Nat × Option Word)) : Request :=
  .atomic op n (c.g (gA a)) place (c.g (gB b)) (c.g (gD d)) (c.h.x (gD d)) mode (c.q qn)

/-- An atomic goes to the place of its walk (R404). -/
theorem State.requestPlaced_atomicRequest {op : AOp} {n mode l : Nat} {d a b : RField} {qn : QField} {leaf : Option Word}
    (hplace : t.resolve c.sid (c.g (gA a)) (c.q qn) Need.both = .at_ l leaf) :
    t.requestPlaced c.sid (c.atomicRequest op n mode d a b qn none) = c.atomicRequest op n mode d a b qn (some (l, leaf)) := by
  simp only [requestPlaced, Ctx.atomicRequest, hplace]

/-- An atomic whose page is not write-blocked translates at issue, and is sent. -/
theorem emitRequest_atomic {op : AOp} {n mode lat l : Nat} {d a b : RField} {qn : QField} {leaf : Option Word}
    (hclear : t.clear c.sid = true) (hplace : t.resolve c.sid (c.g (gA a)) (c.q qn) Need.both = .at_ l leaf)
    (hlater : t.laterVc c (c.flight (c.vc + lat) (some (c.atomicRequest op n mode d a b qn none, .unsent)) none) = none) :
    emitRequest t c lat (c.atomicRequest op n mode d a b qn none) =
      .go (((t.addFlight c (c.flight (c.vc + lat) (some (c.atomicRequest op n mode d a b qn none, .unsent)) none)).countOnce
        c.sid c.seq (c.g (gA a)) (c.q qn)).performRequest c.sid c.seq (c.atomicRequest op n mode d a b qn none)) c.next := by
  have hblocked : t.requestBlocked c.sid (c.atomicRequest op n mode d a b qn none) = none :=
    if_neg (by rw [hplace]; exact Place1.noConfusion)
  simp only [emitRequest, hlater, hclear, hblocked]
  rfl

/-- An instruction whose entry is that of an atomic, and whose image, address and walk pass. -/
theorem atomic_sends {i : Instr} {att : Attach} {us : List Use} {super : Bool} {entry : State → Ctx → Act} {op : AOp}
    {n mode l : Nat} {d a b : RField} {qn : QField} {leaf : Option Word} (hi : Issuing s t c)
    (hd : decodeTrap att us super t c = none) (hx : exec i s = issue s att us super entry)
    (he : entry t c = atomicEntry op n mode d a b qn t c) (hclear : t.clear c.sid = true) (hpol : polOk (c.q qn) = true)
    (halign : (c.g (gA a)).toNat % n = 0) (hplace : t.resolve c.sid (c.g (gA a)) (c.q qn) Need.both = .at_ l leaf)
    (hlater : t.laterVc c (c.flight (c.vc + 160) (some (c.atomicRequest op n mode d a b qn none, .unsent)) none) = none) :
    Passes s (((t.addFlight c (c.flight (c.vc + 160) (some (c.atomicRequest op n mode d a b qn none, .unsent)) none)).countOnce
      c.sid c.seq (c.g (gA a)) (c.q qn)).performRequest c.sid c.seq (c.atomicRequest op n mode d a b qn none)) c i :=
  .of_issue hi hd hx (he.trans ((atomicEntry_request hpol halign).trans (emitRequest_atomic hclear hplace hlater)))

end

/-! ### At its place (R352) -/

section
variable {s : State} {x : SId} {ea : Word} {l n : Nat} {q : Policy} (hlock : (s.endRegion x).storeLocked l n = false)
  (hgood : (s.endRegion x).firstBad l n = none) (hshadow : (s.endRegion x).shadowTrap x ea l = none)
include hlock hgood hshadow

/-- An atomic other than an ACAS whose bytes differ from its comparand writes its new value. -/
theorem State.atomicAt_writes {op : AOp} {y k : Word}
    (hwrites : op = .cas → (s.endRegion x).natAt l n = k.toNat % 2 ^ (8 * n))
    (hfree : (s.endRegion x).conflict x (2 * l) (2 * n) true (polSwm q) = none) :
    s.atomicAt x op n ea l y k 0 q = (((s.endRegion x).passHome x ea l q true).write l
      (leBytes n (atomicNew op n 0 false ((s.endRegion x).natAt l n) (y.toNat % 2 ^ (8 * n)))), .inl ((s.endRegion x).natAt l n)) := by
  have hw : (!(op = .cas && (s.endRegion x).natAt l n ≠ k.toNat % 2 ^ (8 * n))) = true := by
    by_cases hop : op = .cas <;> simp [hop, hwrites]
  simp only [atomicAt, hw, hlock, hgood, hfree, hshadow]
  rfl

/-- An ACAS whose bytes differ from its comparand is a read. -/
theorem State.atomicAt_cas_differs {y k : Word} (hdiffer : (s.endRegion x).natAt l n ≠ k.toNat % 2 ^ (8 * n))
    (hfree : (s.endRegion x).conflict x (2 * l) (2 * n) false (polSwm q) = none) :
    s.atomicAt x .cas n ea l y k 0 q = ((s.endRegion x).passHome x ea l q false, .inl ((s.endRegion x).natAt l n)) := by
  simp [atomicAt, hdiffer, hlock, hgood, hfree, hshadow]

end

/-- Settles O12: each form sends its request, and each operation writes its new value and returns the old one. -/
theorem atomicForms : Obligations.AtomicForms := by
  refine ⟨fun s t c d a b qn z hi hclear => ?_, fun s x ea y k l n q _ => ?_⟩
  · intro p ea n R
    have hint {i : Instr} {op : AOp} (hx : exec i s = atomicOp op d a b qn z s) : R policyHints i op 0 :=
      fun hd hpol halign l leaf hplace => ⟨fun v => State.requestPlaced_atomicRequest,
        atomic_sends hi hd hx rfl hclear hpol halign hplace⟩
    refine ⟨hint rfl, hint rfl, hint rfl, hint rfl, hint rfl, hint rfl, hint rfl, hint rfl, hint rfl, hint rfl,
      fun m hm hd hpol halign l leaf hplace => ⟨fun v => State.requestPlaced_atomicRequest, ?_⟩⟩
    exact atomic_sends hi hd (exec_afadd ..) (by simp only [hm]; rfl) hclear hpol halign hplace
  · intro u old w v sg hlock hgood hshadow
    refine ⟨fun hfree => ?_, fun hdiffer hfree => State.atomicAt_cas_differs hlock hgood hshadow hdiffer hfree⟩
    intro R
    have hop {op : AOp} {new : Nat} (hcas : op = .cas → old = k.toNat % 2 ^ w) (hnew : atomicNew op n 0 false old v = new) : R op new :=
      hnew ▸ State.atomicAt_writes hlock hgood hshadow hcas hfree
    have hother {op : AOp} {new : Nat} (hne : op ≠ .cas) (hnew : atomicNew op n 0 false old v = new) : R op new :=
      hop (fun h => absurd h hne) hnew
    exact ⟨hother nofun rfl, hother nofun rfl, hother nofun rfl, hother nofun rfl, hother nofun rfl, hother nofun rfl,
      hother nofun rfl, hother nofun ((min_comm old v).trans (min_def_lt v old)), hother nofun (max_def_lt old v),
      fun hequal => hop (fun _ => hequal) rfl⟩

end Sys2Proof.Machine
end

section
/-! O13: the Woad forms. -/

namespace Sys2Proof.Machine

section
variable {s t : State} {c : Ctx} {ch q : Nat} {k : WKind} {v : BitVec 32} {d : Option Nat} {waits : Bool}

/-! ### Arrivals (R331, R334, R337) -/

/-- A write of the strand's own to WMEM comes before its arrival (R133, R389). -/
theorem arriveEntry_joining (hjoin : (t.strand c.sid).joining = true) : arriveEntry ch k v waits d t c = .again .serial .again :=
  if_pos hjoin

theorem arriveEntry_no_channel (hjoin : (t.strand c.sid).joining = false) (hmember : t.memberOf c.sid ch = none) :
    arriveEntry ch k v waits d t c = .fault (woadTrap ch 1) := by
  simp [arriveEntry, hjoin, hmember]

section
variable (hjoin : (t.strand c.sid).joining = false) (hmember : t.memberOf c.sid ch = some q)
  (hpending : t.woadPending c.sid q = false) (hquiet : t.quietFor c.sid c.seq = true)
include hjoin hmember hpending hquiet

theorem arriveEntry_goes :
    arriveEntry ch k v false d t c = .go ((t.endRegion c.sid).arrive q ⟨c.sid, k, v⟩) c.next := by
  simp [arriveEntry, hjoin, hmember, hpending, hquiet]

theorem arriveEntry_waits :
    arriveEntry ch k v true d t c = .wait ((t.endRegion c.sid).arrive q ⟨c.sid, k, v⟩) .woad (.woad q ch true d) := by
  simp [arriveEntry, hjoin, hmember, hpending, hquiet]

end

theorem arriveWait_of_not_wdone {ch : BitVec 5} (h : (t.strand c.sid).regs.csr.status.wdone = false) :
    arriveWait ch k v d t c = arriveEntry ch.toNat k v true d t c := by
  simp [arriveWait, h]

theorem arriveWait_of_wdone {ch : BitVec 5} (h : (t.strand c.sid).regs.csr.status.wdone = true) :
    arriveWait ch k v d t c = resumeEntry ch.toNat d t c :=
  if_pos h

/-! ### The wait alone (R370) -/

/-- A strand that had been stopped at its wait stands at it again: WDONE is used up. -/
def State.waitAgain (t : State) (c : Ctx) : State :=
  (t.breakAt c.sid c.seq).modStrand c.sid fun st => st.modCsrNow fun r => { r with status := { r.status with wdone := false } }

theorem woadWrites_eq (d : Option Nat) (r : BitVec 32) : woadWrites d r = d.toList.map fun j => .g j (r.setWidth 64) := by
  cases d <;> rfl

section
variable (hchannel : (t.waitAgain c).physChannel c.sid ch = some q)
include hchannel

theorem resumeEntry_pending (hpending : (t.waitAgain c).woadPending c.sid q = true) :
    resumeEntry ch d t c = .wait (t.waitAgain c) .woad (.woad q ch true d) := by
  unfold State.waitAgain at *
  simp only [resumeEntry, hchannel, hpending, if_true]

theorem resumeEntry_released (hpending : (t.waitAgain c).woadPending c.sid q = false) {r : BitVec 32 × Bool}
    (hgot : Tab.find? ((t.waitAgain c).strand c.sid).woadGot q = some r) :
    resumeEntry ch d t c = if r.2 && d.isSome then .fault (woadTrap ch 2)
      else .go (((t.waitAgain c).modStrand c.sid fun st => { st with woadGot := [] }).results c 0 (woadWrites d r.1)) c.next := by
  unfold State.waitAgain at *
  simp only [resumeEntry, hchannel, hpending, hgot]
  rfl

end

/-- A waiting form with WDONE set waits on, goes on with the result that has come, or takes the mismatch. -/
theorem woad_waits_again {i : Instr} {us : List Use} {entry : State → Ctx → Act} (hi : Issuing s t c)
    (hd : decodeTrap {} us false t c = none) (hx : exec i s = issue s {} us false entry) (he : entry t c = resumeEntry ch d t c)
    (hchannel : (t.waitAgain c).physChannel c.sid ch = some q) :
    ((t.waitAgain c).woadPending c.sid q = true → Parks s (t.waitAgain c) c i .woad (.woad q ch true d)) ∧
    ((t.waitAgain c).woadPending c.sid q = false → ∀ (r : BitVec 32) (mixed : Bool),
      Tab.find? ((t.waitAgain c).strand c.sid).woadGot q = some (r, mixed) →
      if mixed = true ∧ d.isSome = true then exec i s = .next (t.faulted c (woadTrap ch 2))
      else Passes s (((t.waitAgain c).modStrand c.sid fun st => { st with woadGot := [] }).results c 0
        (d.toList.map fun j => .g j (r.setWidth 64))) c i) := by
  refine ⟨fun hpending => .of_issue hi hd hx (he.trans (resumeEntry_pending hchannel hpending)), fun hpending r mixed hgot => ?_⟩
  have hentry := he.trans (resumeEntry_released hchannel hpending hgot)
  rw [woadWrites_eq] at hentry
  split
  · next hmixed => rw [hx, issue_fault hi hd (hentry.trans (if_pos (by simpa using hmixed)))]
  · next hfine => exact .of_issue hi hd hx (hentry.trans (if_neg (by simpa using hfine)))

/-! ### WWAIT (R337) -/

theorem State.performWwait_pending {x : SId} (hmember : (t.endRegion x).memberOf x ch = some q)
    (hpending : (t.endRegion x).woadPending x q = true) : t.performWwait x ch = .park (t.endRegion x) .woad := by
  simp [performWwait, hmember, hpending]

theorem State.performWwait_released {x : SId}
    (h : ∀ q, (t.endRegion x).memberOf x ch = some q → (t.endRegion x).woadPending x q = false) :
    t.performWwait x ch = .done (t.endRegion x) := by
  simp only [performWwait]
  cases hmember : (t.endRegion x).memberOf x ch with
  | none => rfl
  | some q => simp [h q hmember]

/-- An effect that must wait at issue parks its strand (R432). -/
theorem emit_parks {u : State} {eff : Effect} {next : Word} {reason : ParkReason} (hclear : t.clear c.sid = true)
    (hheld : (t.strand c.sid).effectHeld eff = false)
    (hpark : t.performEffect c.sid ⟨c.seq, c.vc, c.gpc, eff, none⟩ = .park u reason) : emit t c eff next =
      .wait ((u.addFlight c (c.flight c.vc none none)).addDeferred c eff (stuckFor reason)) reason .effect := by
  simp [emit, hclear, hheld, hpark]

end

/-- Settles O13: each form arrives and goes on or waits, faults where it has no channel, and with WDONE set only waits. -/
theorem woadFormsComplete : Obligations.WoadFormsComplete := by
  intro s t c d a ch hi n x v u joined
  refine ⟨fun hjoin q hmember hpending hquiet => ?_, fun hd => ⟨fun hclear => ⟨fun q hmember hpending => ?_, fun hfree => ?_⟩,
    fun hclear => .of_issue hi hd (exec_wwait ..) hclear rfl, fun hjoin => ?_⟩, fun hjoin hmember => ⟨fun hd => ?_, fun hd => ?_⟩,
    fun hwdone => ?_⟩
  · intro sent
    refine ⟨fun hd => .of_issue hi hd (exec_warv ..) (arriveEntry_goes hjoin hmember hpending hquiet),
      fun hd => .of_issue hi hd (exec_wsend ..) (arriveEntry_goes hjoin hmember hpending hquiet), fun hwdone => ?_⟩
    have hwaits {k : WKind} {w : BitVec 32} {j : Option Nat} :
        arriveWait ch k w j t c = .wait (sent k w) .woad (.woad q n true j) :=
      (arriveWait_of_not_wdone hwdone).trans (arriveEntry_waits hjoin hmember hpending hquiet)
    refine ⟨fun hd => .of_issue hi hd (exec_wbar ..) hwaits, fun hd => .of_issue hi hd (exec_wrecv ..) hwaits, fun hd i k hmem => ?_⟩
    have hred (hx : exec i s = woadReduce k d a ch s) : Parks s (sent k v) c i .woad (.woad q n true (some x)) :=
      .of_issue hi hd hx hwaits
    simp only [List.mem_cons, List.not_mem_nil, or_false, Prod.mk.injEq] at hmem
    rcases hmem with ⟨rfl, rfl⟩ | ⟨rfl, rfl⟩ | ⟨rfl, rfl⟩ | ⟨rfl, rfl⟩ <;> exact hred rfl
  · exact .of_issue hi hd (exec_wwait ..) (emit_parks (eff := .wwait n) hclear rfl (State.performWwait_pending hmember hpending))
  · exact .of_issue hi hd (exec_wwait ..) (emit_done hclear rfl (State.performWwait_released hfree))
  · exact (exec_warv ..).trans (issue_again hi hd (arriveEntry_joining (Bool.eq_true_of_not_eq_false hjoin)))
  · exact (exec_warv ..).trans (issue_fault hi hd (arriveEntry_no_channel hjoin hmember))
  · exact (exec_wsend ..).trans (issue_fault hi hd (arriveEntry_no_channel hjoin hmember))
  · intro w D
    refine ⟨fun hd q hchannel => woad_waits_again hi hd (exec_wbar ..) (arriveWait_of_wdone hwdone) hchannel,
      fun hd q hchannel => woad_waits_again hi hd (exec_wrecv ..) (arriveWait_of_wdone hwdone) hchannel, fun i hmem => ?_⟩
    have hred {k : WKind} (hx : exec i s = woadReduce k d a ch s) : D i [gD d, gA a] (some x) :=
      fun hd q hchannel => woad_waits_again hi hd hx (arriveWait_of_wdone hwdone) hchannel
    simp only [List.mem_cons, List.not_mem_nil, or_false] at hmem
    rcases hmem with rfl | rfl | rfl | rfl
    · exact hred (k := .add) rfl
    · exact hred (k := .min) rfl
    · exact hred (k := .max) rfl
    · exact hred (k := .or) rfl

end Sys2Proof.Machine
end

section
/-! O42: the generations of a Woad channel, and the stall of a gang. -/

namespace Sys2Proof.Machine

variable {s t : State} {c : Nat} {as : List Arrival}

/-! ### The close of a generation (R331, R332) -/

theorem WKind.isRed_eq (k : WKind) : k.isRed = decide (k = .add ∨ k = .min ∨ k = .max ∨ k = .or) := by cases k <;> rfl

/-- The arrival of the last member closes the open generation. -/
theorem State.arrive_closes {a : Arrival}
    (hall : ((s.setChannel c { s.channel c with open_ := (s.channel c).open_ ++ [a] }).members c).all
      (fun x => ((s.channel c).open_ ++ [a]).any fun e => e.sid = x) = true) :
    s.arrive c a = ((s.setChannel c { s.channel c with open_ := (s.channel c).open_ ++ [a] }).setChannel c
      ⟨[], (s.channel c).closed ++ [(s.clock.cc + woadLatency c ((s.channel c).open_ ++ [a]), (s.channel c).open_ ++ [a])]⟩).post
        (woadLatency c ((s.channel c).open_ ++ [a])) (.woadRelease c) := by
  unfold arrive closeCheck
  rw [channel_setChannel]
  exact if_pos ⟨by simp, hall⟩

/-! ### The result (R333) -/

theorem woadResult_add (h : ∀ a ∈ as, a.kind = .add) : woadResult as = ((as.map (·.value)).foldl (· + ·) 0, false) :=
  if_pos (by simpa using h)

theorem woadResult_mixed {a b : Arrival} (ha : a ∈ as) (hb : b ∈ as) (hnum : a.kind = .add ∨ a.kind = .min ∨ a.kind = .max)
    (hother : b.kind = .plain ∨ b.kind = .send ∨ b.kind = .recv ∨ b.kind = .or) : woadResult as = (0, true) := by
  have hall (k : WKind) (hk : k = .add ∨ k = .min ∨ k = .max) : ¬(as.all (·.kind = k) = true) := by
    intro h
    have hbk : b.kind = k := by simpa using List.all_eq_true.mp h b hb
    rcases hk with rfl | rfl | rfl <;> simp [hbk] at hother
  have hany : as.any (fun a => a.kind = .add || a.kind = .min || a.kind = .max) = true :=
    List.any_eq_true.mpr ⟨a, ha, by simpa [or_assoc] using hnum⟩
  unfold woadResult
  dsimp only
  rw [if_neg (hall _ (by simp)), if_neg (hall _ (by simp)), if_neg (hall _ (by simp)), if_pos hany]

theorem woadResult_or (h : ∀ a ∈ as, a.kind ≠ .add ∧ a.kind ≠ .min ∧ a.kind ≠ .max) :
    woadResult as = ((as.map (·.value)).foldl (· ||| ·) 0, false) := by
  cases as with
  | nil => rfl
  | cons a as =>
    obtain ⟨hadd, hmin, hmax⟩ := h a List.mem_cons_self
    have hnone : ¬((a :: as).any (fun a => a.kind = .add || a.kind = .min || a.kind = .max) = true) := by
      simp only [List.any_eq_true, Bool.or_eq_true, decide_eq_true_eq]
      rintro ⟨b, hb, (hk | hk) | hk⟩
      · exact (h b hb).1 hk
      · exact (h b hb).2.1 hk
      · exact (h b hb).2.2 hk
    unfold woadResult
    dsimp only
    rw [if_neg (by simp [hadd]), if_neg (by simp [hmin]), if_neg (by simp [hmax]), if_neg hnone]

/-! ### The release (R331, R332, R370) -/

/-- A strand that was stopped while it waited keeps the result of its generation. -/
def State.keepResult (c : Nat) (as : List Arrival) (t : State) (a : Arrival) : State :=
  if (t.strand a.sid).regs.csr.status.wdone then
    t.modStrand a.sid fun st => { st with woadGot := Tab.put st.woadGot c (woadResult as) }
  else t

/-- A strand whose park the release may end goes on, or tries its arrival. -/
def State.releaseWaiter (c : Nat) (as : List Arrival) (t : State) (w : SId × Park) : State :=
  match w.2.on with
  | .woad _ ch _ d => if as.any (·.sid = w.1) then t.woadDone w.1 ch d (woadResult as) else t
  | .arrival _ ch a waits d =>
    if (t.strand w.1).held = 0 && (t.strand w.1).ccOf (t.parkSlot w.1 .woad) = t.clock.cc && w.2.reason = .woad then
      t.woadTry w.1 c ch a waits d fun u => u.makeReady w.1 0 [] none
    else t.post 0 (.woadArrival w.1)
  | _ => t

/-- The state in which a generation has left its channel, and the strands that wait for it in an effect have been asked to look. -/
def State.generationOver (s : State) (c n : Nat) (as : List Arrival) : State :=
  (s.setChannel c ⟨(s.channel c).open_, (s.channel c).closed.erase (n, as)⟩).wake fun _ p => p.on = .effect && p.reason = .woad

theorem State.woadRelease_eq {n : Nat} (hfind : (s.channel c).closed.find? (fun g => g.1 ≤ s.clock.cc) = some (n, as)) :
    s.woadRelease c = (s.woadWaiters c).foldl (releaseWaiter c as) (as.foldl (keepResult c as) (s.generationOver c n as)) := by
  simp only [woadRelease, hfind]
  rfl

theorem State.strand_generationOver (s : State) (c n : Nat) (as : List Arrival) (x : SId) :
    (s.generationOver c n as).strand x = s.strand x := (Asks.wake _ _).strand x

theorem State.channel_generationOver (s : State) (c n : Nat) (as : List Arrival) :
    (s.generationOver c n as).channel c = ⟨(s.channel c).open_, (s.channel c).closed.erase (n, as)⟩ := by
  obtain ⟨ds, hwake⟩ := Asks.wake (s.setChannel c ⟨(s.channel c).open_, (s.channel c).closed.erase (n, as)⟩)
    fun _ p => p.on = .effect && p.reason = .woad
  rw [generationOver, hwake]
  exact channel_setChannel s c _

/-- Where no strand of the generation has WDONE set, no result is kept. -/
theorem State.foldl_keepResult_running {bs : List Arrival} (h : ∀ a ∈ bs, (t.strand a.sid).regs.csr.status.wdone = false) :
    bs.foldl (keepResult c as) t = t :=
  List.foldlRecOn bs _ (motive := (· = t)) rfl fun u hu a ha => by
    rw [hu]
    exact if_neg (by simp [h a ha])

theorem State.strand_keepResult (t : State) (a : Arrival) (x : SId) : (t.keepResult c as a).strand x =
    if a.sid = x ∧ (t.strand x).regs.csr.status.wdone = true then
      { t.strand x with woadGot := Tab.put (t.strand x).woadGot c (woadResult as) }
    else t.strand x := by
  unfold keepResult
  by_cases hx : a.sid = x
  · subst hx
    by_cases hdone : (t.strand a.sid).regs.csr.status.wdone = true
    · rw [if_pos hdone, if_pos ⟨rfl, hdone⟩, strand_modStrand]
    · rw [if_neg hdone, if_neg fun h => hdone h.2]
  · rw [if_neg fun h : a.sid = x ∧ _ => hx h.1]
    split
    · exact strand_modStrand_ne _ _ (Ne.symm hx)
    · rfl

/-- A strand of the generation with WDONE set has the result. -/
theorem State.woadGot_foldl_keepResult {bs : List Arrival} {x : SId} (hx : x ∈ bs.map (·.sid))
    (hdone : (t.strand x).regs.csr.status.wdone = true) :
    Tab.find? ((bs.foldl (keepResult c as) t).strand x).woadGot c = some (woadResult as) := by
  obtain ⟨a, ha, rfl⟩ := List.mem_map.mp hx
  refine foldl_establishes (P := fun u : State => (u.strand a.sid).regs.csr.status.wdone = true)
    (Q := fun u : State => Tab.find? (u.strand a.sid).woadGot c = some (woadResult as))
    (fun u b hu => ?_) (fun u b _ hgot => ?_) (fun u hu => ?_) hdone ha
  · rw [strand_keepResult]
    split <;> exact hu
  · rw [strand_keepResult]
    split
    · exact Tab.find?_put_self ..
    · exact hgot
  · rw [strand_keepResult, if_pos ⟨rfl, hu⟩]
    exact Tab.find?_put_self ..

theorem State.channel_foldl_keepResult (bs : List Arrival) : (bs.foldl (keepResult c as) t).channel c = t.channel c :=
  List.foldlRecOn bs _ (motive := fun u : State => u.channel c = t.channel c) rfl fun u hu a _ => by
    rw [← hu, keepResult]
    split <;> rfl

/-! ### A waiter that goes on (R333, R337) -/

theorem State.strand_endRegion_ne {x y : SId} (h : y ≠ x) : (s.endRegion x).strand y = s.strand y := by
  have hcommit : ((s.commitHeld x (s.strand x).region.held).modStrand x fun st => { st with region := Region.empty }).strand y =
      s.strand y := (strand_modStrand_ne _ _ h).trans (strand_commitHeld ..)
  unfold endRegion
  dsimp only
  split
  · exact hcommit
  · exact ((Asks.tlbLook _).strand y).trans hcommit

theorem State.strand_breakRegion_ne {x y : SId} (h : y ≠ x) : (s.breakRegion x).strand y = s.strand y := by
  unfold breakRegion breakAt
  split
  · exact strand_endRegion_ne h
  · rw [strand_modStrand_ne _ _ h, strand_modStrand_ne _ _ h]

theorem State.park_breakRegion (s : State) (x : SId) : ((s.breakRegion x).strand x).park = (s.strand x).park := by
  unfold breakRegion breakAt
  split
  · rw [strand_endRegion]
  · rw [strand_modStrand, strand_modStrand]

theorem State.park_makeReady {x : SId} {p : Park} (h : (s.strand x).park = some p) (lat : Nat) (ws : List Dest) (f : Option TrapInfo) :
    ((s.makeReady x lat ws f).strand x).park = some { p with on := .ready lat ws f } := by
  rw [makeReady, (Asks.post _ _ _).strand, strand_modStrand]
  simp [h]

theorem State.strand_makeReady_ne {x y : SId} (h : y ≠ x) (lat : Nat) (ws : List Dest) (f : Option TrapInfo) :
    (s.makeReady x lat ws f).strand y = s.strand y :=
  ((Asks.post _ _ _).strand y).trans (strand_modStrand_ne _ _ h)

theorem State.park_woadDone {x : SId} {p : Park} (h : (s.strand x).park = some p) (ch : Nat) (d : Option Nat)
    (r : BitVec 32 × Bool) : ((s.woadDone x ch d r).strand x).park =
      if r.2 && d.isSome then some { p with on := .ready 0 [] (some (woadTrap ch 2)) }
      else some { p with on := .ready 0 (woadWrites d r.1) none } := by
  have hpark := (s.park_breakRegion x).trans h
  unfold woadDone
  dsimp only
  split <;> exact park_makeReady hpark ..

theorem State.strand_woadDone_ne {x y : SId} (h : y ≠ x) (ch : Nat) (d : Option Nat) (r : BitVec 32 × Bool) :
    (s.woadDone x ch d r).strand y = s.strand y := by
  unfold woadDone
  dsimp only
  split <;> exact (strand_makeReady_ne h ..).trans (strand_breakRegion_ne h)

/-! ### The stall of a gang (R335, R336) -/

/-- The line of a gang that every member has driven for 256 cycles traps each of them. -/
theorem State.stallExpiry_expires {g : Nat} {v : Gang} (hgang : Tab.find? s.gangs g = some v) (hmembers : v.members ≠ [])
    (hquiet : v.quietFrom + 256 ≤ s.clock.cc)
    (hdrives : ∀ x ∈ v.members, s.drives x = true ∧ (s.strand x).held = 0 ∧ s.driveCc x + 256 ≤ s.clock.cc)
    (hparked : ∃ x ∈ v.members, (s.strand x).park ≠ none) :
    s.stallExpiry g = v.members.foldl (fun t x => t.stallTrap x) s := by
  have hsince : v.members.foldl (fun m x => Nat.max m (s.driveCc x)) v.quietFrom + 256 ≤ s.clock.cc :=
    List.foldlRecOn v.members _ (motive := (· + 256 ≤ s.clock.cc)) hquiet fun m hm x hx => by
      obtain ⟨-, -, hcc⟩ := hdrives x hx
      change max m (s.driveCc x) + 256 ≤ s.clock.cc
      omega
  have hall : v.members.all (fun x => s.drives x && (s.strand x).held = 0) = true :=
    List.all_eq_true.mpr fun x hx => by
      obtain ⟨hline, hheld, -⟩ := hdrives x hx
      simp [hline, hheld]
  have hany : v.members.any (fun x => (s.strand x).park.isSome) = true := by
    obtain ⟨x, hx, hpark⟩ := hparked
    exact List.any_eq_true.mpr ⟨x, hx, Option.isSome_iff_ne_none.mpr hpark⟩
  simp only [stallExpiry, hgang, hall, hany, hsince]
  simp [hmembers]

/-- Settles O42: a generation closes with its last arrival, its release ends each wait for it, and a stalled gang traps. -/
theorem woadAndGangSteps : Obligations.WoadAndGangSteps := by
  refine ⟨fun s c a hall => State.arrive_closes hall, fun c as => ?_, fun s c n as hfind => ?_, fun s x y ch d r p hpark => ?_,
    fun as => ?_, fun s g v hgang hmembers hquiet hdrives hparked => ?_⟩
  · simp only [woadLatency, WKind.isRed_eq]
  · intro after
    have hrelease := State.woadRelease_eq hfind
    refine ⟨fun hrunning hwaits => ?_, fun hnone x hx hdone => ?_⟩
    · rw [exec_woadRelease, execWoadRelease, hrelease, State.foldl_keepResult_running
        (by simpa only [State.strand_generationOver] using hrunning)]
      refine congrArg Host.Outcome.next (List.foldl_ext _ _ _ fun u w hw => ?_)
      obtain ⟨ch, sent, d, hon⟩ := hwaits w hw
      simp only [State.releaseWaiter, hon]
    · refine ⟨_, by rw [exec_woadRelease, execWoadRelease, hrelease, hnone, List.foldl_nil], ?_, ?_⟩
      · exact State.woadGot_foldl_keepResult hx (by rwa [State.strand_generationOver])
      · exact (State.channel_foldl_keepResult as).trans
          ((State.channel_generationOver s c n as).trans (State.channel_setChannel ..).symm)
  · exact ⟨State.park_woadDone hpark ch d r, fun hy => State.strand_woadDone_ne hy ch d r⟩
  · refine ⟨woadResult_add, fun ⟨a, ha, hnum⟩ ⟨b, hb, hother⟩ => ?_, woadResult_or⟩
    rw [woadResult_mixed ha hb hnum hother]
  · rw [exec_gangstallExpiry, execGangstallExpiry, State.stallExpiry_expires hgang hmembers hquiet hdrives hparked]

end Sys2Proof.Machine
end

section
/-! What writes of bytes leave: everything but bytes, marks and copies. -/

namespace Sys2Proof.Machine

/-- Memory without its bytes, marks and copies of lines. -/
def MemSys.beside (m : MemSys) : MemSys := { m with cells := [], bad := [], cache := [] }

/-- A core without its scratch. -/
def Core.beside (k : Core) : Core := { k with scratch := [], scratchBad := [] }

/-- The device without its memory and cores. -/
def State.beside (s : State) : State := { s with mem := MemSys.reset, cores := [] }

/-- Everything but the bytes of memory and scratch, their marks and the copies of lines is as it was. -/
structure State.WritesBytes (s t : State) : Prop where
  mem : t.mem.beside = s.mem.beside
  core : ∀ n, (t.core n).beside = (s.core n).beside
  rest : t.beside = s.beside

namespace MemSys

theorem beside_foldl {α : Type} {f : MemSys → α → MemSys} (h : ∀ (m : MemSys) (a : α), (f m a).beside = m.beside) (as : List α)
    (m : MemSys) : (as.foldl f m).beside = m.beside :=
  List.foldlRecOn as f (motive := fun m' => m'.beside = m.beside) rfl fun m' hm a _ => (h m' a).trans hm

theorem beside_modCopy (m : MemSys) (p : Place) (line : Nat) (f : CacheLine → CacheLine) : (m.modCopy p line f).beside = m.beside := rfl

theorem beside_writeDown (m : MemSys) (e : CacheLine) : (m.writeDown e).beside = m.beside := by
  unfold writeDown
  split
  · rfl
  · dsimp only
    split <;> rfl

theorem beside_recallLine (m : MemSys) (line : Nat) (f : Place → Bool) : (m.recallLine line f).beside = m.beside :=
  beside_foldl (fun m _ => beside_foldl beside_writeDown _ m) _ m

end MemSys

namespace State.WritesBytes
variable {s t u : State}

theorem refl (s : State) : s.WritesBytes s := ⟨rfl, fun _ => rfl, rfl⟩

theorem trans (h : s.WritesBytes t) (h' : t.WritesBytes u) : s.WritesBytes u :=
  ⟨h'.mem.trans h.mem, fun n => (h'.core n).trans (h.core n), h'.rest.trans h.rest⟩

theorem ite {p : Prop} [Decidable p] (ht : s.WritesBytes t) (hu : s.WritesBytes u) : s.WritesBytes (if p then t else u) := by
  split <;> assumption

theorem foldl {α : Type} {f : State → α → State} (h : ∀ (t : State) (a : α), t.WritesBytes (f t a)) (as : List α) (s : State) :
    s.WritesBytes (as.foldl f s) :=
  List.foldlRecOn as f (motive := s.WritesBytes) (refl s) fun t ht a _ => ht.trans (h t a)

theorem modMem (s : State) {f : MemSys → MemSys} (h : (f s.mem).beside = s.mem.beside) : s.WritesBytes (s.modMem f) :=
  ⟨h, fun _ => rfl, rfl⟩

theorem modCore (s : State) (n : Nat) {f : Core → Core} (h : (f (s.core n)).beside = (s.core n).beside) :
    s.WritesBytes (s.modCore n f) := by
  refine ⟨rfl, fun m => ?_, rfl⟩
  by_cases hm : m = n
  · rw [hm, State.core_modCore, h]
  · rw [State.core_modCore_ne _ _ hm]

theorem setByte (s : State) (l : Nat) (b : Byte) : s.WritesBytes (s.setByte l b) := ite (modCore s _ rfl) (modMem s rfl)

theorem setBytes (s : State) (l : Nat) (bs : List Byte) : s.WritesBytes (s.setBytes l bs) := by
  induction bs generalizing s l with
  | nil => exact refl s
  | cons b bs ih => exact (setByte s l b).trans (ih _ _)

theorem setBad (s : State) (l : Nat) (b : Bool) : s.WritesBytes (s.setBad l b) := ite (modCore s _ rfl) (modMem s rfl)

theorem write (s : State) (l : Nat) (bs : List Byte) : s.WritesBytes (s.write l bs) :=
  State.recode_keeps (P := s.WritesBytes) (fun t _ _ _ h => h.trans (setBad t _ _)) (setBytes s l bs)

theorem homeWrite (s : State) (line : Nat) : s.WritesBytes (s.homeWrite line) := by
  refine (modMem s (f := fun m => m.recallLine line _) (MemSys.beside_recallLine _ _ _)).trans (modMem _ ?_)
  split <;> rfl

theorem homeWrites (s : State) (lines : List Nat) : s.WritesBytes (lines.foldl State.homeWrite s) := foldl homeWrite lines s

theorem homeSet (s : State) (l n v : Nat) : s.WritesBytes (s.homeSet l n v) := (homeWrites s _).trans (setBytes _ _ _)

/-- A trace record is written to memory alone (R422). -/
theorem trace (s : State) (j r : Nat) : s.WritesBytes (s.trace j r) := by
  unfold State.trace
  refine ite (refl s) ?_
  have hlost (p : Prop) [Decidable p] (l n v : Nat) : s.WritesBytes (if p then s.homeSet l n v else s) := ite (homeSet s l n v) (refl s)
  exact (hlost _ _ _ _).trans ((homeWrites _ _).trans ((write _ _ _).trans (homeSet _ _ _ _)))

theorem own (s : State) (cluster line : Nat) : s.WritesBytes (s.own cluster line) := by
  unfold State.own
  split
  · refine ite (refl s) (modMem s ?_)
    dsimp only
    split <;> simp only [MemSys.beside_modCopy, MemSys.beside_recallLine]
  · exact refl s

theorem ownHeld (s : State) (cluster line : Nat) : s.WritesBytes (s.ownHeld cluster line) := by
  unfold State.ownHeld
  split
  · exact ite (homeWrite s line) (own s cluster line)
  · exact homeWrite s line

/-- The stores that a region holds take effect in bytes alone (R342). -/
theorem commitHeld (s : State) (x : SId) (hs : List Held) : s.WritesBytes (s.commitHeld x hs) :=
  (foldl (fun t i => ownHeld t _ i) _ s).trans (foldl (fun t _ => setByte t _ _) hs _)

/-! ### What is left as it was -/

theorem clock (h : s.WritesBytes t) : t.clock = s.clock := (congrArg State.clock h.rest :)
theorem jobs (h : s.WritesBytes t) : t.jobs = s.jobs := (congrArg State.jobs h.rest :)
theorem coll (h : s.WritesBytes t) : t.coll = s.coll := (congrArg State.coll h.rest :)
theorem fw (h : s.WritesBytes t) : t.fw = s.fw := (congrArg State.fw h.rest :)
theorem dev (h : s.WritesBytes t) : t.mem.dev = s.mem.dev := (congrArg MemSys.dev h.mem :)
theorem tlb (h : s.WritesBytes t) : t.mem.tlb = s.mem.tlb := (congrArg MemSys.tlb h.mem :)
theorem strands (h : s.WritesBytes t) (n : Nat) : (t.core n).strands = (s.core n).strands := (congrArg Core.strands (h.core n) :)
theorem svec (h : s.WritesBytes t) (n : Nat) : (t.core n).svec = (s.core n).svec := (congrArg Core.svec (h.core n) :)
theorem part (h : s.WritesBytes t) (n : Nat) : (t.core n).part = (s.core n).part := (congrArg Core.part (h.core n) :)

end State.WritesBytes

/-- The end of a region is the end of its stores, a change of the strand, and what may look again (R341, R342, R417). -/
theorem State.endRegion_asks (s : State) (x : SId) :
    ((s.commitHeld x (s.strand x).region.held).modStrand x fun st => { st with region := Region.empty }).Asks (s.endRegion x) :=
  .ite (.refl _) (.tlbLook _)

end Sys2Proof.Machine
end

section
/-! O7: the control-register forms. -/

namespace Sys2Proof.Machine

/-- The control registers that a write reaches as an effect: WMEM and those of job scope (R389). -/
theorem csr_effect_iff (k : Nat) : (k = 0x019 ∨ csrIsJob k = true) ↔ k ∈ [0x019, 0x030, 0x031, 0x034, 0x035, 0x036] := by
  simp [csrIsJob, or_assoc]

theorem csrReadOnly_iff (k : Nat) : csrReadOnly k = true ↔
    k ∈ [0x003, 0x004, 0x005, 0x006, 0x007, 0x008, 0x009, 0x00A, 0x00B, 0x00D, 0x00E, 0x00F] := by
  simp only [csrReadOnly, Bool.or_eq_true, Bool.and_eq_true, decide_eq_true_eq, List.mem_cons, List.not_mem_nil, or_false]
  omega

/-- A register that a task may only read is written as no effect. -/
theorem csrReadOnly_lands {k : Nat} (h : csrReadOnly k = true) : ¬(k = 0x019 ∨ csrIsJob k = true) := by
  rw [csrReadOnly_iff] at h
  rw [csr_effect_iff]
  simp only [List.mem_cons, List.not_mem_nil, or_false] at h ⊢
  omega

section
variable {s t : State} {c : Ctx} {f : CsrForm} {a : RField} {n : BitVec 12} {i : Instr}
  (hi : Issuing s t c) (hd : decodeTrap {} [gA a] (csrGuard n.toNat).isSome t c = none) (hx : exec i s = csrWrite f a n s)
include hi hd hx

theorem csrWrite_lands (heffect : ¬(n.toNat = 0x019 ∨ csrIsJob n.toNat = true))
    (hpriv : csrReadOnly n.toNat = true → c.regs.csr.status.priv = true) :
    Lands s t c i 1 [.csr n.toNat (f.apply (t.csrRead c.sid c.vc n.toNat) (c.g (gA a)))] := by
  have hmay : ¬(csrReadOnly n.toNat && !c.regs.csr.status.priv) = true := by simpa using hpriv
  rw [Lands, hx, csrWrite]
  refine issue_go hi hd ?_
  dsimp only
  rw [if_neg (by simpa using heffect), if_neg hmay]
  rfl

/-- A task's write to a register that it may only read has no effect (R387). -/
theorem csrWrite_readOnly (hro : csrReadOnly n.toNat = true) (hpriv : c.regs.csr.status.priv = false) : Passes s t c i := by
  rw [Passes, hx, csrWrite]
  refine issue_go hi hd ?_
  dsimp only
  rw [if_neg (by simpa using csrReadOnly_lands hro), if_pos (by simp [hro, hpriv])]
  rfl

section
variable (heffect : n.toNat = 0x019 ∨ csrIsJob n.toNat = true)
include heffect

theorem csrWrite_performs {v : Word} (hv : f.apply (t.csrRead c.sid c.vc n.toNat) (c.g (gA a)) = v) (hclear : t.clear c.sid = true) :
    Passes s (if n.toNat = 0x019 then t.setWmem c.sid (v.setWidth 24)
      else t.writeJobCsr c.sid.core (t.jobOf c.sid) n.toNat v) c i := by
  rw [Passes, hx, csrWrite]
  refine issue_go hi hd ?_
  dsimp only
  rw [if_pos (by simpa using heffect)]
  exact emit_done hclear rfl (by simp only [State.performEffect, hv])

theorem csrWrite_defers (hclear : t.clear c.sid = false) : Defers s t c i (.csr f n.toNat (c.g (gA a))) := by
  refine Defers.of_issue hi hd hx hclear ?_
  dsimp only
  rw [if_pos (by simpa using heffect)]

end

/-- What a form that writes v does (R387, R389). -/
theorem csrWrite_forms {v : Word} (hv : f.apply (t.csrRead c.sid c.vc n.toNat) (c.g (gA a)) = v) :
    let k := n.toNat
    let readOnly : Prop := k ∈ [0x003, 0x004, 0x005, 0x006, 0x007, 0x008, 0x009, 0x00A, 0x00B, 0x00D, 0x00E, 0x00F]
    (k ∉ [0x019, 0x030, 0x031, 0x034, 0x035, 0x036] → (readOnly → c.regs.csr.status.priv = true) → Lands s t c i 1 [.csr k v]) ∧
    (readOnly → c.regs.csr.status.priv = false → Passes s t c i) ∧
    (t.clear c.sid = true → k = 0x019 → Passes s (t.setWmem c.sid (v.setWidth 24)) c i) ∧
    (t.clear c.sid = true → k ∈ [0x030, 0x031, 0x034, 0x035, 0x036] → Passes s (t.writeJobCsr c.sid.core (t.jobOf c.sid) k v) c i) ∧
    (t.clear c.sid = false → k ∈ [0x019, 0x030, 0x031, 0x034, 0x035, 0x036] → Defers s t c i (.csr f k (c.g (gA a)))) := by
  dsimp only
  simp only [← csr_effect_iff, ← csrReadOnly_iff]
  refine ⟨hv ▸ csrWrite_lands hi hd hx, csrWrite_readOnly hi hd hx, fun hclear h19 => ?_, fun hclear hjob => ?_,
    fun hclear h => csrWrite_defers hi hd hx h hclear⟩
  · have h := csrWrite_performs hi hd hx (.inl h19) hv hclear
    rwa [if_pos h19] at h
  · have h := csrWrite_performs hi hd hx ((csr_effect_iff _).mpr (List.mem_cons_of_mem _ hjob)) hv hclear
    rwa [if_neg (fun h19 => by rw [h19] at hjob; revert hjob; decide)] at h

end

/-- A policy register takes bits 31 to 0 (R389). -/
theorem Csrs.write_policy (r : Csrs) (x : Word) {n : Nat} (hn : n < 8) :
    r.write (0x020 + n) x = { r with q := Tab.set 0 r.q n (x.setWidth 32) } := by
  interval_cases n <;> rfl

/-- Settles O7: a write of WMEM or of a register of job scope is an effect, a task's write of a register that it may only read passes,
every other write lands. -/
theorem controlRegisterForms : Obligations.ControlRegisterForms := by
  refine ⟨fun s t c d a n hi => ⟨fun hd => ?_, fun hd => ?_⟩, fun r x => ?_⟩
  · rw [Lands, exec_csrr, execCsrr]
    exact issue_go hi hd rfl
  · exact ⟨csrWrite_forms hi hd (exec_csrw a n s) rfl, csrWrite_forms hi hd (exec_csrs a n s) rfl,
      csrWrite_forms hi hd (exec_csrc a n s) rfl⟩
  · rw [← bitOf_eq_getLsbD]
    refine ⟨rfl, rfl, rfl, rfl, rfl, rfl, rfl, rfl, rfl, rfl, rfl, rfl, rfl, rfl, rfl, rfl, rfl, rfl, rfl, rfl,
      fun n hn => r.write_policy x hn, fun n hn => ?_⟩
    simp only [List.mem_cons, List.not_mem_nil, or_false] at hn
    rcases hn with rfl | rfl | rfl | rfl | rfl <;> rfl

end Sys2Proof.Machine
end

section
/-! O29: TRAP, BRK, ERET, RDTIME and RDPERF. -/

namespace Sys2Proof.Machine

section
variable {s t : State} {c : Ctx} (hi : Issuing s t c)
include hi

/-- A trap whose EPC names the next word (R391). -/
theorem issue_trapNext {att : Attach} {us : List Use} {super : Bool} {entry : State → Ctx → Act} {f : TrapInfo}
    (hd : decodeTrap att us super t c = none) (he : entry t c = .trapNext f) :
    issue s att us super entry = .next (t.faulted { c with gpc := c.pc + 4 } f) := by
  rw [issue_eq hi hd, he]
  rfl

section
variable (hd : decodeTrap {} [] false t c = none)
include hd

theorem exec_brk_traps (n : BitVec 12) (h : (t.strand c.sid).brken = false) :
    exec (.brk n) s = .next (t.faulted c ⟨.brk, n.setWidth 64, 0⟩) := by
  rw [exec_brk, execBrk]
  refine issue_fault hi hd ?_
  rw [h]
  rfl

theorem exec_brk_stops (n : BitVec 12) (h : (t.strand c.sid).brken = true) : Passes s (t.modStrand c.sid fun st =>
    { st with stopAsked := true, brkAt := some c.seq, stepping := false, dbgCode := 0x14 }) c (.brk n) := by
  rw [Passes, exec_brk, execBrk]
  refine issue_go hi hd ?_
  rw [h]
  rfl

/-- ERET outside a handler is no instruction (R392). -/
theorem exec_eret_illegal (h : c.regs.csr.status.inh = false) : exec .eret s = .next (t.faulted c ⟨.illegal, 0xB8000001, 0⟩) := by
  rw [exec_eret, execEret]
  refine issue_fault hi hd ?_
  dsimp only
  rw [h]
  rfl

section
variable (h : c.regs.csr.status.inh = true)
include h

theorem exec_eret_misaligned (hmis : c.regs.csr.epc.toNat % 4 ≠ 0) : exec .eret s = .next (t.faulted c ⟨.misalign, c.regs.csr.epc, 0⟩) := by
  rw [exec_eret, execEret]
  refine issue_fault hi hd ?_
  dsimp only
  rw [h, if_neg (by decide), if_pos hmis]
  rfl

theorem exec_eret_returns (halign : c.regs.csr.epc.toNat % 4 = 0) (hclear : t.clear c.sid = true) :
    exec .eret s = .next ((t.leave c.sid).finish c c.regs.csr.epc) := by
  rw [exec_eret, execEret]
  refine issue_go hi hd ?_
  dsimp only
  rw [h, if_neg (by decide), if_neg (not_not.mpr halign)]
  exact emitStop_done hclear rfl

end

end

section
variable {d a : RField} (hd : decodeTrap {} [gD d, gA a] false t c = none)
include hd

theorem exec_rdperf_reads {v : Word} (h : perfCounter t c (c.g (gA a)).toNat = some v) :
    Lands s t c (.rdperf d a) 8 [.g (c.h.x (gD d)) v] := by
  rw [Lands, exec_rdperf, execRdperf]
  refine issue_go hi hd ?_
  rw [h]
  rfl

theorem exec_rdperf_reserved (h : perfCounter t c (c.g (gA a)).toNat = none) :
    exec (.rdperf d a) s = .next (t.faulted c ⟨.operand, 8, 0⟩) := by
  rw [exec_rdperf, execRdperf]
  refine issue_fault hi hd ?_
  rw [h]
  rfl

end

end

/-- Settles O29: each form by the way in which it ends. -/
theorem systemFormsComplete : Obligations.SystemFormsComplete := by
  refine fun s t c d a n hi => ⟨fun hd => ⟨?_, exec_brk_traps hi hd n, exec_brk_stops hi hd n, exec_eret_illegal hi hd, fun h =>
    ⟨exec_eret_misaligned hi hd h, exec_eret_returns hi hd h⟩⟩, fun hd => ?_, fun hd => ⟨fun hk => ?_, fun hk => ?_, fun hk => ?_,
    fun hk => ?_, fun hk => ?_, fun hk => ?_, fun hk => ?_⟩⟩
  · rw [exec_trap, execTrap]
    exact issue_trapNext hi hd rfl
  · rw [Lands, exec_rdtime, execRdtime]
    exact issue_go hi hd rfl
  · exact exec_rdperf_reads hi hd (if_pos hk)
  case refine_9 =>
    refine exec_rdperf_reserved hi hd ?_
    unfold perfCounter
    dsimp only
    rw [if_neg (by omega)]
    split
    case h_6 => rfl
    all_goals omega
  all_goals exact exec_rdperf_reads hi hd (by rw [hk]; rfl)

end Sys2Proof.Machine
end

section
/-! O56: entering a trap, and returning from it. -/

namespace Sys2Proof.Machine

/-! ### SVEC behind the end of a region (R341, R388, R389) -/

theorem Tab.put_put {α : Type} (t : Tab α) (i : Nat) (v w : α) : Tab.put (Tab.put t i v) i w = Tab.put t i w := by
  induction t with
  | nil => simp [Tab.put]
  | cons e t ih =>
    obtain ⟨k, u⟩ := e
    simp only [Tab.put]
    split
    · simp [Tab.put]
    · split
      · simp [Tab.put]
      · rename_i hlt hne
        simp [Tab.put, hlt, hne, ih]

/-- What is looked up of a table's values does not change with a value that answers alike. -/
theorem Tab.findSome?_put {α β : Type} {g : α → Option β} {v w : α} (h : g v = g w) (t : Tab α) (i : Nat) :
    (Tab.put t i v).findSome? (fun e => g e.2) = (Tab.put t i w).findSome? (fun e => g e.2) := by
  induction t with
  | nil => simp [Tab.put, h]
  | cons e t ih =>
    obtain ⟨k, u⟩ := e
    simp only [Tab.put]
    split
    · simp only [List.findSome?_cons, h]
    · split
      · simp only [List.findSome?_cons, h]
      · simp only [List.findSome?_cons, ih]

/-- The write to SVEC of a strand that has landed by a core cycle. -/
def Strand.svecAt (st : Strand) (cc : Nat) : Option Word := (landAll st.pending (cc - st.base) st.regs).1.csr.svecIn

theorem State.svecOf_eq (s : State) (n : Nat) : s.svecOf n =
    ((s.core n).strands.findSome? fun e => e.2.svecAt s.clock.cc).getD (s.core n).svec := rfl

theorem State.strands_modStrand (s : State) (x : SId) (f : Strand → Strand) :
    ((s.modStrand x f).core x.core).strands = Tab.put (s.core x.core).strands x.strand (f (s.strand x)) := by
  unfold modStrand setStrand
  rw [core_modCore]

theorem State.svec_modStrand (s : State) (x : SId) (f : Strand → Strand) (n : Nat) :
    ((s.modStrand x f).core n).svec = (s.core n).svec := by
  have := congrArg Core.svec (s.core_modStrand x f n)
  exact this

theorem State.svecOf_asks {s t : State} (h : s.Asks t) (n : Nat) : t.svecOf n = s.svecOf n := by
  rw [svecOf_eq, svecOf_eq, h.core, h.clock]

/-- Two changes of a strand that both keep its landings lead to the same SVEC. -/
theorem State.svecOf_modStrand_congr {s t : State} (h : s.WritesBytes t) (x : SId) {f g : Strand → Strand}
    (hfg : ∀ cc, (f (s.strand x)).svecAt cc = (g (t.strand x)).svecAt cc) :
    (s.modStrand x f).svecOf x.core = (t.modStrand x g).svecOf x.core := by
  rw [svecOf_eq, svecOf_eq, strands_modStrand, strands_modStrand, svec_modStrand, svec_modStrand, h.strands, h.svec, modStrand_clock,
    modStrand_clock, h.clock]
  have hput := Tab.findSome?_put (g := fun st : Strand => st.svecAt s.clock.cc) (hfg s.clock.cc) (s.core x.core).strands x.strand
  rw [hput]

theorem State.setStrand_setStrand (s : State) (x : SId) (st st' : Strand) : (s.setStrand x st).setStrand x st' = s.setStrand x st' := by
  unfold setStrand modCore
  rw [core_setCore]
  simp only [setCore, Tab.put_put]

theorem State.modStrand_modStrand (s : State) (x : SId) (f g : Strand → Strand) :
    (s.modStrand x f).modStrand x g = s.modStrand x fun st => g (f st) := by
  rw [modStrand, strand_modStrand, modStrand, setStrand_setStrand, modStrand]

/-- SVEC as a trap's entry reads it is that at the end of the region. -/
theorem State.svecOf_breakRegion (s : State) (x : SId) : (s.breakRegion x).svecOf x.core = (s.endRegion x).svecOf x.core := by
  by_cases h : s.clear x = true
  · rw [breakRegion, if_pos h]
  · rw [breakRegion, if_neg h, breakAt, if_neg h, svecOf_asks (s.endRegion_asks x)]
    rw [modStrand_modStrand]
    refine svecOf_modStrand_congr (WritesBytes.commitHeld s x _) x fun cc => ?_
    rw [strand_commitHeld]
    rfl

/-- What the break of a region between two instructions leaves of its strand (R341). -/
theorem State.strand_breakRegion (s : State) (x : SId) : ∃ d q r, (s.breakRegion x).strand x =
    { s.strand x with deferred := d, seq := q, region := r } ∧ (s.clear x = true → r = Region.empty) := by
  by_cases h : s.clear x = true
  · rw [breakRegion, if_pos h, strand_endRegion]
    exact ⟨_, _, _, rfl, fun _ => rfl⟩
  · rw [breakRegion, if_neg h, breakAt, if_neg h, modStrand_modStrand, strand_modStrand]
    exact ⟨_, _, _, rfl, fun hc => absurd hc h⟩

theorem State.jobs_breakRegion (s : State) (x : SId) : (s.breakRegion x).jobs = s.jobs := by
  unfold breakRegion breakAt
  split
  · exact (KeepsGangs.endRegion s x).jobs
  · rfl

/-! ### A handler begins before its domain's stop (R373) -/

/-- A strand whose stop is put off behind its domain's handler. -/
theorem State.strand_handlerFirst (s : State) (x y : SId) :
    ∃ d n, (s.handlerFirst x).strand y = { s.strand y with drainT := d, drainCc := n } := by
  unfold handlerFirst
  dsimp only
  split
  · split
    · refine List.foldlRecOn (s.domain x) _ (motive := fun u : State => ∃ d n, u.strand y = { s.strand y with drainT := d, drainCc := n })
        ⟨_, _, rfl⟩ fun u hu z _ => ?_
      obtain ⟨d, n, hu⟩ := hu
      by_cases h : y = z
      · subst h
        rw [strand_modStrand, hu]
        split
        · exact ⟨_, _, rfl⟩
        · exact ⟨_, _, rfl⟩
      · rw [strand_modStrand_ne _ _ h]
        exact ⟨d, n, hu⟩
    · exact ⟨_, _, rfl⟩
  · exact ⟨_, _, rfl⟩

/-- No other strand's stop is put off where the strand stands alone, or no stop is set. -/
theorem State.strand_handlerFirst_ne {s : State} {x y : SId} (h : (s.strand x).gang = none ∨ (s.strand x).drainT = none) (hy : y ≠ x) :
    (s.handlerFirst x).strand y = s.strand y := by
  unfold handlerFirst
  dsimp only
  split
  next t ht =>
    rw [domain_alone (h.resolve_right (by rw [ht]; exact Option.some_ne_none t))]
    split
    · exact strand_modStrand_ne _ _ hy
    · rfl
  next => rfl

/-! ### The entry (R357 to R360) -/

theorem taskLevel_eq (c : Csrs) (j : Job) (cause : Cause) : taskLevel c j cause =
    decide (cause ∈ [Cause.memrace, .schedule, .timing, .gangstall, .mapdesc] ∧ c.status.priv = false ∧ c.status.inh = false ∧
      j.tmask.getLsbD cause.code = true ∧ j.tvec ≠ 0) := by
  rw [taskLevel, bitOf_eq_getLsbD]
  cases cause <;> cases c.status.priv <;> cases c.status.inh <;> simp [Cause.isTask]

/-- A strand that goes on at `pc` with the control registers of its handler. -/
def Strand.entered (st : Strand) (cc : Nat) (csr : Csrs) (pc : Word) : Strand :=
  { st with
    regs := { st.regs with csr := csr }, pc := pc, group := [], parkedCc := st.parkedCc + st.parkCount cc, park := none, under := none,
    traps := st.traps + 1, stopAsked := st.stopAsked || st.stepping }

theorem State.regs_breakRegion (s : State) (x : SId) : ((s.breakRegion x).strand x).regs = (s.strand x).regs := by
  obtain ⟨d, q, r, h, -⟩ := s.strand_breakRegion x
  rw [h]

theorem State.job_breakRegion (s : State) (x : SId) : (s.breakRegion x).job ((s.breakRegion x).jobOf x) = s.job (s.jobOf x) := by
  rw [jobOf, regs_breakRegion, job, jobs_breakRegion, job, jobOf]

section
variable {s : State} {x : SId} (t : TrapInfo) (resume : Word) (element : Option Word)

/-- The state in which a strand has entered its handler at task level, or at supervisor level before a stop is put off. -/
def State.inHandler (s : State) (x : SId) (t : TrapInfo) (resume : Word) (element : Option Word) (task : Bool) : State :=
  (s.breakRegion x).modStrand x fun st => st.entered (s.breakRegion x).clock.cc
    ((s.strand x).regs.csr.enter t resume element (!task)) (if task then (s.job (s.jobOf x)).tvec else (s.endRegion x).svecOf x.core)

/-- A trap that meets no supervisor handler enters one at its level (R357). -/
theorem State.enter_eq (h : (s.strand x).regs.csr.status.nested = false) {task : Bool}
    (htask : taskLevel (s.strand x).regs.csr (s.job (s.jobOf x)) t.cause = task) :
    s.enter x t resume element = if task then s.inHandler x t resume element task
      else (s.inHandler x t resume element task).handlerFirst x := by
  unfold enter
  dsimp only
  rw [regs_breakRegion, job_breakRegion, svecOf_breakRegion, htask, h]
  rfl

/-- A trap in a supervisor handler halts its strand (R360). -/
theorem State.enter_nested (h : (s.strand x).regs.csr.status.nested = true) : s.enter x t resume element = (s.breakRegion x).halt x t.cause := by
  unfold enter
  dsimp only
  rw [regs_breakRegion, h]
  rfl

/-- What a strand in its handler has kept, and what entry has set (R358). -/
structure Strand.Enters (s : State) (x : SId) (csr : Csrs) (pc : Word) (st : Strand) : Prop where
  csr : st.regs.csr = csr
  pc : st.pc = pc
  g : st.regs.g = (s.strand x).regs.g
  v : st.regs.v = (s.strand x).regs.v
  p : st.regs.p = (s.strand x).regs.p
  region : s.clear x = true → st.region = Region.empty
  traps : st.traps = (s.strand x).traps + 1
  park : st.park = none

theorem State.enters_inHandler (s : State) (x : SId) (task : Bool) : Strand.Enters s x ((s.strand x).regs.csr.enter t resume element (!task))
    (if task then (s.job (s.jobOf x)).tvec else (s.endRegion x).svecOf x.core)
    ((s.inHandler x t resume element task).strand x) := by
  obtain ⟨d, q, r, h, hr⟩ := s.strand_breakRegion x
  rw [inHandler, strand_modStrand, h]
  exact ⟨rfl, rfl, rfl, rfl, rfl, hr, rfl, rfl⟩

theorem State.strand_inHandler_ne {y : SId} (h : y ≠ x) (task : Bool) : (s.inHandler x t resume element task).strand y = s.strand y := by
  rw [inHandler, strand_modStrand_ne _ _ h, strand_breakRegion_ne h]

theorem State.gang_inHandler (s : State) (x : SId) (task : Bool) :
    ((s.inHandler x t resume element task).strand x).gang = (s.strand x).gang ∧
      ((s.inHandler x t resume element task).strand x).drainT = (s.strand x).drainT := by
  obtain ⟨d, q, r, h, -⟩ := s.strand_breakRegion x
  rw [inHandler, strand_modStrand, h]
  exact ⟨rfl, rfl⟩

section
variable (h : (s.strand x).regs.csr.status.nested = false) {task : Bool}
  (htask : taskLevel (s.strand x).regs.csr (s.job (s.jobOf x)) t.cause = task)
include h htask

/-- What entry leaves of each strand, but for a stop that it puts off. -/
theorem State.strand_enter (y : SId) : ∃ d n, (s.enter x t resume element).strand y =
    { (s.inHandler x t resume element task).strand y with drainT := d, drainCc := n } := by
  rw [enter_eq t resume element h htask]
  split
  · exact ⟨_, _, rfl⟩
  · exact strand_handlerFirst _ _ _

theorem State.enters_enter : Strand.Enters s x ((s.strand x).regs.csr.enter t resume element (!task))
    (if task then (s.job (s.jobOf x)).tvec else (s.endRegion x).svecOf x.core) ((s.enter x t resume element).strand x) := by
  obtain ⟨d, n, hd⟩ := strand_enter t resume element h htask x
  rw [hd]
  exact { s.enters_inHandler t resume element x task with }

theorem State.strand_enter_ne {y : SId} (hy : y ≠ x) :
    ∃ d n, (s.enter x t resume element).strand y = { s.strand y with drainT := d, drainCc := n } := by
  obtain ⟨d, n, hd⟩ := strand_enter t resume element h htask y
  rw [hd, strand_inHandler_ne t resume element hy]
  exact ⟨d, n, rfl⟩

theorem State.strand_enter_same (halone : task = true ∨ (s.strand x).gang = none ∨ (s.strand x).drainT = none) {y : SId} (hy : y ≠ x) :
    (s.enter x t resume element).strand y = s.strand y := by
  obtain ⟨hgang, hdrain⟩ := s.gang_inHandler t resume element x task
  rw [enter_eq t resume element h htask]
  split
  next => exact strand_inHandler_ne t resume element hy task
  next ht =>
    rw [strand_handlerFirst_ne _ hy, strand_inHandler_ne t resume element hy]
    rw [hgang, hdrain]
    exact halone.resolve_left ht

end

end

/-- The state in which a strand has halted, before its job is killed. -/
def State.halting (s : State) (x : SId) (cause : Cause) : State :=
  (s.endRegion x).modStrand x fun st =>
    { st with run := .halted, dbgCode := BitVec.ofNat 8 cause.code, group := [], inflight := [], deferred := [],
              parkedCc := st.parkedCc + st.parkCount (s.endRegion x).clock.cc, park := none, under := none, late := [], tookLate := [],
              held := 0, lates := [], stopAsked := false, brkAt := none, dying := false, stepping := false }

/-- A strand halts with its registers as they stand (R130, R360). -/
theorem State.strand_halting (s : State) (x : SId) (cause : Cause) : ((s.halting x cause).strand x).run = .halted ∧
    ((s.halting x cause).strand x).dbgCode = BitVec.ofNat 8 cause.code ∧ ((s.halting x cause).strand x).regs = (s.strand x).regs := by
  rw [halting, strand_modStrand, strand_endRegion]
  exact ⟨rfl, rfl, rfl⟩

theorem State.halt_eq (s : State) (x : SId) (cause : Cause) :
    s.halt x cause = ((s.halting x cause).killJob (s.jobOf x)).post 0 (.domainStop x) := by
  have hjob : s.jobOf x = (s.halting x cause).jobOf x := by rw [jobOf, jobOf, (s.strand_halting x cause).2.2]
  rw [hjob]
  rfl

/-! ### The return (R392) -/

theorem State.leave_asks (s : State) (x : SId) : (s.modStrand x fun st =>
    { st.modCsrNow Csrs.leave with pc := st.regs.csr.epc, group := [] }).Asks (s.leave x) := .ite (.post _ _ _) (.refl _)

/-- A fault that is known at issue, with no instruction in flight, is taken there (R131). -/
theorem State.faultAt_idle {s : State} {k : Ctx} (f : TrapInfo) (h : (s.strand k.sid).inflight = []) : ∃ w : State,
    s.faultAt k f = w.enter k.sid f k.gpc none ∧ (w.strand k.sid).regs = (s.strand k.sid).regs ∧ w.mem = s.mem := by
  unfold faultAt
  dsimp only
  rw [strand_modStrand, if_pos h, modStrand_modStrand]
  refine ⟨_, rfl, ?_, rfl⟩
  rw [strand_modStrand]

/-- Settles O56: a trap enters a handler at its level, or halts its strand where that is a supervisor handler already. -/
theorem trapsEnterAndReturn : Obligations.TrapsEnterAndReturn := by
  refine fun s x t resume element => ⟨fun hnest => ?_, fun h => ?_, fun hinh hpriv => ?_, ?_, fun k f hk hidle => ?_⟩
  · have hn : (s.strand x).regs.csr.status.nested = false := by
      rwa [Status.nested, Bool.and_eq_false_iff, ← Bool.not_eq_true, ← Bool.not_eq_true, ← not_and_or]
    have htask := taskLevel_eq (s.strand x).regs.csr (s.job (s.jobOf x)) t.cause
    obtain ⟨hcsr, hpc, hg, hv, hp, hregion, htraps, hpark⟩ := s.enters_enter t resume element hn htask
    exact ⟨hcsr, hpc, hg, hv, hp, hregion, htraps, hpark, fun y hy => State.strand_enter_ne t resume element hn htask hy,
      fun halone y hy => State.strand_enter_same t resume element hn htask halone hy⟩
  · have hnone : (s.core x.core).strands.findSome? (fun e => e.2.svecAt s.clock.cc) = none := by
      refine List.findSome?_eq_none_iff.mpr fun e he => ?_
      obtain ⟨hsvec, hpending⟩ := h e he
      rw [Strand.svecAt, hpending, landAll, hsvec]
    rw [State.svecOf_eq, hnone]
    rfl
  · obtain ⟨hrun, hcode, hregs⟩ := (s.breakRegion x).strand_halting x t.cause
    rw [State.enter_nested t resume element (by rw [Status.nested, hinh, hpriv]; rfl), State.halt_eq]
    refine ⟨_, ?_, hrun, hcode, hregs.trans (s.regs_breakRegion x), (State.KeepsGangs.endRegion _ x).jobs.trans (s.jobs_breakRegion x)⟩
    rw [State.jobOf, s.regs_breakRegion, State.jobOf]
  · have hasks := s.leave_asks x
    dsimp only
    rw [hasks.strand, hasks.mem, State.strand_modStrand]
    exact ⟨rfl, rfl, rfl, rfl, rfl, rfl⟩
  · subst hk
    exact s.faultAt_idle f hidle

end Sys2Proof.Machine
end

section
/-! O30: QUIESCE, MIGRATE and TLBINV. -/

namespace Sys2Proof.Machine

/-! ### What the counters of a job leave of the jobs' runs (R69) -/

/-- Every job runs, is being stopped or is stopped as it was. -/
def State.KeepsJobRuns (s t : State) : Prop := ∀ i, (t.job i).run = (s.job i).run

namespace State.KeepsJobRuns
variable {s t u : State}

theorem of_jobs (h : t.jobs = s.jobs) : s.KeepsJobRuns t := fun i => by rw [State.job, h, State.job]

theorem refl (s : State) : s.KeepsJobRuns s := fun _ => rfl

theorem trans (h : s.KeepsJobRuns t) (h' : t.KeepsJobRuns u) : s.KeepsJobRuns u := fun i => (h' i).trans (h i)

theorem ite {p : Prop} [Decidable p] (ht : s.KeepsJobRuns t) (hu : s.KeepsJobRuns u) : s.KeepsJobRuns (if p then t else u) := by
  split <;> assumption

theorem modJob (s : State) (j : Nat) {f : Job → Job} (h : (f (s.job j)).run = (s.job j).run) : s.KeepsJobRuns (s.modJob j f) := by
  intro i
  by_cases hi : i = j
  · rw [hi, State.job_modJob, h]
  · rw [State.modJob, State.job_setJob_ne _ _ hi]

theorem setCounter (s : State) (j n : Nat) (c : Counter) : s.KeepsJobRuns (s.setCounter j n c) := modJob s j rfl

theorem phaseCall (s : State) (j : Nat) : s.KeepsJobRuns (s.phaseCall j) := (modJob s j rfl).trans (of_jobs (Asks.postAll _ _).jobs)

theorem dropForwards (s : State) (j : Nat) : s.KeepsJobRuns (s.dropForwards j) := by
  refine trans (of_jobs ?_) (modJob _ j rfl)
  exact List.foldlRecOn _ _ (motive := fun t : State => t.jobs = s.jobs) rfl fun _ ht _ _ => ht

theorem releaseLaunch (s : State) (j n : Nat) : s.KeepsJobRuns (s.releaseLaunch j n) := by
  refine of_jobs ?_
  unfold State.releaseLaunch
  dsimp only
  split <;> rfl

theorem counterStep (s : State) (j : Nat) (e : CEvent) : s.KeepsJobRuns (s.counterStep j e).1 := by
  cases e with
  | complete n =>
    simp only [State.counterStep]
    split
    · split
      · exact refl s
      · exact (modJob s j rfl).trans (ite (phaseCall _ j) (refl _))
    · exact refl s
  | finish n =>
    simp only [State.counterStep]
    have hwake (t : State) (r : Nat) (p : Prop) [Decidable p] : t.KeepsJobRuns ((if p then t.trace j r else t).wakeCounter j n) :=
      of_jobs ((KeepsGangs.ite (.trace t j r) (.refl t)).trans (.wakeCounter _ j n)).jobs
    have hdrop (t : State) (p : Prop) [Decidable p] : t.KeepsJobRuns (if p then t.dropForwards j else t) := ite (dropForwards t j) (refl t)
    exact (setCounter s j n (s.counter j n).finished).trans ((hwake _ _ _).trans (hdrop _ _))
  | signal n =>
    simp only [State.counterStep]
    split
    · exact setCounter s j n _
    · exact setCounter s j n _
    · split <;> exact setCounter s j n _
    · exact refl s
  | member n =>
    simp only [State.counterStep]
    split
    · exact setCounter s j n _
    · exact refl s
  | release n =>
    simp only [State.counterStep]
    split
    · exact refl s
    · split
      · exact setCounter s j n _
      · exact (setCounter s j n _).trans (releaseLaunch _ j n)

theorem runCounters (f : Nat) (s : State) (j : Nat) (es : List CEvent) : s.KeepsJobRuns (s.runCounters f j es) := by
  induction f generalizing s es with
  | zero => exact refl s
  | succ f ih =>
    cases es with
    | nil => exact refl s
    | cons e es => exact (counterStep s j e).trans (ih _ _)

theorem counters (s : State) (j : Nat) (es : List CEvent) : s.KeepsJobRuns (s.counters j es) := runCounters _ s j es

end State.KeepsJobRuns

/-! ### QUIESCE (R372, R374, R393) -/

/-- The engines of a job go on without a change of the jobs. -/
theorem State.jobs_enginesGo (s : State) (j : Nat) : (s.enginesGo j).jobs = s.jobs := by
  unfold enginesGo
  dsimp only
  rw [(Asks.foldl (fun t d => Asks.post t 0 _) _ _).jobs, (Asks.redeal _).jobs]
  refine List.foldlRecOn _ _ (motive := fun t : State => t.jobs = s.jobs) rfl fun t ht c _ => ?_
  refine List.foldlRecOn _ _ (motive := fun t : State => t.jobs = s.jobs) ?_ fun u hu x _ => ?_
  · rw [← ht, (Asks.foldl (fun t o => .ite (.post t _ _) (.ite (.post t _ _) (.refl t))) _ _).jobs, (Asks.postAll _ _).jobs]
  · split
    · exact hu
    · exact hu

/-- A job that has been resumed runs. -/
theorem State.run_resumeJob (s : State) (j : Nat) : ((s.resumeJob j).job j).run = .running := by
  unfold resumeJob
  dsimp only
  rw [KeepsJobRuns.counters _ j _ j, job, jobs_enginesGo]
  exact congrArg Job.run (job_modJob _ j _)

theorem State.jobs_waitOn (s : State) (x : SId) (seq : Nat) (reason : ParkReason) (on : ParkOn) : (s.waitOn x seq reason on).jobs = s.jobs :=
  (MovesStrands.gangMark _ x).jobs

theorem State.mem_waitOn (s : State) (x : SId) (seq : Nat) (reason : ParkReason) (on : ParkOn) : (s.waitOn x seq reason on).mem = s.mem :=
  (MovesStrands.gangMark _ x).mem

theorem State.job_beginStop (s : State) (j : Nat) : (s.beginStop j).job j = if (s.job j).run = .running then
    { s.job j with run := .stopping, markers := s.stopEngines j } else s.job j := by
  unfold beginStop
  split
  · rw [(Asks.foldl (fun t e => .post t 0 _) _ _).job, (Asks.foldl (fun t y => .post t 0 _) _ _).job, job_modJob]
  · rfl

/-- A job that QUIESCE stops is being stopped, with a marker in each of its engines' queues. -/
theorem State.job_performQuiesce_stop (s : State) (x : SId) (seq j : Nat) : (s.performQuiesce x seq j 0).job j =
    if (s.job j).run = .running then { s.job j with run := .stopping, markers := (s.endRegion x).stopEngines j } else s.job j := by
  have hjob : (s.endRegion x).job j = s.job j := congrArg (Tab.get Job.empty · j) (KeepsGangs.endRegion s x).jobs
  rw [← hjob, ← job_beginStop, performQuiesce]
  rw [job, post_jobs, jobs_waitOn, ← job]

theorem State.stopping_performQuiesce (s : State) (x : SId) (seq j : Nat) : ((s.performQuiesce x seq j 0).job j).run ≠ .running ∧
    ((s.job j).run = .running → ((s.performQuiesce x seq j 0).job j).run = .stopping ∧
      ((s.performQuiesce x seq j 0).job j).markers = (s.endRegion x).stopEngines j) := by
  rw [job_performQuiesce_stop]
  split
  next => exact ⟨nofun, fun _ => ⟨rfl, rfl⟩⟩
  next hrun => exact ⟨hrun, fun h => absurd h hrun⟩

/-- A job that QUIESCE resumes runs. -/
theorem State.run_performQuiesce_resume (s : State) (x : SId) (seq j : Nat) : ((s.performQuiesce x seq j 1).job j).run = .running := by
  rw [performQuiesce]
  rw [job, post_jobs, jobs_waitOn, ← job, run_resumeJob]

section
variable {s t : State} {c : Ctx} {a b : RField}

/-- The job and the mode that QUIESCE names, where it is well formed (R393, R396). -/
theorem quiesceMode_eq {x : SId} {w : Word} (h : t.quiesceBad x w = none) : quiesceMode w = w.toNat / 2 ^ 32 := by
  unfold State.quiesceBad at h
  dsimp only at h
  split at h
  · cases h
  · rename_i hbad
    simp only [Bool.or_eq_true, decide_eq_true_eq, not_or] at hbad
    obtain ⟨⟨⟨hhigh, -⟩, -⟩, -⟩ := hbad
    unfold quiesceMode
    omega

variable (hi : Issuing s t c) (hclear : t.clear c.sid = true)
include hi hclear

section
variable (hd : decodeTrap {} [gA a] true t c = none) (hok : t.quiesceBad c.sid (c.g (gA a)) = none)
include hd hok

theorem exec_quiesce_delivers (hmode : (c.g (gA a)).toNat / 2 ^ 32 = 2) :
    Passes s ((t.endRegion c.sid).deliver (quiesceJob (c.g (gA a)))) c (.quiesce a) := by
  rw [Passes, exec_quiesce, execQuiesce]
  refine issue_go hi hd ?_
  simp only [hok]
  rw [if_pos ((quiesceMode_eq hok).trans hmode)]
  exact emit_done hclear rfl rfl

/-- QUIESCE in stop or in resume mode parks behind its effect. -/
theorem exec_quiesce_parks {m : Nat} {on : ParkOn} (hmode : (c.g (gA a)).toNat / 2 ^ 32 = m)
    (hm : m = 0 ∧ on = .quiesce (quiesceJob (c.g (gA a))) ∨ m = 1 ∧ on = .ready 0 [] none) :
    Parks s (t.performQuiesce c.sid c.seq (quiesceJob (c.g (gA a))) m) c (.quiesce a) .barrierPhase on := by
  refine Parks.of_issue hi hd (exec_quiesce a s) ?_
  simp only [hok, (quiesceMode_eq hok).trans hmode]
  rw [if_neg (by omega), emitStop_done hclear rfl]
  rcases hm with ⟨rfl, rfl⟩ | ⟨rfl, rfl⟩ <;> rfl

end

/-! ### MIGRATE (R394) -/

theorem exec_migrate_parks (hd : decodeTrap {} [gA a, gB b] true t c = none) (hok : t.migrateBad (c.g (gA a)) (c.g (gB b)) = none) :
    let x := (c.g (gA a)).toNat
    let y := (c.g (gB b)).toNat
    Parks s (((t.endRegion c.sid).waitOn c.sid c.seq .barrierPhase (.migrate x y)).post 0 (.migrationComplete x y)) c (.migrate a b)
      .barrierPhase (.migrate x y) := by
  refine Parks.of_issue hi hd (exec_migrate a b s) ?_
  simp only [hok]
  exact emitStop_done hclear rfl

/-! ### TLBINV (R417) -/

theorem exec_tlbinv_parks (hd : decodeTrap { scope := true } [gA a, gB b] true t c = none) (hlen : c.g (gB b) ≠ 0)
    (hbase : (c.g (gA a)).toNat < 2 ^ 57) (hend : (c.g (gA a)).toNat + (c.g (gB b)).toNat ≤ 2 ^ 57)
    (hstores : (t.strand c.sid).storeBuf = []) :
    Parks s (t.performTlbinv c.sid c.seq (c.g (gA a)) (c.g (gB b)) (c.h.scope.getD 4)) c (.tlbinv a b) .serial
      (t.tlbRemove c.sid (c.g (gA a)).toNat (c.g (gB b)).toNat (c.h.scope.getD 4)).2 := by
  refine Parks.of_issue hi hd (exec_tlbinv a b s) ?_
  dsimp only
  rw [if_neg hlen, if_neg (by simp; omega)]
  refine emitStop_done hclear ?_
  simp only [State.performEffect, hstores]
  rfl

end

theorem clusterDie_clusterOf (n : Nat) : clusterDie (clusterOf n) = coreDie n := by
  unfold clusterDie clusterOf coreDie coreY coreX
  omega

theorem State.tlb_endRegion (s : State) (x : SId) : (s.endRegion x).mem.tlb = s.mem.tlb :=
  (congrArg MemSys.tlb (s.endRegion_asks x).mem).trans (WritesBytes.commitHeld s x _).tlb

/-- The entries that TLBINV leaves: those that its scope does not reach or its range does not meet. -/
theorem State.mem_tlb_performTlbinv (s : State) (x : SId) (seq : Nat) (base len : Word) (scope : Nat) (e : TlbEntry) :
    e ∈ (s.performTlbinv x seq base len scope).mem.tlb ↔ e ∈ s.mem.tlb ∧
      ¬((if scope < 3 then e.cluster = some (clusterOf x.core) else if scope = 3 then e.die = coreDie x.core else True) ∧
        e.va < base.toNat + len.toNat ∧ base.toNat < e.va + e.size) := by
  have hmem : (s.performTlbinv x seq base len scope).mem.tlb =
      (s.endRegion x).mem.tlb.filter fun e => !(s.tlbHit x base.toNat len.toNat scope).contains e :=
    congrArg MemSys.tlb (State.mem_waitOn _ _ _ _ _)
  rw [hmem, s.tlb_endRegion, List.mem_filter]
  refine and_congr_right fun he => ?_
  rw [Bool.not_eq_true', ← Bool.not_eq_true, List.contains_iff_mem, tlbHit, List.mem_filter]
  refine not_congr ?_
  rw [Bool.and_eq_true, tlbOverlap, tlbReach, clusterDie_clusterOf]
  simp only [he, true_and, Bool.and_eq_true, decide_eq_true_eq]
  refine and_congr_left fun _ => ?_
  split
  · exact decide_eq_true_iff
  · split
    · exact decide_eq_true_iff
    · simp

/-- Settles O30: QUIESCE in each mode, MIGRATE and TLBINV, performed at issue. -/
theorem supervisorFormsComplete : Obligations.SupervisorFormsComplete := by
  refine fun s t c a b hi hclear => ⟨fun hd hok => ⟨fun hmode => ?_, fun hmode => ?_, exec_quiesce_delivers hi hclear hd hok⟩,
    fun hd hok => ⟨_, exec_migrate_parks hi hclear hd hok, ⟨_, _⟩, List.mem_append_right _ (List.mem_singleton_self _), rfl⟩,
    fun hd => ⟨fun hlen => ?_, fun hlen hbad => ?_, fun hlen hbase hend hstores => ?_⟩⟩
  · refine ⟨_, exec_quiesce_parks hi hclear hd hok hmode (.inl ⟨rfl, rfl⟩), ?_⟩
    exact t.stopping_performQuiesce _ _ _
  · refine ⟨_, exec_quiesce_parks hi hclear hd hok hmode (.inr ⟨rfl, rfl⟩), ?_⟩
    exact t.run_performQuiesce_resume _ _ _
  · rw [Passes, exec_tlbinv, execTlbinv]
    exact issue_go hi hd (if_pos hlen)
  · rw [exec_tlbinv, execTlbinv]
    refine issue_fault hi hd ?_
    dsimp only
    rw [if_neg hlen, if_pos (by simpa using hbad)]
    rfl
  · exact ⟨_, _, exec_tlbinv_parks hi hclear hd hlen hbase hend hstores, t.mem_tlb_performTlbinv _ _ _ _ _⟩

end Sys2Proof.Machine
end

section
/-! O48: collective steps. -/

namespace Sys2Proof.Machine

/-! ### COLHEAD (R414, R416) -/

@[simp] theorem MemSys.devReg_setDev (m : MemSys) (a : Nat) (v : Word) : (m.setDev a v).devReg a = v := Tab.get_put_self _ _ _ _

theorem State.WritesBytes.devReg {s t : State} (h : s.WritesBytes t) (a : Nat) : t.mem.devReg a = s.mem.devReg a := by
  rw [MemSys.devReg, h.dev, MemSys.devReg]

/-- COLHEAD as a step or software leaves it. -/
theorem State.colHead_setColHead (s : State) (d : Nat) (err : Bool) (n : Nat) :
    (s.setColHead d err n).colHead d = BitVec.ofNat 64 (err.toNat * 2 ^ 63 + n % 2 ^ 32) := MemSys.devReg_setDev _ _ _

theorem State.colErr_setColHead (s : State) (d : Nat) (err : Bool) (n : Nat) : (s.setColHead d err n).colErr d = err := by
  rw [colErr, colHead_setColHead, bitOf, BitVec.toNat_ofNat, beq_eq_decide]
  cases err <;> simp only [Bool.toNat_false, Bool.toNat_true, decide_eq_true_eq, decide_eq_false_iff_not] <;> omega

/-- The number of the next step to run: COLHEAD.IDX (R414). -/
def State.colIdx (s : State) (d : Nat) : Nat := (s.colHead d).toNat % 2 ^ 32

theorem State.colIdx_eq (s : State) (d : Nat) : bitsOf (s.colHead d) 31 0 = s.colIdx d := by
  rw [bitsOf, colIdx]
  simp

theorem State.colIdx_setColHead (s : State) (d : Nat) (err : Bool) (n : Nat) : (s.setColHead d err n).colIdx d = n % 2 ^ 32 := by
  rw [colIdx, colHead_setColHead, BitVec.toNat_ofNat]
  cases err <;> simp only [Bool.toNat_false, Bool.toNat_true] <;> omega

theorem State.colIdx_lt (s : State) (d : Nat) : s.colIdx d < 2 ^ 32 := Nat.mod_lt _ (by decide)

/-- An event record changes no device register (R415). -/
theorem State.colHead_colEvent (s : State) (d : Nat) (r : Rec512) (kind status n : Nat) :
    (s.colEvent d r kind status).colHead n = s.colHead n := (WritesBytes.trace s _ _).devReg _

/-! ### The end of a step (R414, R416) -/

/-- What the end of a step asks of others once COLHEAD is set. -/
def State.colDone (s : State) (d : Nat) (r : Rec512) (status : Nat) : State :=
  let s := s.colEvent d r 1 status
  let s := s.setColHead d (s.colErr d || status ≠ 0) (bitsOf (s.colHead d) 31 0 + 1)
  { s with coll := Tab.put s.coll d Collective.idle }

theorem State.colEnd_asks (s : State) (d : Nat) (r : Rec512) (status : Nat) : (s.colDone d r status).Asks (s.colEnd d r status) :=
  (Asks.foldl (fun t _ => .ite (.post t _ _) (.refl t)) _ _).trans (.ite (.refl _) (.post _ _ _))

/-- The step in progress of a collective engine (R414). -/
def State.colBusy (s : State) (d : Nat) : Option (Rec512 × Nat) := (Tab.get Collective.idle s.coll d).running

section
variable (s : State) (d : Nat) (r : Rec512) (status : Nat)

theorem State.colHead_colEnd : (s.colEnd d r status).colHead d =
    ((s.colEvent d r 1 status).setColHead d (s.colErr d || status ≠ 0) (s.colIdx d + 1)).colHead d := by
  rw [← s.colIdx_eq, colErr, ← s.colHead_colEvent d r 1 status d]
  exact congrArg (MemSys.devReg · _) (s.colEnd_asks d r status).mem

theorem State.colErr_colEnd : (s.colEnd d r status).colErr d = (s.colErr d || status ≠ 0) := by
  rw [colErr, colHead_colEnd]
  exact colErr_setColHead _ _ _ _

theorem State.colIdx_colEnd : (s.colEnd d r status).colIdx d = (s.colIdx d + 1) % 2 ^ 32 := by
  rw [colIdx, colHead_colEnd]
  exact colIdx_setColHead _ _ _ _

theorem State.colBusy_colEnd : (s.colEnd d r status).colBusy d = none := by
  obtain ⟨ds, h⟩ := s.colEnd_asks d r status
  rw [colBusy, h]
  exact congrArg Collective.running (Tab.get_put_self _ _ _ _)

end

/-! ### Posting, starting and watching (R414, R416) -/

section
variable {s : State} {d : Nat}

/-- More steps than the ring holds set ERR. -/
theorem State.writeColtail_full {v : Word} {t : State} (ht : (s.modMem fun m => m.writeDev (colReg d + 8) v) = t)
    (h : 2 ^ t.colLog2 d < t.colPosted d) :
    s.writeColtail d v = (t.colEvent d (t.colStep d) 1 3).setColHead d true (t.colIdx d) := by
  rw [← colIdx_eq, writeColtail]
  rw [ht, if_pos h]

theorem State.writeColtail_posts {v : Word} {t : State} (ht : (s.modMem fun m => m.writeDev (colReg d + 8) v) = t)
    (h : t.colPosted d ≤ 2 ^ t.colLog2 d) : s.writeColtail d v = t.post 0 (.collectiveStepStart d) := by
  rw [writeColtail]
  rw [ht, if_neg (Nat.not_lt.mpr h)]

/-- The state in which a step is in progress (R414, R415). -/
def State.colBegun (s : State) (d : Nat) : State :=
  { s.colEvent d (s.colStep d) 0 0 with coll := Tab.put s.coll d ⟨some (s.colStep d, s.clock.ns)⟩ }

theorem State.colStart_eq (hbusy : s.colBusy d = none) (herr : s.colErr d = false) (hposted : s.colPosted d ≠ 0) (hd : d < 8)
    (hrun : (s.job (stepJob (s.colStep d))).run = .running) : s.colStart d =
      if ((s.colBegun d).sectorMarks ((s.colBegun d).colStepAt d) 64).any id then (s.colBegun d).colEnd d (s.colStep d) 2
      else if stepRecordBad (s.colStep d) then (s.colBegun d).colEnd d (s.colStep d) 3
      else if stepWdog (s.colStep d) = 0 then s.colBegun d
      else (s.colBegun d).post ((s.colBegun d).ccFor (stepWdog (s.colStep d))) (.watchdogExpiry d) := by
  rw [colBusy] at hbusy
  unfold colStart
  dsimp only
  rw [if_neg (by simp [hbusy, herr, hposted, hrun, hd])]
  rfl

/-- A step that begins asks at most for its watchdog. -/
theorem State.colStart_begins (hbusy : s.colBusy d = none) (herr : s.colErr d = false) (hposted : s.colPosted d ≠ 0) (hd : d < 8)
    (hrun : (s.job (stepJob (s.colStep d))).run = .running)
    (hgood : ((s.colBegun d).sectorMarks ((s.colBegun d).colStepAt d) 64).any id = false) (hrec : stepRecordBad (s.colStep d) = false) :
    (s.colBegun d).Asks (s.colStart d) := by
  rw [colStart_eq hbusy herr hposted hd hrun, if_neg (ne_true_of_eq_false hgood), if_neg (ne_true_of_eq_false hrec)]
  exact .ite (.refl _) (.post _ _ _)

theorem State.colBusy_colBegun : (s.colBegun d).colBusy d = some (s.colStep d, s.clock.ns) :=
by
  simp only [colBusy, colBegun, Tab.get_put_self]

/-- A step whose watchdog has run out ends with status 1. -/
theorem State.watchdog_expires {q : Rec512} {t : Nat} (hbusy : s.colBusy d = some (q, t)) (hset : stepWdog q ≠ 0)
    (hover : t + stepWdog q ≤ s.clock.ns) : s.watchdog d = (s.colEvent d q 2 1).colEnd d q 1 := by
  rw [colBusy] at hbusy
  simp only [watchdog, hbusy]
  rw [if_neg hset, if_neg (Nat.not_lt.mpr hover)]

theorem State.colFinish_done {q : Rec512} {t : Nat} {bs : List Byte} {poison : Bool} {u : State} (hbusy : s.colBusy d = some (q, t))
    (hrun : s.colRun d q bs poison = .inl u) : s.colFinish d bs poison = u.colEnd d q 0 := by
  rw [colBusy] at hbusy
  simp only [colFinish, hbusy, hrun]

theorem State.colFinish_fails {q : Rec512} {t n : Nat} {bs : List Byte} {poison : Bool} (hbusy : s.colBusy d = some (q, t))
    (hrun : s.colRun d q bs poison = .inr n) : s.colFinish d bs poison = s.colEnd d q n := by
  rw [colBusy] at hbusy
  simp only [colFinish, hbusy, hrun]

end

/-- Settles O48: each step of a collective engine, and what its end leaves of COLHEAD. -/
theorem collectiveSteps : Obligations.CollectiveSteps := by
  refine fun s d v bs poison => ⟨⟨fun h => ?_, fun h => ?_⟩, ?_, fun hbusy herr hposted hd hrun => ⟨fun hbad => ?_, fun hgood hbad => ?_,
    fun hgood hrec => ?_⟩, fun q t hbusy => ⟨fun u hrun => ?_, fun n hrun => ?_, fun hset hover => ?_⟩, fun _ q n =>
      ⟨s.colBusy_colEnd d q n, s.colErr_colEnd d q n, s.colIdx_colEnd d q n⟩⟩
  · rw [exec_coltailWrite, execColtailWrite, State.writeColtail_posts rfl h]
  · refine ⟨_, by rw [exec_coltailWrite, execColtailWrite, State.writeColtail_full rfl h], State.colErr_setColHead _ _ _ _, ?_⟩
    exact (State.colIdx_setColHead _ _ _ _).trans (Nat.mod_eq_of_lt (State.colIdx_lt _ _))
  · refine ⟨s.clearColErr d, by rw [exec_colheadErrClear, execColheadErrClear], ?_, ?_, rfl⟩
    · exact State.colErr_setColHead s d false _
    · change (s.clearColErr d).colIdx d = s.colIdx d
      rw [State.clearColErr, State.colIdx_eq]
      exact (State.colIdx_setColHead _ _ _ _).trans (Nat.mod_eq_of_lt (State.colIdx_lt _ _))
  · rw [exec_collectiveStepStart, execCollectiveStepStart, State.colStart_eq hbusy herr hposted hd hrun]
    exact congrArg _ (if_pos hbad)
  · rw [exec_collectiveStepStart, execCollectiveStepStart, State.colStart_eq hbusy herr hposted hd hrun]
    exact congrArg _ ((if_neg (ne_true_of_eq_false hgood)).trans (if_pos hbad))
  · have hasks := State.colStart_begins hbusy herr hposted hd hrun hgood hrec
    refine ⟨_, by rw [exec_collectiveStepStart, execCollectiveStepStart], ?_, hasks.mem⟩
    obtain ⟨ds, h⟩ := hasks
    rw [h]
    exact s.colBusy_colBegun
  · rw [exec_collectiveStepEnd, execCollectiveStepEnd, State.colFinish_done hbusy hrun]
  · rw [exec_collectiveStepEnd, execCollectiveStepEnd, State.colFinish_fails hbusy hrun]
  · rw [exec_watchdogExpiry, execWatchdogExpiry, State.watchdog_expires hbusy hset hover]

end Sys2Proof.Machine
end

section
/-! O49: Madder, the clocks, device reset and attestation. -/

namespace Sys2Proof.Machine

/-! ### Madder (R425, R426) -/

theorem MemSys.beside_writeDev (m : MemSys) (a : Nat) (x : Word) : ∃ dev, m.writeDev a x = { m with dev := dev } := by
  unfold writeDev
  split
  · exact ⟨_, rfl⟩
  · exact ⟨_, rfl⟩

theorem State.clearMadder_eq (s : State) (d : Nat) (v : Word) :
    (s.clearMadder d v).mem.bins = s.mem.bins.filter (fun e => e.1 / 65536 ≠ d) ∧ (s.clearMadder d v).mem.cells = s.mem.cells := by
  obtain ⟨dev, h⟩ := s.mem.beside_writeDev (madReg d) v
  rw [clearMadder, modMem_mem, h]
  exact ⟨rfl, rfl⟩

/-- The highest of the rows, where there is one. -/
theorem foldl_max_getD (rows : List Nat) (o : Option Nat) (h : rows ≠ [] ∨ o ≠ none) (d : Nat) :
    (rows.foldl (fun m n => some (Nat.max n (m.getD 0))) o).getD d = rows.foldl Nat.max (o.getD 0) := by
  induction rows generalizing o with
  | nil =>
    obtain ⟨v, rfl⟩ := Option.ne_none_iff_exists'.mp (h.resolve_left (absurd rfl))
    rfl
  | cons n rows ih =>
    rw [List.foldl_cons, List.foldl_cons, ih _ (.inr (Option.some_ne_none _)), Option.getD_some]
    exact congrArg (rows.foldl Nat.max) (Nat.max_comm n _)

section
variable {s : State} {x : SId}

/-- The bin that a strand's sample counts in: of its next group and of its slot's highest state (R426). -/
def State.sampleBin (s : State) (x : SId) : Nat :=
  let engine := madReg (coreDie x.core)
  let base := bitsOf (s.mem.devReg (engine + 8)) 56 0
  let p := (s.strand x).groupPc.toNat
  let bucket := if p < base then 4095 else Nat.min 4095 ((p - base) / 2 ^ bitsOf (s.mem.devReg engine) 61 56)
  let rows := s.slotRows x (s.clock.cc - (s.strand x).base)
  coreDie x.core * 65536 + 16 * bucket + if rows = [] then (Config.unlistedSlot s.clock.cc).toNat else rows.foldl Nat.max 0

/-- One more than a count, as far as its bin holds. -/
def binNext (old : BitVec 32) : BitVec 32 := BitVec.ofNat 32 (Nat.min (old.toNat + 1) (2 ^ 32 - 1))

theorem toNat_binNext (old : BitVec 32) : (binNext old).toNat = Nat.min (old.toNat + 1) (2 ^ 32 - 1) := by
  rw [binNext, BitVec.toNat_ofNat]
  refine Nat.mod_eq_of_lt ?_
  exact (Nat.min_le_right (old.toNat + 1) (2 ^ 32 - 1)).trans_lt (by decide)

/-- A count never returns to 0, which no table of bins lists. -/
theorem binNext_ne_zero (old : BitVec 32) : binNext old ≠ 0 := by
  intro h
  have h := (toNat_binNext old).symm.trans (congrArg BitVec.toNat h)
  rw [show Nat.min = min from rfl, Nat.min_def] at h
  change (if _ then old.toNat + 1 else 2 ^ 32 - 1) = 0 at h
  split at h
  · exact absurd h (Nat.succ_ne_zero _)
  · exact absurd h (by decide)

theorem State.sample_eq {per : Nat} (hper : s.sampling x = some per) (hcc : s.sampleCc x per = s.clock.cc) : s.sample x =
    (s.modMem fun m => { m with bins := Tab.put m.bins (s.sampleBin x) (binNext (Tab.get 0 m.bins (s.sampleBin x))) }).modStrand x
      fun st => { st with sampled := s.clock.cc + 1 } := by
  have hrow : ((s.slotRows x (s.clock.cc - (s.strand x).base)).foldl (fun m n => some (Nat.max n (m.getD 0))) (none : Option Nat)).getD
      (Config.unlistedSlot s.clock.cc).toNat = if s.slotRows x (s.clock.cc - (s.strand x).base) = [] then
        (Config.unlistedSlot s.clock.cc).toNat else (s.slotRows x (s.clock.cc - (s.strand x).base)).foldl Nat.max 0 := by
    split
    next h => rw [h]; rfl
    next h => exact foldl_max_getD _ none (.inl h) _
  have hset (t : Tab (BitVec 32)) (k : Nat) (old : BitVec 32) : Tab.set 0 t k (binNext old) = Tab.put t k (binNext old) :=
    if_neg (binNext_ne_zero old)
  unfold sample
  simp only [hper, hcc, hrow]
  rw [if_neg (not_not.mpr rfl)]
  simp only [← hset]
  rfl

end

/-! ### What register writes keep as a device boots (R431) -/

/-- Jobs, firmware, partitions and what the strands do are as they were. -/
structure State.KeepsBoot (s t : State) : Prop where
  jobs : t.jobs = s.jobs
  fw : t.fw = s.fw
  part : ∀ c, (t.core c).part = (s.core c).part
  run : ∀ x, (t.strand x).run = (s.strand x).run

namespace State.KeepsBoot
variable {s t u : State}

theorem refl (s : State) : s.KeepsBoot s := ⟨rfl, rfl, fun _ => rfl, fun _ => rfl⟩

theorem trans (h : s.KeepsBoot t) (h' : t.KeepsBoot u) : s.KeepsBoot u :=
  ⟨h'.jobs.trans h.jobs, h'.fw.trans h.fw, fun c => (h'.part c).trans (h.part c), fun x => (h'.run x).trans (h.run x)⟩

theorem ite {p : Prop} [Decidable p] (ht : s.KeepsBoot t) (hu : s.KeepsBoot u) : s.KeepsBoot (if p then t else u) := by
  split <;> assumption

theorem asks (h : s.Asks t) : s.KeepsBoot t :=
  ⟨h.jobs, by obtain ⟨ds, rfl⟩ := h; rfl, fun c => congrArg Core.part (h.core c), fun x => congrArg Strand.run (h.strand x)⟩

theorem bytes (h : s.WritesBytes t) : s.KeepsBoot t :=
  ⟨h.jobs, h.fw, h.part, fun x => congrArg (fun l => (Tab.get Strand.reset l x.strand).run) (h.strands x.core)⟩

theorem modMem (s : State) (f : MemSys → MemSys) : s.KeepsBoot (s.modMem f) := ⟨rfl, rfl, fun _ => rfl, fun _ => rfl⟩

theorem modStrand (s : State) (x : SId) {f : Strand → Strand} (h : (f (s.strand x)).run = (s.strand x).run) :
    s.KeepsBoot (s.modStrand x f) := by
  refine ⟨rfl, rfl, fun c => s.part_modStrand x f c, fun y => ?_⟩
  by_cases hy : y = x
  · rw [hy, State.strand_modStrand, h]
  · rw [State.strand_modStrand_ne s f hy]

/-- STOP and GO of DBGCTL leave an idle strand idle. -/
theorem writeDbgctl {x : SId} (hidle : (s.strand x).run = .idle) (v : Word) : s.KeepsBoot (s.writeDbgctl x v) := by
  have hgo {t : State} (ht : (t.strand x).run = .idle) : t.KeepsBoot (t.go x) := by
    have hon : t.goOn x = t := by rw [State.goOn, ht]
    have hstopped : t.goStopped x = t.post 0 (.quiesceSignalArrival x) := by rw [State.goStopped, ht]; rfl
    rw [State.go, hon, hstopped]
    have harrays : (t.post 0 (.quiesceSignalArrival x)).Asks ((t.post 0 (.quiesceSignalArrival x)).arraysGo x) :=
      .foldl (fun t _ => .ite (.refl t) (.postAll t _)) _ _
    exact asks (.trans (.post _ _ _) (.ite harrays (.refl _)))
  have hset : s.KeepsBoot (s.setDbg x v) := modStrand s x rfl
  have hstop (t : State) : t.KeepsBoot (t.askStop x) := modStrand t x (by split <;> rfl)
  exact hset.trans (.trans (.ite (hgo ((hset.run x).trans hidle)) (refl _)) (.ite (hstop _) (refl _)))

theorem writeColtail (s : State) (d : Nat) (v : Word) : s.KeepsBoot (s.writeColtail d v) :=
  (modMem s _).trans (.ite ((bytes (.trace _ _ _)).trans (modMem _ _)) (asks (.post _ _ _)))

/-- A write of a device register, while no strand is stopped (R382, R431). -/
theorem writeRegister {a : Nat} (ha : isDev a = true) (hidle : ∀ x, (s.strand x).run = .idle) (v : Word) :
    s.KeepsBoot (s.writeRegister a v) := by
  have hin : ¬outsideBase ≤ a := by
    rw [isDev, Bool.and_eq_true, decide_eq_true_iff, decide_eq_true_iff] at ha
    exact Nat.not_le.mpr (ha.2.trans (by decide))
  have hclosed : s.dbgWrite a v = s := by
    unfold State.dbgWrite
    simp [hidle, Run.isStopped]
  rw [State.writeRegister, if_neg hin, hclosed]
  exact .ite (.ite (writeDbgctl (hidle _) v) (refl s)) (.ite (writeColtail s _ v)
    (.ite (.ite ((modMem s _).trans (asks (.post _ _ _))) (refl s)) (.ite (modMem s _) (modMem s _))))

/-- The writes of a boot's firmware. -/
theorem bootRegs (regs : List (Nat × Word)) (hidle : ∀ x, (s.strand x).run = .idle) :
    s.KeepsBoot (regs.foldl (fun t r => if isDev r.1 then t.writeRegister r.1 r.2 else t) s) :=
  List.foldlRecOn regs _ (motive := s.KeepsBoot) (refl s) fun t ht r _ => by
    split
    next hr => exact ht.trans (writeRegister hr (fun x => (ht.run x).trans (hidle x)) r.2)
    next => exact ht

end State.KeepsBoot

/-! ### Device reset (R428, R431) -/

theorem Tab.get_map {α : Type} (d v : α) (l : List Nat) (i : Nat) : Tab.get d (l.map fun c => (c, v)) i = if i ∈ l then v else d := by
  induction l with
  | nil => rfl
  | cons c l ih =>
    rw [List.map_cons, Tab.get, Tab.find?, apply_ite (Option.getD · d), ← Tab.get, ih]
    split <;> simp [*]

/-- The device as its accepted firmware begins (R431). -/
def State.booting (s : State) (i : Image) (boot : Boot) : State :=
  { State.reset with
    out := s.out, choices := s.choices,
    fw := { Firmware.reset with flash := some i, measured := some (Config.shake256 i.bytes) },
    cores := allCores.map fun c => (c, { Core.reset with svec := boot.svec &&& vecMask }) }

/-- The device that waits in recovery (R428). -/
def State.recovering (s : State) (i : Image) : State :=
  { State.reset with out := s.out, choices := s.choices, fw := { Firmware.reset with flash := some i, recovery := true } }

section
variable {s : State} {flash i : Image} {boot : Boot}

theorem mem_allCores {c : Nat} : c ∈ allCores ↔ coreIdOk c = true := by
  simp only [allCores, List.mem_filter, List.mem_range, and_iff_right_iff_imp]
  intro h
  simp only [coreIdOk, Bool.and_eq_true, decide_eq_true_eq] at h
  exact h.1.1

theorem State.core_booting (c : Nat) : (s.booting i boot).core c =
    if coreIdOk c then { Core.reset with svec := boot.svec &&& vecMask } else Core.reset := by
  rw [State.core, State.booting, Tab.get_map]
  simp only [mem_allCores]

theorem State.deviceReset_accepted (h : imageAccepted (s.fw.flash.getD flash) = true) :
    s.deviceReset flash boot = (s.booting (s.fw.flash.getD flash) boot).startBoot boot := if_pos h

theorem State.deviceReset_refused (h : imageAccepted (s.fw.flash.getD flash) = false) :
    s.deviceReset flash boot = s.recovering (s.fw.flash.getD flash) :=
  if_neg (Bool.eq_false_iff.mp h)

theorem imageAccepted_iff : imageAccepted i = true ↔ i.signed = true ∧ Config.minVersion ≤ i.version := by
  rw [imageAccepted, Bool.and_eq_true, decide_eq_true_iff]

/-- What firmware's writes leave of the device at boot. -/
def State.bootSet (s : State) (i : Image) (boot : Boot) : State :=
  boot.regs.foldl (fun t r => if isDev r.1 then t.writeRegister r.1 r.2 else t) (s.booting i boot)

theorem State.keepsBoot_bootSet : (s.booting i boot).KeepsBoot (s.bootSet i boot) := by
  refine .bootRegs boot.regs fun x => ?_
  rw [State.strand, core_booting]
  split <;> rfl

theorem State.rotation_bootSet (x : SId) : (s.bootSet i boot).rotation x = 8 := by
  rw [State.rotation, keepsBoot_bootSet.part, core_booting]
  split <;> rfl

theorem State.startBoot_none (h : boot.runtime = none ∨ ∃ r, boot.runtime = some r ∧ imageAccepted r = false) :
    (s.booting i boot).startBoot boot = s.bootSet i boot := by
  unfold State.startBoot
  obtain h | ⟨r, h, hr⟩ := h
  · rw [h]; rfl
  · rw [h]; exact if_pos (by rw [hr]; rfl)

/-- The device with its runtime's image in memory. -/
def State.withRuntime (s : State) (i : Image) (b : Boot) (r : Image) : State :=
  let t : State := { s.bootSet i b with fw := { (s.bootSet i b).fw with runtime := some (Config.shake256 r.bytes) } }
  if isHbm (b.place + r.bytes.length) then t.write b.place r.bytes else t

theorem State.startBoot_some {r : Image} (h : boot.runtime = some r) (hr : imageAccepted r = true) :
    (s.booting i boot).startBoot boot = boot.starts.foldl (fun t p => t.startRuntime p.1 p.2) (s.withRuntime i boot r) := by
  unfold State.startBoot
  rw [h]
  exact if_neg (by simp [hr])

theorem State.writesBytes_withRuntime (r : Image) :
    State.WritesBytes { s.bootSet i boot with fw := { (s.bootSet i boot).fw with runtime := some (Config.shake256 r.bytes) } }
      (s.withRuntime i boot r) := .ite (.write _ _ _) (.refl _)

theorem State.fw_withRuntime (r : Image) : (s.withRuntime i boot r).fw =
    { Firmware.reset with
      flash := some i, measured := some (Config.shake256 i.bytes), runtime := some (Config.shake256 r.bytes) } := by
  rw [(writesBytes_withRuntime r).fw, keepsBoot_bootSet.fw]
  rfl

theorem State.jobs_withRuntime (r : Image) : (s.withRuntime i boot r).jobs = [] :=
  (writesBytes_withRuntime r).jobs.trans keepsBoot_bootSet.jobs

theorem State.rotation_withRuntime (r : Image) (x : SId) : (s.withRuntime i boot r).rotation x = 8 := by
  rw [State.rotation, (writesBytes_withRuntime r).part]
  exact rotation_bootSet x

/-- The strands that start touch neither the jobs nor the firmware. -/
theorem State.foldl_startRuntime (ps : List (SId × Word)) (t : State) :
    (ps.foldl (fun t p => t.startRuntime p.1 p.2) t).jobs = t.jobs ∧ (ps.foldl (fun t p => t.startRuntime p.1 p.2) t).fw = t.fw :=
  List.foldlRecOn ps _ (motive := fun u : State => u.jobs = t.jobs ∧ u.fw = t.fw) ⟨rfl, rfl⟩ fun u hu p _ => by
    unfold startRuntime
    split
    · exact hu
    · exact hu

theorem State.strand_startRuntime {x : SId} (hx : coreIdOk x.core = true) (hr : x.strand + 1 < s.rotation x) (pc : Word) :
    (s.startRuntime x pc).strand x = { Strand.reset with
      run := .running, pc := pc, phase := x.strand,
      regs := { Regs.reset with csr := { Csrs.reset with status := { Status.reset with priv := true } } } } := by
  rw [startRuntime, hx, if_neg (by simpa using hr), strand_setStrand]

/-- Without an accepted runtime, firmware's registers are all there is. -/
theorem State.deviceReset_bare (h : imageAccepted (s.fw.flash.getD flash) = true)
    (hb : boot.runtime = none ∨ ∃ r, boot.runtime = some r ∧ imageAccepted r = false) :
    s.deviceReset flash boot = s.bootSet (s.fw.flash.getD flash) boot := by
  rw [deviceReset_accepted h, startBoot_none hb]

theorem State.deviceReset_runtime {r : Image} (h : imageAccepted (s.fw.flash.getD flash) = true)
    (hb : boot.runtime = some r) (hr : imageAccepted r = true) : s.deviceReset flash boot =
      boot.starts.foldl (fun t p => t.startRuntime p.1 p.2) (s.withRuntime (s.fw.flash.getD flash) boot r) := by
  rw [deviceReset_accepted h, startBoot_some hb hr]

/-- What a boot leaves of the jobs and firmware (R431). -/
theorem State.fw_deviceReset (h : imageAccepted (s.fw.flash.getD flash) = true) :
    (s.deviceReset flash boot).jobs = [] ∧ ∃ run, (s.deviceReset flash boot).fw = { Firmware.reset with
      flash := some (s.fw.flash.getD flash), measured := some (Config.shake256 (s.fw.flash.getD flash).bytes), runtime := run } := by
  by_cases hb : ∃ r, boot.runtime = some r ∧ imageAccepted r = true
  · obtain ⟨r, hb, hr⟩ := hb
    rw [deviceReset_runtime h hb hr]
    obtain ⟨hjobs, hfw⟩ := foldl_startRuntime boot.starts (s.withRuntime (s.fw.flash.getD flash) boot r)
    exact ⟨hjobs.trans (jobs_withRuntime r), _, hfw.trans (fw_withRuntime r)⟩
  · have hnone : boot.runtime = none ∨ ∃ r, boot.runtime = some r ∧ imageAccepted r = false := by
      cases hc : boot.runtime with
      | none => exact .inl rfl
      | some r => exact .inr ⟨r, rfl, Bool.eq_false_iff.mpr fun hr => hb ⟨r, hc, hr⟩⟩
    rw [deviceReset_bare h hnone]
    exact ⟨keepsBoot_bootSet.jobs, none, keepsBoot_bootSet.fw⟩

theorem State.strand_deviceReset {r : Image} {y : SId} {pc : Word} (h : imageAccepted (s.fw.flash.getD flash) = true)
    (hb : boot.runtime = some r) (hr : imageAccepted r = true) (hs : boot.starts = [(y, pc)])
    (hy : coreIdOk y.core = true) (hn : y.strand < 7) : (s.deviceReset flash boot).strand y = { Strand.reset with
      run := .running, pc := pc, phase := y.strand,
      regs := { Regs.reset with csr := { Csrs.reset with status := { Status.reset with priv := true } } } } := by
  rw [deviceReset_runtime h hb hr, hs]
  exact strand_startRuntime hy (by rw [rotation_withRuntime]; omega) pc

theorem State.core_deviceReset {c : Nat} (h : imageAccepted (s.fw.flash.getD flash) = true)
    (hb : boot.runtime = none ∨ ∃ r, boot.runtime = some r ∧ imageAccepted r = false) (hregs : boot.regs = []) (hc : coreIdOk c = true) :
    (s.deviceReset flash boot).core c = { Core.reset with svec := boot.svec &&& vecMask } := by
  rw [deviceReset_bare h hb, bootSet, hregs]
  exact core_booting c |>.trans (if_pos hc)

end

/-! ### Clocks (R423, R429) -/

section
variable (c : Clock) (lock : Bool) (offset : BitVec 32) (slew : Int) (forward : Nat)

theorem Clock.ppm_discipline :
    -200 ≤ (c.discipline lock offset slew forward).ppm ∧ (c.discipline lock offset slew forward).ppm ≤ 200 ∧
      (-200 ≤ slew → slew ≤ 200 → (c.discipline lock offset slew forward).ppm = slew) := by
  simp only [discipline]
  omega

theorem Clock.ns_discipline : (c.discipline lock offset slew forward).ns =
    if lock = true ∧ c.lock = false then c.ns + forward else c.ns := by
  simp only [discipline, Bool.and_eq_true, Bool.not_eq_true']

end

/-! ### Before firmware has booted (R428, R431) -/

section
variable {s : State}

theorem State.booted_unmeasured (h : s.fw.measured = none) : s.booted = false := by
  rw [booted, h]; rfl

theorem State.en_writeQcfg_unbooted (h : s.booted = false) (q : Nat) (w : Word) : ((s.writeQcfg q w).queue q).en = false := by
  rw [writeQcfg, h, Bool.and_false]
  dsimp only
  split <;> rw [queue_setQueue]

end

/-! ### Attestation (R430) -/

/-- What an attestation report signs: the nonce, the measurements, the serial number and the version. -/
def State.reportBody (s : State) (nonce : Rec512) : List Byte :=
  leBytes 64 nonce.toNat ++ leBytes 64 (s.fw.measured.getD 0).toNat ++ leBytes 64 (s.fw.runtime.getD 0).toNat ++
    leBytes 8 Config.serialNumber ++ leBytes 8 ((s.fw.flash.map (·.version)).getD 0)

theorem State.attest_eq {s : State} (h : s.fw.recovery = false) (nonce : Rec512) : s.attest nonce =
    s.answer (.report (s.reportBody nonce ++ Config.ed448Sign (Config.shake256Key Config.fusedSecret) (s.reportBody nonce))) := by
  rw [attest, h]
  rfl

/-- Settles O49: an invariant of the registers' writes during boot, and each device step as its definition's branch says it. -/
theorem deviceSteps : Obligations.DeviceSteps := by
  unfold Obligations.DeviceSteps
  intro s d watts celsius forward v x lock offset slew flash image boot nonce
  refine ⟨?_, ?_, ?_, ?_, ?_, ?_, ?_, ?_, ?_⟩
  · obtain ⟨hbins, hcells⟩ := s.clearMadder_eq d v
    refine ⟨_, exec_madcfgClr d v s, fun e he => ?_, fun n hn => ?_, hcells⟩
    · rw [hbins] at he
      exact of_decide_eq_true (List.mem_filter.mp he).2
    · rw [hbins, Tab.get, Tab.find?_filter (fun k => decide (k / 65536 ≠ d)), if_pos (decide_eq_true hn)]
      rfl
  · intro per hper hcc
    refine ⟨_, by rw [exec_madderSample, execMadderSample, State.sample_eq hper hcc], ?_, fun m hm => ?_, ?_⟩
    · exact (congrArg BitVec.toNat (Tab.get_put_self _ _ _ _)).trans (toNat_binNext _)
    · exact Tab.get_put_ne _ _ _ hm
    · rw [State.strand_modStrand]
      rfl
  · intro hrec
    refine ⟨by rw [exec_ptpMessage, execPtpMessage, if_pos hrec], ?_⟩
    rw [exec_registerWrite, execRegisterWrite, State.writeRegister, if_pos (by decide)]
    exact congrArg _ (if_pos hrec)
  · intro hnone q j cores counters part channels phase
    have hboot := State.booted_unmeasured hnone
    exact ⟨⟨_, exec_qcfgWrite q v s, s.en_writeQcfg_unbooted hboot q v⟩,
      by rw [exec_jobCreate, execJobCreate, State.createJob_unbooted hboot]⟩
  · intro hrec
    obtain ⟨hlow, hhigh, hslew⟩ := s.clock.ppm_discipline lock offset slew forward
    refine ⟨{ s with clock := s.clock.discipline lock offset slew forward }, ?_, rfl, rfl, rfl, hlow, hhigh, hslew,
      s.clock.ns_discipline lock offset slew forward, fun ho => if_neg ho⟩
    rw [exec_ptpMessage, execPtpMessage, hrec]
    rfl
  · refine ⟨_, exec_clampSample watts celsius s, rfl, rfl, rfl, ?_⟩
    simp only [State.clamp, Bool.or_eq_true, decide_eq_true_eq]
  · refine ⟨s.deviceReset flash boot, exec_deviceReset _ _ _ _ s, ?_⟩
    simp only [← imageAccepted_iff, Bool.not_eq_true]
    cases hok : imageAccepted (s.fw.flash.getD flash) with
    | true =>
      obtain ⟨hjobs, run, hfw⟩ := State.fw_deviceReset (boot := boot) hok
      refine ⟨hjobs, by rw [hfw], fun _ => ⟨by rw [hfw]; rfl, by rw [hfw], fun r hr hgood => ⟨?_, fun y pc hs hy hn => ?_⟩,
        fun hb => ⟨?_, fun hregs => ⟨?_, fun c hc => State.core_deviceReset hok hb hregs hc⟩⟩⟩, fun h => nomatch h⟩
      · rw [State.deviceReset_runtime hok hr hgood, (State.foldl_startRuntime _ _).2, State.fw_withRuntime]
      · rw [State.strand_deviceReset hok hr hgood hs hy hn]
        exact ⟨rfl, rfl, rfl, rfl⟩
      · rw [State.deviceReset_bare hok hb, State.keepsBoot_bootSet.fw]
        rfl
      · rw [State.deviceReset_bare hok hb, State.bootSet, hregs]
        rfl
    | false =>
      rw [State.deviceReset_refused hok]
      exact ⟨rfl, rfl, fun h => absurd h Bool.false_ne_true, fun _ => ⟨rfl, rfl, rfl, rfl, rfl⟩⟩
  · intro hrec
    rw [exec_recoveryImageWrite, execRecoveryImageWrite, State.writeImage, if_pos hrec]
  · intro hrec
    refine ⟨s.reportBody nonce, by rw [exec_attestationRequest, execAttestationRequest, State.attest_eq hrec], ?_, ?_, ?_, ?_⟩ <;>
      simp [State.reportBody, List.take_append, List.drop_append]

end Sys2Proof.Machine
end

section
/-! O46: the steps of pre-emption, migration and debug. -/

namespace Sys2Proof.Machine

/-! ### The signal (R368, R373) -/

/-- The stop vc that the signal fixes for the domain of a strand. -/
def State.stopVc (s : State) (x : SId) : Nat :=
  let st := s.strand x
  if st.gang.isNone || st.drainCc ≠ 0 then
    nextSlot (s.rotation x) st.phase (if st.base ≤ s.clock.cc then st.vcAt s.clock.cc + 1 else 0)
  else roundUp (s.rotation x) (s.clock.cc + 24 - st.base)

/-- A strand to which the signal has given its stop vc t. -/
def Strand.stopAt (t d : Nat) (st : Strand) : Strand := { st with drainT := some t, drainCc := if st.drainCc = 0 then d else 0 }

theorem State.strand_foldl_stopAt (t d : Nat) {y : SId} {ys : List SId} (hy : y ∈ ys) (s : State) :
    ((ys.foldl (fun u z => u.modStrand z (Strand.stopAt t d)) s).strand y).drainT = some t := by
  have hkeep (zs : List SId) (u : State) (hu : (u.strand y).drainT = some t) :
      ((zs.foldl (fun u z => u.modStrand z (Strand.stopAt t d)) u).strand y).drainT = some t :=
    List.foldlRecOn zs _ (motive := fun u : State => (u.strand y).drainT = some t) hu fun u hu z _ => by
      by_cases hz : y = z
      · rw [hz, State.strand_modStrand]; rfl
      · rwa [State.strand_modStrand_ne _ _ hz]
  induction ys generalizing s with
  | nil => cases hy
  | cons z ys ih =>
    rcases List.mem_cons.mp hy with rfl | hy
    · exact hkeep ys _ (by rw [State.strand_modStrand]; rfl)
    · exact ih hy _

section
variable {s : State} {x : SId}

theorem State.runners_alone (hgang : (s.strand x).gang = none) (hrun : (s.strand x).run = .running) : s.runners x = [x] := by
  rw [runners, domain_alone hgang, List.filter_cons_of_pos (by simpa using hrun), List.filter_nil]

theorem State.signal_free (hrun : (s.strand x).run = .running) (hdrain : (s.strand x).drainT = none)
    (hjob : (s.job (s.jobOf x)).run = .stopping)
    (hfree : ∀ y ∈ s.runners x, (s.strand y).regs.csr.status.handling = false) : s.signal x =
      ((s.runners x).foldl (fun u y => u.modStrand y (Strand.stopAt (s.stopVc x) (s.clock.cc + 24))) s).post
        (((s.runners x).foldl (fun u y => u.modStrand y (Strand.stopAt (s.stopVc x) (s.clock.cc + 24))) s).ccTo x (s.stopVc x))
        (.domainStop x) := by
  have hany : ((s.runners x).any fun y => (s.strand y).regs.csr.status.handling) = false := by simpa using hfree
  unfold signal
  rw [if_neg (by simp [hrun, hdrain, hjob]), if_neg (by rw [hany]; exact Bool.false_ne_true)]
  rfl

theorem State.signal_handling (hrun : (s.strand x).run = .running) (hdrain : (s.strand x).drainT = none)
    (hjob : (s.job (s.jobOf x)).run = .stopping) (hgang : (s.strand x).gang = none)
    (hbusy : (s.strand x).regs.csr.status.handling = true) :
    s.signal x = s.modStrand x fun st => { st with drainCc := s.clock.cc + 24 } := by
  unfold signal
  rw [if_neg (by simp [hrun, hdrain, hjob]), runners_alone hgang hrun, if_pos (by simpa using hbusy)]

/-- The strand outside a gang drains from its next slot on (R368). -/
theorem State.signal_alone (hrun : (s.strand x).run = .running) (hdrain : (s.strand x).drainT = none)
    (hjob : (s.job (s.jobOf x)).run = .stopping) (hgang : (s.strand x).gang = none)
    (hfree : (s.strand x).regs.csr.status.handling = false) : s.signal x =
      (s.modStrand x (Strand.stopAt (s.stopVc x) (s.clock.cc + 24))).post ((s.strand x).base + s.stopVc x - s.clock.cc)
        (.domainStop x) := by
  have hrunners := runners_alone hgang hrun
  rw [signal_free hrun hdrain hjob (by rw [hrunners]; simpa using hfree), hrunners, List.foldl_cons, List.foldl_nil, ccTo,
    strand_modStrand]
  rfl

end

/-! ### Markers, and the end of a stop (R371, R372) -/

/-- What a job that is stopping comes to: it stops, or asks for its markers, or stays as it is. -/
theorem State.stopCheck_cases (s : State) (j : Nat) : s.Asks (s.stopCheck j) ∨
    (s.job j).markers = [] ∧ (s.modJob j fun b => { b with run := .stopped }).Asks (s.stopCheck j) := by
  unfold stopCheck
  dsimp only
  split
  · split
    next h => exact .inr ⟨h, .wake _ _⟩
    next => exact .inl (.foldl (fun t _ => .postOnce t _ _) _ _)
  · exact .inl (.refl s)

theorem State.strand_stopCheck (s : State) (j : Nat) (y : SId) : (s.stopCheck j).strand y = s.strand y := by
  obtain h | ⟨-, h⟩ := s.stopCheck_cases j
  · exact h.strand y
  · exact h.strand y

theorem State.mem_stopCheck (s : State) (j : Nat) : (s.stopCheck j).mem = s.mem := by
  obtain h | ⟨-, h⟩ := s.stopCheck_cases j
  · exact h.mem
  · exact h.mem

theorem State.markers_stopCheck (s : State) (j : Nat) : ((s.stopCheck j).job j).markers = (s.job j).markers := by
  obtain h | ⟨-, h⟩ := s.stopCheck_cases j
  · rw [h.job]
  · rw [h.job, job_modJob]

/-- No strand issues and every marker has passed: the job is stopped (R372). -/
theorem State.stopCheck_stops {s : State} {j : Nat} (hrun : (s.job j).run = .stopping) (hmarkers : (s.job j).markers = [])
    (hstill : ∀ y ∈ s.tasksOf j, (s.strand y).run ≠ .running) : ((s.stopCheck j).job j).run = .stopped := by
  have hall : ((s.tasksOf j).all fun y => (s.strand y).run ≠ .running) = true := by simpa using hstill
  unfold stopCheck
  rw [if_pos (by rw [hrun, hall]; rfl), if_pos hmarkers, (Asks.wake _ _).job, job_modJob]

/-! ### The stop of a domain (R369) -/

section
variable {s : State} {x : SId}

/-- A strand that has no write to land and no fault point to pass, once it has settled. -/
def Strand.settled (st : Strand) : Strand := { st with tookLate := [] }

/-- A quiet strand that settles changes in no more than what it has noted of late traps taken. -/
theorem Strand.settle_passed {st : Strand} (hpassed : st.passed = true) (hpending : st.pending = []) (v : Nat) :
    st.settle v = st.settled := by
  simp only [passed, Bool.and_eq_true, List.isEmpty_iff] at hpassed
  obtain ⟨⟨-, hinflight⟩, -⟩ := hpassed
  simp [settle, settled, landTo, landAll, hinflight, hpending]

theorem State.standStill_quiet (h : (s.strand x).quiet = true) :
    s.standStill [x] = s.modStrand x Strand.settled := by
  simp only [Strand.quiet, Bool.and_eq_true, List.isEmpty_iff, Option.isNone_iff_eq_none] at h
  obtain ⟨⟨hpassed, hpending⟩, hpark⟩ := h
  have hsettle : (s.modStrand x fun st => st.settle (st.vcAt s.clock.cc)) = s.modStrand x Strand.settled := by
    rw [modStrand, Strand.settle_passed hpassed hpending]
    rfl
  have hinflight : (s.strand x).inflight = [] := by
    simp only [Strand.passed, Bool.and_eq_true, List.isEmpty_iff] at hpassed
    exact hpassed.1.2
  rw [standStill, List.foldl_cons, List.foldl_nil, hsettle, stopPark, waitDue, strand_modStrand]
  simp only [Strand.settled, hinflight, hpark, List.find?_nil, Option.map_none, Option.none_or]

theorem le_roundUp {n : Nat} (hn : 0 < n) (v : Nat) : v ≤ roundUp n v := by
  have hmod := Nat.div_add_mod (v + n - 1) n
  have hlt := Nat.mod_lt (v + n - 1) hn
  rw [Nat.mul_comm] at hmod
  rw [roundUp]
  omega

theorem State.rotation_modStrand (s : State) (x : SId) (f : Strand → Strand) (y : SId) : (s.modStrand x f).rotation y = s.rotation y :=
  congrArg Part.strands (s.part_modStrand x f y.core)

/-- A quiet strand outside a gang, past its stop vc, drains at the first boundary that it has reached (R369). -/
theorem State.stopDomain_quiet {t : Nat} (hgang : (s.strand x).gang = none) (hrun : (s.strand x).run = .running)
    (hdying : (s.strand x).dying = false) (hheld : (s.strand x).held = 0) (hdrain : (s.strand x).drainT = some t)
    (hquiet : (s.strand x).quiet = true)
    (hpast : (s.strand x).base + roundUp (s.rotation x) (Nat.max t ((s.strand x).vcAt s.clock.cc)) ≤ s.clock.cc) :
    s.stopDomain x = ((s.modStrand x Strand.settled).drained [x]
      (roundUp (s.rotation x) (Nat.max t ((s.strand x).vcAt s.clock.cc)))).stopCheck ((s.modStrand x Strand.settled).jobOf x) := by
  have hreached : ¬s.clock.cc < (s.strand x).ccOf t := by
    have hle := (Nat.le_max_left t ((s.strand x).vcAt s.clock.cc)).trans (le_roundUp (s.rotation_pos x) _)
    exact Nat.not_lt.mpr ((Nat.add_le_add_left hle _).trans hpast)
  have hvc : (Strand.settled (s.strand x)).vcAt s.clock.cc = (s.strand x).vcAt s.clock.cc := rfl
  have hmax : Nat.max t ((Strand.settled (s.strand x)).drainT.getD 0) = t := by
    show Nat.max t ((s.strand x).drainT.getD 0) = t
    rw [hdrain]
    exact Nat.max_self t
  unfold stopDomain
  dsimp only
  rw [hdying, Bool.false_and, if_neg Bool.false_ne_true, hdrain]
  dsimp only
  rw [if_neg (by simp [hrun]), if_neg (by simp [hheld]), if_neg hreached, runners_alone hgang hrun, standStill_quiet hquiet]
  simp only [List.foldl_cons, List.foldl_nil, List.all_cons, List.all_nil, Bool.and_true, strand_modStrand, rotation_modStrand, hmax,
    State.modStrand_clock, hvc]
  exact (if_pos hquiet).trans (if_neg (Nat.not_lt.mpr hpast))

/-- A strand at which a stop ends holds vc v, and VSHIFT has grown since the vc of its stop (R369). -/
theorem State.strand_drained_alone (v : Nat) : ∃ st, (s.drained [x] v).strand x = st ∧ st.run = .drained ∧ st.drainT = some v ∧
    st.pc = (s.strand x).pc ∧ st.regs = (s.strand x).regs.shift (v - (s.strand x).drainT.getD v) := by
  refine ⟨_, rfl, ?_⟩
  rw [drained, List.foldl_cons, List.foldl_nil, strand_modStrand, strand_endRegion]
  exact ⟨rfl, rfl, rfl, rfl⟩

end

/-! ### The move of a core (R377 to R379) -/

/-- Names of core a's strands and scratch, as they stand after its move to core b. -/
def State.renamed (s : State) (a b : Nat) : State :=
  { s with
    cores := s.cores.map fun (c, k) => (c, k.renamed a b), gangs := s.gangs.map fun (g, v) => (g, v.renamed a b),
    woad := s.woad.map fun (n, c) => (n, c.renamed a b),
    agenda := s.agenda.map fun d => d.renamed a b,
    mem := { s.mem with shadow := s.mem.shadow.map fun (l, x) => (l, moveSid a b x) } }

/-- Core b takes what core a held, which forwards to it. -/
def State.handedOver (s : State) (a b : Nat) : State :=
  let k := s.core a
  let old := s.core b
  (s.setCore b { k with svec := old.svec, delays := old.delays, forward := none }).setCore a
    { Core.reset with part := k.part, job := k.job, svec := k.svec, delays := k.delays, forward := some b }

section
variable {s : State} {a b : Nat}

theorem State.core_renamed (c : Nat) : (s.renamed a b).core c = (s.core c).renamed a b := by
  have hfind := Tab.find?_map (fun _ k => Core.renamed a b k) s.cores c
  simp only [State.core, Tab.get]
  rw [show (s.renamed a b).cores = s.cores.map fun (c, k) => (c, k.renamed a b) from rfl, hfind]
  cases Tab.find? s.cores c <;> rfl

theorem State.asks_moveContext : ((s.renamed a b).handedOver a b).Asks (s.moveContext a b) := by
  have hposts {α : Type} (f : State → α → State) (h : ∀ (t : State) (x : α), t.Asks (f t x)) (xs : List α) {t : State}
      (ht : ((s.renamed a b).handedOver a b).Asks t) : ((s.renamed a b).handedOver a b).Asks (xs.foldl f t) := ht.trans (.foldl h xs t)
  unfold moveContext
  dsimp only
  refine .trans ?_ (.post _ _ _)
  refine hposts _ (fun t _ => .ite (.post _ _ _) (.refl t)) _ ?_
  refine hposts _ (fun t _ => .post _ _ _) _ ?_
  refine hposts _ (fun t _ => .post _ _ _) _ ?_
  refine hposts _ (fun t _ => .post _ _ _) _ ?_
  exact hposts _ (fun t _ => .ite (.post _ _ _) (.refl t)) _ (.refl _)

theorem State.core_moveContext_source : (s.moveContext a b).core a =
    { Core.reset with part := (s.core a).part, job := (s.core a).job, svec := (s.core a).svec, delays := (s.core a).delays, forward := some b } := by
  rw [asks_moveContext.core, handedOver, core_setCore, core_renamed]
  rfl

theorem State.core_moveContext_dest (hab : a ≠ b) : (s.moveContext a b).core b =
    { (s.core a).renamed a b with svec := (s.core b).svec, delays := (s.core b).delays, forward := none } := by
  rw [asks_moveContext.core, handedOver, core_setCore_ne _ _ hab.symm, core_setCore, core_renamed, core_renamed]
  rfl

/-- A core that has joined a job's partition. -/
def Core.joined (j : Nat) (part : Part) (k : Core) : Core := { k with job := some j, part := part }

theorem State.joinPartition_none (h : (s.core a).job = none) : s.joinPartition a b = s := by
  rw [joinPartition, h]

theorem State.joinPartition_some {j : Nat} (h : (s.core a).job = some j) (c : Nat) : (s.joinPartition a b).core c =
    (s.modCore b (Core.joined j (s.core a).part)).core c := by
  rw [joinPartition, h]
  rfl

/-- The destination takes the source's job and partition, and nothing else changes in any core. -/
theorem State.core_joinPartition (c : Nat) : ∃ job part, (s.joinPartition a b).core c =
    (if c = b then { s.core c with job := job, part := part } else s.core c) ∧
      job = match (s.core a).job with | some j => some j | none => (s.core b).job := by
  cases hjob : (s.core a).job with
  | none =>
    refine ⟨_, (s.core b).part, ?_, rfl⟩
    rw [joinPartition_none hjob]
    split
    next h => rw [h]
    next => rfl
  | some j =>
    refine ⟨_, (s.core a).part, ?_, rfl⟩
    rw [joinPartition_some hjob]
    split
    next hc => rw [hc, core_modCore]; rfl
    next hc => rw [core_modCore_ne s _ hc]

theorem State.mem_joinPartition : (s.joinPartition a b).mem = s.mem := by
  unfold joinPartition
  split <;> rfl

theorem State.strand_joinPartition (y : SId) : (s.joinPartition a b).strand y = s.strand y := by
  obtain ⟨job, part, h, -⟩ := core_joinPartition (s := s) (a := a) (b := b) y.core
  rw [strand, h]
  split <;> rfl

/-- While a MIGRATE waits for it, the move is carried out. -/
theorem State.migrateEnd_waiting (h : ∃ y ∈ s.allStrands, ∃ p, (s.strand y).park = some p ∧ p.on = .migrate a b) :
    (State.joinPartition (if (s.core a).forward.isSome then s else s.moveContext a b) a b).Asks (s.migrateEnd a b) := by
  obtain ⟨y, hy, p, hpark, hon⟩ := h
  have hany : (s.allStrands.any fun x => (s.strand x).park.any fun p => p.on = ParkOn.migrate a b) = true :=
    List.any_eq_true.mpr ⟨y, hy, by rw [hpark]; exact decide_eq_true hon⟩
  rw [migrateEnd, if_pos hany]
  exact .wake _ _

end

/-! ### Debug (R383 to R385) -/

section
variable {s : State} {x : SId}

/-- A halted strand outside a gang that is told to go on ends its task and seeks a record (R360). -/
theorem State.asks_go_halted (hhalted : (s.strand x).run = .halted) (hgang : (s.strand x).gang = none) :
    (s.endTask x).Asks (s.go x) := by
  have hon : s.goOn x = s.endTask x := by rw [goOn, hhalted]
  have hidle := State.idle_endTask hgang
  have hstopped : (s.endTask x).goStopped x = (s.endTask x).post 0 (.quiesceSignalArrival x) := by rw [goStopped, hidle]; rfl
  rw [go, hon, hstopped]
  exact .trans (.post _ _ _) (.ite (.foldl (fun t _ => .ite (.refl t) (.postAll t _)) _ _) (.refl _))

theorem State.pop_endTask (hgang : (s.strand x).gang = none) : ∃ d ∈ (s.endTask x).agenda, d.what = .pop x := by
  rw [endTask_eq, ((KeepsGangs.places s x).gang x).trans hgang]
  exact ⟨_, List.mem_append_right _ (List.mem_singleton.mpr rfl), rfl⟩

theorem State.strand_noteLate (t : LateItem) (v : Nat) : ∃ lates, (s.noteLate x t v).strand x = { s.strand x with lates := lates } := by
  rw [noteLate, strand_modStrand]
  exact ⟨_, rfl⟩

/-- The strand as it leaves its region and, in a gang, holds its domain (R384). -/
def State.stopHeld (s : State) (x : SId) : State :=
  if (s.strand x).gang.isSome then (s.endRegion x).noteLate x .stop (s.issueVc x) else s.endRegion x

/-- A strand that a stop of debugging takes out of the rotation at vc v. -/
def Strand.debugStop (v cc : Nat) (st : Strand) : Strand :=
  { (st.unpark cc) with
    run := .debugStopped, stopAsked := false, brkAt := none, slot := v, resumed := false,
    dbgCode := if st.stepping then 0x15 else st.dbgCode, stepping := false }

theorem State.strand_stopHeld : ∃ region lates, (s.stopHeld x).strand x = { s.strand x with region := region, lates := lates } := by
  have hregion := s.strand_endRegion x
  unfold stopHeld
  split
  · obtain ⟨lates, h⟩ := (s.endRegion x).strand_noteLate (x := x) .stop (s.issueVc x)
    exact ⟨_, lates, h.trans (by rw [hregion])⟩
  · exact ⟨_, _, hregion⟩

/-- A strand that stands at a group boundary stops (R384). -/
theorem State.stopStrand_standing (hrun : (s.strand x).run = .running) (hasked : (s.strand x).stopAsked = true)
    (hstanding : (s.strand x).standing = true) : s.stopStrand x = ((s.modStrand x Strand.settled).stopHeld x).modStrand x
      (Strand.debugStop ((s.modStrand x Strand.settled).issueVc x) ((s.modStrand x Strand.settled).stopHeld x).clock.cc) := by
  have ⟨hpassed, hpending⟩ : (s.strand x).passed = true ∧ (s.strand x).pending = [] := by
    simp only [Strand.standing, Bool.and_eq_true, List.isEmpty_iff] at hstanding
    exact hstanding.1
  have hsettle : (s.modStrand x fun st => st.settle (st.vcAt s.clock.cc)) = s.modStrand x Strand.settled := by
    rw [modStrand, Strand.settle_passed hpassed hpending]
    rfl
  have hgo : ¬((s.strand x).settled.run ≠ .running || !(s.strand x).settled.stopAsked || !(s.strand x).settled.standing) = true := by
    have hstanding : (s.strand x).settled.standing = true := hstanding
    have hasked : (s.strand x).settled.stopAsked = true := hasked
    have hrun : (s.strand x).settled.run = .running := hrun
    simp [hstanding, hasked, hrun]
  unfold stopStrand
  rw [hsettle]
  dsimp only
  rw [if_neg (by rw [strand_modStrand]; exact hgo)]
  rfl

theorem Strand.debugStop_stopped (v cc : Nat) (st : Strand) : (st.debugStop v cc).run = .debugStopped ∧ (st.debugStop v cc).stopAsked = false ∧
    (st.debugStop v cc).dbgCode = (if st.stepping then 0x15 else st.dbgCode) ∧ (st.debugStop v cc).regs = st.regs ∧
    (st.debugStop v cc).pc = st.pc := by
  unfold debugStop unpark
  split <;> exact ⟨rfl, rfl, rfl, rfl, rfl⟩

theorem State.strand_stopStrand (hrun : (s.strand x).run = .running) (hasked : (s.strand x).stopAsked = true)
    (hstanding : (s.strand x).standing = true) : ∃ v cc st, (s.stopStrand x).strand x = Strand.debugStop v cc st ∧
      st.regs = (s.strand x).regs ∧ st.pc = (s.strand x).pc ∧ st.stepping = (s.strand x).stepping ∧ st.dbgCode = (s.strand x).dbgCode := by
  obtain ⟨region, lates, h⟩ := (s.modStrand x Strand.settled).strand_stopHeld (x := x)
  rw [stopStrand_standing hrun hasked hstanding, strand_modStrand, h, strand_modStrand]
  exact ⟨_, _, _, rfl, rfl, rfl, rfl, rfl⟩

/-- STOP of DBGCTL, to a strand that runs or is stopped for a pre-emption (R383). -/
theorem State.strand_askStop (h : (s.strand x).run = .running ∨ (s.strand x).run = .drained) :
    (s.askStop x).strand x = { s.strand x with stopAsked := true, stepping := false, dbgCode := 0 } := by
  rw [askStop, strand_modStrand, if_pos (by rcases h with h | h <;> rw [h] <;> rfl)]

end

/-- Settles O46: each step as the lemma about its definition says it, a strand outside a gang being its own domain. -/
theorem stoppingSteps : Obligations.StoppingSteps := by
  unfold Obligations.StoppingSteps
  intro s x w j a b e
  refine ⟨fun hrun hdrain hjob => ⟨?_, ?_, ?_⟩, ?_, ?_, ?_, ?_, ?_, ?_, ?_⟩
  · intro hgang hfree
    have hvc : s.stopVc x = nextSlot (s.rotation x) (s.strand x).phase
        (if (s.strand x).base ≤ s.clock.cc then (s.strand x).vcAt s.clock.cc + 1 else 0) := by
      rw [State.stopVc, hgang]; rfl
    refine ⟨_, exec_quiesceSignalArrival x s, ?_⟩
    rw [State.signal_alone hrun hdrain hjob hgang hfree]
    refine ⟨?_, ?_, fun y hy => State.strand_modStrand_ne _ _ hy, ?_⟩
    · exact (congrArg Strand.drainT (s.strand_modStrand x _)).trans (congrArg some hvc)
    · exact (congrArg Strand.regs (s.strand_modStrand x _)).trans rfl
    · rw [← hvc]
      exact List.mem_append_right _ (List.mem_singleton.mpr rfl)
  · intro hgang hbusy
    rw [exec_quiesceSignalArrival, execQuiesceSignalArrival, State.signal_handling hrun hdrain hjob hgang hbusy]
  · intro hgang hcc hfree
    have hvc : s.stopVc x = roundUp (s.rotation x) (s.clock.cc + 24 - (s.strand x).base) := by
      have hisNone : (s.strand x).gang.isNone = false := Option.isNone_eq_false_iff.mpr (Option.isSome_iff_ne_none.mpr hgang)
      rw [State.stopVc, hisNone, hcc]
      rfl
    refine ⟨_, exec_quiesceSignalArrival x s, fun y hy => ?_⟩
    rw [State.signal_free hrun hdrain hjob hfree, ← hvc]
    exact State.strand_foldl_stopAt _ _ hy s
  · intro t hgang hrun hdying hheld hdrain hquiet v hpast
    obtain ⟨st, hst, hdrained, hvc, hpc, hregs⟩ := (s.modStrand x Strand.settled).strand_drained_alone (x := x)
      (roundUp (s.rotation x) (Nat.max t ((s.strand x).vcAt s.clock.cc)))
    have hshift : (s.strand x).settled.drainT = some t := hdrain
    rw [State.strand_modStrand, hshift] at hregs
    rw [State.strand_modStrand] at hpc
    refine ⟨_, exec_domainStop x s, ?_⟩
    rw [State.stopDomain_quiet hgang hrun hdying hheld hdrain hquiet hpast, State.strand_stopCheck, hst]
    exact ⟨hdrained, hvc, hpc, hregs⟩
  · intro hjob hmarker hready
    have hpass : s.passMarker j e = (s.modJob j fun b => { b with markers := b.markers.erase e }).stopCheck j := by
      rw [State.passMarker, if_pos (by rw [hjob, hmarker, hready]; rfl)]
    refine ⟨_, exec_quiesceMarkerPass j e s, ?_⟩
    rw [hpass]
    refine ⟨State.mem_stopCheck _ _, ?_, fun hstill hlast => ?_⟩
    · rw [State.markers_stopCheck, State.job_modJob]
    · refine State.stopCheck_stops ?_ ?_ hstill
      · rw [State.job_modJob]; exact hjob
      · rw [State.job_modJob, hlast]; exact List.erase_cons_head _ _
  · intro hforward hab hwaits
    have hend := State.migrateEnd_waiting hwaits
    rw [hforward, if_neg (by decide)] at hend
    obtain ⟨_, _, ha, -⟩ := State.core_joinPartition (s := s.moveContext a b) (a := a) (b := b) a
    obtain ⟨job, part, hb, -⟩ := State.core_joinPartition (s := s.moveContext a b) (a := a) (b := b) b
    rw [if_neg hab, ← hend.core, State.core_moveContext_source] at ha
    rw [if_pos rfl, ← hend.core, State.core_moveContext_dest hab] at hb
    refine ⟨_, exec_migrationComplete a b s, ?_, ?_, ?_, ?_, ?_, ?_, fun n => ⟨?_, ?_⟩, ?_⟩
    · rw [ha]
    · rw [ha]
    · rw [hb]
    · rw [hb]; rfl
    · rw [hb]; rfl
    · rw [hb]; rfl
    · rw [State.strand, hb]; rfl
    · rw [State.strand, hb]; rfl
    · rw [hend.mem, State.mem_joinPartition, State.asks_moveContext.mem]
      rfl
  · intro hforward hab hwaits
    have hend := State.migrateEnd_waiting hwaits
    rw [if_pos (Option.isSome_iff_ne_none.mpr hforward)] at hend
    obtain ⟨_, _, ha, -⟩ := State.core_joinPartition (s := s) (a := a) (b := b) a
    obtain ⟨job, part, hb, hjob⟩ := State.core_joinPartition (s := s) (a := a) (b := b) b
    rw [if_neg hab, ← hend.core] at ha
    rw [if_pos rfl, ← hend.core] at hb
    refine ⟨_, exec_migrationComplete a b s, ha, fun y => (hend.strand y).trans (State.strand_joinPartition y),
      hend.mem.trans State.mem_joinPartition, ?_⟩
    rw [hb]
    exact hjob
  · intro hrun
    have hset : (s.setDbg x w).strand x = { s.strand x with brken := bitOf w 3, stepBit := bitOf w 2 } := s.strand_modStrand x _
    refine ⟨_, exec_dbgctlStop x w s, ?_⟩
    rw [State.strand_askStop (by rw [hset]; exact hrun), hset]
    exact ⟨rfl, bitOf_eq_getLsbD w 3, bitOf_eq_getLsbD w 2, rfl, rfl⟩
  · intro hhalted hgang
    have hset : (s.setDbg x w).strand x = { s.strand x with brken := bitOf w 3, stepBit := bitOf w 2 } := s.strand_modStrand x _
    have hgang : ((s.setDbg x w).strand x).gang = none := by rw [hset]; exact hgang
    have hgo := State.asks_go_halted (by rw [hset]; exact hhalted) hgang
    obtain ⟨hpending, hpark, -, -⟩ := (s.setDbg x w).over_endTask x
    obtain ⟨d, hd, hpop⟩ := State.pop_endTask hgang
    refine ⟨_, exec_dbgctlGo x w s, ?_⟩
    rw [hgo.strand]
    exact ⟨State.idle_endTask hgang, hpark, hpending, d, hgo.due hd, hpop⟩
  · intro hrun hasked hstanding i hi
    obtain ⟨v, cc, st, hst, hregs, hpc, hstepping, hcode⟩ := State.strand_stopStrand hrun hasked hstanding
    have hstops := Strand.debugStop_stopped v cc st
    rw [← hst, hregs, hpc, hstepping, hcode] at hstops
    have hexec : exec i s = .next (s.stopStrand x) := by
      rcases List.mem_cons.mp hi with rfl | hi
      · exact exec_debugStop x s
      · rw [List.mem_singleton.mp hi]; exact exec_stepStop x s
    exact ⟨_, hexec, hstops⟩

end Sys2Proof.Machine
end
